-- ==== Sys2Proof/Word.lean ====
section
/-! DEFINITION. The widths the manual carries its numbers in: bytes on the links (11 R188), 16-bit items, and the
32-bit microsecond counter (02 R16). -/

namespace Sys2Proof

/-- One byte of a serial link. -/
abbrev Byte := BitVec 8

/-- A two-byte item: tags of cues, track sets, take and pass numbers on the wire (11 R188). -/
abbrev Half := BitVec 16

/-- A value of the 32-bit microsecond counter (02 R16). -/
abbrev Stamp := BitVec 32

end Sys2Proof
end

