-- ==== Sys2Proof/Syntax.lean ====
section
/-! DEFINITION. The commands: one constructor for each row of spec/opcode_table.json. An event carries the value of
the microsecond counter at which it falls (log 2); a request carries its tag and its payload items as 11 R188 sends
them, still untested. -/

namespace Sys2Proof

/-- The direction of a timecode word, from the orientation of its sync pattern (02 R14). -/
inductive Sense where
  | forward
  | reverse
  deriving DecidableEq, Repr

/-- The four label fields of a timecode word as they are read (02 R14, 01 R2). -/
structure WordLabel where
  hours : Byte
  minutes : Byte
  seconds : Byte
  frames : Byte
  deriving DecidableEq, Repr

/-- A cue key as a payload carries it: three bytes (11 R188). -/
structure WireKey where
  num : Half
  suffix : Byte
  deriving DecidableEq, Repr

/-- A position as a payload carries it: five bytes, an extended label (11 R188). -/
structure WirePos where
  hours : Byte
  minutes : Byte
  seconds : Byte
  frames : Byte
  sub : Byte
  deriving DecidableEq, Repr

/-- "A key or ALL" (11 R188). -/
inductive KeyOrAll where
  | key (k : WireKey)
  | all
  deriving DecidableEq, Repr

/-- "A number or OLDEST_UNCOLLECTED" (11 R188, 08 R145). -/
inductive TakeSelector where
  | number (n : Half)
  | oldestUncollected
  deriving DecidableEq, Repr

/-- The ten items of SET_NOTICES, in the order of 10 R179 (10 R177). -/
structure MaskItems where
  lock : Byte
  motion : Byte
  relocate : Byte
  line : Byte
  cuePassed : Byte
  take : Byte
  armLapsed : Byte
  pass : Byte
  bank : Byte
  fault : Byte
  deriving DecidableEq, Repr

/-- The six fields of SET_TRACKING, each present or absent (02 R36). -/
structure TrackingItems where
  offset : Option Byte
  lockCount : Option Byte
  freewheelLimit : Option Byte
  bandLow : Option Half
  bandHigh : Option Half
  settleSpan : Option Byte
  deriving DecidableEq, Repr

/-- The ten fields of SET_CHANNEL, each present or absent (04 R65). -/
structure ChannelItems where
  enabled : Option Byte
  filterTag : Option Half
  filterMask : Option Half
  textLead : Option Byte
  lane : Option Byte
  colour : Option Byte
  toneMode : Option Byte
  pitch : Option Half
  level : Option Byte
  beepLength : Option Half
  deriving DecidableEq, Repr

/-- The three fields of SET_TAKE_TIMING (07 R117). -/
structure TakeTimingItems where
  punchLead : Option Byte
  punchTail : Option Byte
  armWindow : Option Half
  deriving DecidableEq, Repr

/-- The three fields of SET_PASS_TIMING (09 R153). -/
structure PassTimingItems where
  preroll : Option Half
  postroll : Option Half
  locateTimeout : Option Byte
  deriving DecidableEq, Repr

/-- The four fields of SET_GUARD (07 R126). -/
structure GuardItems where
  enabled : Option Byte
  tracks : Option Half
  base : Option WirePos
  limit : Option WirePos
  deriving DecidableEq, Repr

/-- The fields of LOAD_CUE after the key, in the order of 03 R41. -/
structure CueItems where
  tag : Half
  inPt : WirePos
  outPt : WirePos
  streamer : Byte
  beeps : Byte
  interval : Byte
  punch : Byte
  tracks : Half
  text : Option (List Byte)
  deriving DecidableEq, Repr

/-- The fields of UPDATE_CUE after the key (03 R56): a value for each selected field, and the flags 9..15 of the
field-select set, which name no field. -/
structure CueEdit where
  extraFlags : BitVec 7
  tag : Option Half
  inPt : Option WirePos
  outPt : Option WirePos
  streamer : Option Byte
  beeps : Option Byte
  interval : Option Byte
  punch : Option Byte
  tracks : Option Half
  text : Option (Option (List Byte))
  deriving DecidableEq, Repr

/-- The fields of START_PASS (09 R154). -/
structure PassItems where
  mode : Byte
  first : Option WireKey
  last : Option WireKey
  target : Option WirePos
  cycles : Byte
  record : Byte
  queue : Byte
  deriving DecidableEq, Repr

/-- The commands of the LC-8, one constructor for each row of spec/opcode_table.json. -/
inductive Instr where
  /-- POWER_ON (11 R184). -/
  | powerOn
  /-- WORD_ARRIVAL (02 R14): the label, the direction, the microseconds the word's decoding took, the stamp. -/
  | wordArrival (label : WordLabel) (sense : Sense) (took stamp : Stamp)
  /-- WORD_TIMEOUT (02 R18). -/
  | wordTimeout (now : Stamp)
  /-- PLAY_HEAD_ADVANCE (02 R26). -/
  | playHeadAdvance (now : Stamp)
  /-- FREEWHEEL_LIMIT_REACHED (02 R30). -/
  | freewheelLimitReached (now : Stamp)
  /-- BURST_EXPIRY (06 R97). -/
  | burstExpiry (channel : Fin 8) (now : Stamp)
  /-- TONE_PERIOD_START (06 R96). -/
  | tonePeriodStart (channel : Fin 8) (now : Stamp)
  /-- VIDEO_FRAME_START (06 R110). -/
  | videoFrameStart (now : Stamp)
  /-- VIDEO_LOST (06 R106). -/
  | videoLost (now : Stamp)
  /-- ARM_DEADLINE_EXPIRY (07 R132). -/
  | armDeadlineExpiry (entry : Fin 4) (now : Stamp)
  /-- PHASE_DEADLINE_EXPIRY (09 R162). -/
  | phaseDeadlineExpiry (now : Stamp)
  /-- TRANSPORT_REQUEST_SENT (09 R169). -/
  | transportRequestSent (now : Stamp)
  /-- TRANSPORT_ANSWER (09 R169): the carriage return that completes the line gathered. -/
  | transportAnswer (now : Stamp)
  /-- TRANSPORT_ANSWER_DEADLINE (09 R169). -/
  | transportAnswerDeadline (now : Stamp)
  /-- FRAME_RECEIVED (11 R186): the last byte of a frame. -/
  | frameReceived (last : Byte) (now : Stamp)
  /-- BAD_LENGTH (11 R186): the length byte. -/
  | badLength (length : Byte) (now : Stamp)
  /-- LINK_GAP_EXPIRY (11 R186). -/
  | linkGapExpiry (now : Stamp)
  /-- HOLD (11 R193): the byte 0xC3. -/
  | hold (now : Stamp)
  /-- GO_ON (11 R193): the byte 0xC5. -/
  | goOn (now : Stamp)
  /-- MALFORMED_REQUEST (11 R189): a frame the handler answers MALFORMED. -/
  | malformedRequest (kind tag : Byte) (payload : List Byte)
  /-- TRANSMIT_CHOOSE (11 R192). -/
  | transmitChoose (now : Stamp)
  /-- TRANSMIT_FRAME_END (11 R192). -/
  | transmitFrameEnd (now : Stamp)
  /-- IDENTIFY (11 R195). -/
  | identify (tag : Byte)
  /-- GET_STATUS (11 R196). -/
  | getStatus (tag : Byte)
  /-- SET_NOTICES (10 R177). -/
  | setNotices (tag : Byte) (items : MaskItems)
  /-- RESTART (11 R197). -/
  | restart (tag : Byte)
  /-- SET_TRACKING (02 R36). -/
  | setTracking (tag : Byte) (items : TrackingItems)
  /-- SET_SCHEDULE (05 R75). -/
  | setSchedule (tag : Byte) (window : Option Half)
  /-- SET_CHANNEL (04 R65). -/
  | setChannel (tag : Byte) (channel : Byte) (items : ChannelItems)
  /-- SET_TAKE_TIMING (07 R117). -/
  | setTakeTiming (tag : Byte) (items : TakeTimingItems)
  /-- SET_PASS_TIMING (09 R153). -/
  | setPassTiming (tag : Byte) (items : PassTimingItems)
  /-- SET_GUARD (07 R126). -/
  | setGuard (tag : Byte) (span : Byte) (items : GuardItems)
  /-- BANK_SETUP (03 R47). -/
  | bankSetup (tag : Byte) (rate : Byte)
  /-- LOAD_CUE (03 R48). -/
  | loadCue (tag : Byte) (key : WireKey) (items : CueItems)
  /-- DROP_CUE (03 R49). -/
  | dropCue (tag : Byte) (key : WireKey)
  /-- CLEAR_BANK (03 R50). -/
  | clearBank (tag : Byte)
  /-- SWITCH_BANK (03 R52). -/
  | switchBank (tag : Byte)
  /-- CANCEL_SWITCH (03 R55). -/
  | cancelSwitch (tag : Byte)
  /-- UPDATE_CUE (03 R56). -/
  | updateCue (tag : Byte) (key : WireKey) (edit : CueEdit)
  /-- READ_CUE (03 R59). -/
  | readCue (tag : Byte) (selector : Byte) (key : WireKey)
  /-- LIST_CUES (03 R60). -/
  | listCues (tag : Byte) (selector : Byte) (index : Half)
  /-- CUE_STATE (05 R94). -/
  | cueState (tag : Byte) (key : WireKey)
  /-- ARM_TAKE (07 R119). -/
  | armTake (tag : Byte) (key : WireKey) (tracks : Option Half)
  /-- DISARM (07 R131). -/
  | disarm (tag : Byte) (which : KeyOrAll)
  /-- ABORT_TAKE (07 R130). -/
  | abortTake (tag : Byte) (which : KeyOrAll)
  /-- READ_TAKE (08 R145). -/
  | readTake (tag : Byte) (which : TakeSelector)
  /-- COLLECT_TAKES (08 R144). -/
  | collectTakes (tag : Byte) (number : Half)
  /-- CLEAR_SLOTS (08 R148). -/
  | clearSlots (tag : Byte) (which : KeyOrAll)
  /-- READ_SLOTS (08 R149). -/
  | readSlots (tag : Byte) (key : WireKey)
  /-- START_PASS (09 R154). -/
  | startPass (tag : Byte) (items : PassItems)
  /-- STOP_CYCLE (09 R164). -/
  | stopCycle (tag : Byte)
  /-- ABANDON_PASS (09 R165). -/
  | abandonPass (tag : Byte)
  /-- READ_FAULTS (10 R180). -/
  | readFaults (tag : Byte)
  /-- CLEAR_FAULT (10 R181). -/
  | clearFault (tag : Byte) (slot : Byte)
  /-- CLEAR_OVERFLOW (10 R182). -/
  | clearOverflow (tag : Byte)
  /-- CONTROL_BYTE_RECEIVED (11 R186). -/
  | controlByteReceived (byte : Byte) (now : Stamp)
  /-- TRANSPORT_CHARACTER_RECEIVED (09 R168). -/
  | transportCharacterReceived (char : Byte) (now : Stamp)
  deriving DecidableEq, Repr

end Sys2Proof
end

