-- ==== Sys2Proof/Decode.lean ====
section
/-! DEFINITION. spec/opcode_table.json gives no bits to any of its rows (they are requests and events, not words of an
instruction stream), so no word spells a command (log 4). -/

namespace Sys2Proof

/-- The command that a word of the table's bits spells: none, since no row has bits (log 4). -/
def decodeTableWord (_nbits _w : Nat) : Option Instr := none

end Sys2Proof
end

