-- ==== Sys2Proof/Config.lean ====
section
/-! DEFINITION. What the manual leaves open and no step of the model fixes. -/

namespace Sys2Proof

/-- FREE VALUE. The cycle ordinal that follows 65535: 09 R152 gives the ordinal 1..65535 and R156 raises it by one
at each later cycle, and no rule says what follows 65535. Applied to `State.freeDraws` (log 6). -/
opaque Config.freeOrdinal : Nat → BitVec 16

end Sys2Proof
end

