-- ==== Sys2Proof/Machine/State.lean ====
section
/-! DEFINITION. The state of the engine as plain data: every item the spec gives each block (00, Block overview), the
queue of commands that wait, the machine right after power-on, and the outcomes other than a next state. -/

namespace Sys2Proof.Machine

/-! ### Rates and keys -/

/-- The six rates, with rate codes 0..5 in this order (01 R1). -/
inductive Rate where
  | film24
  | film2398
  | pal25
  | drop2997
  | nonDrop2997
  | ntsc30
  deriving DecidableEq, Repr

/-- A cue key: a number 1..9999 and no suffix or one letter A..Z (03 R40). -/
structure Key where
  num : Nat
  suffix : Option (Fin 26)
  deriving DecidableEq, Repr

/-! ### Play head tracker (02) -/

/-- The tracker's states (02 R17). -/
inductive TrackState where
  | silent
  | acquiring
  | locked
  | freewheel
  | parked
  deriving DecidableEq, Repr

/-- The tracker's direction (02 R17). -/
inductive Heading where
  | forward
  | reverse
  | still
  deriving DecidableEq, Repr

/-- The motion classes (02 R32). -/
inductive MotionClass where
  | none
  | still
  | play
  | spool
  | reverse
  deriving DecidableEq, Repr

/-- A word arrival: its absolute frame count with the offset included, its direction, its stamp (02 R14). -/
structure Word where
  a : Nat
  sense : Sense
  stamp : Stamp
  deriving DecidableEq, Repr

/-- The tracking settings (02 R36, 01 R9). -/
structure TrackSettings where
  offset : Int
  lockCount : Nat
  freewheelLimit : Nat
  bandLow : Nat
  bandHigh : Nat
  settleSpan : Nat
  deriving DecidableEq, Repr

/-- The tracker's record (02 R17). `head` is the play head P. `acqRepeats` counts the repeats that end the present
acquisition run (02 R20) and `timeoutFrom` is the change of offset from which the word timeout runs (02 R18); the
manual implies both (log 30). -/
structure Tracker where
  settings : TrackSettings
  state : TrackState
  accepted : Option Word
  reference : Option Word
  run : Nat
  acqIntervals : List Nat
  acqRepeats : Nat
  repeatRun : Nat
  candidate : Option Word
  history : List Nat
  lastArrival : Option Stamp
  timeoutFrom : Option Stamp
  speed : Nat
  heading : Heading
  head : Nat
  cls : MotionClass
  settleEnd : Option Nat
  settled : Bool
  deriving DecidableEq, Repr

/-- The timecode reader: the invalid-word run (02 R15), and the microseconds since the last power-on or RESTART, which
cut short the word being decoded (02 R14); `sinceCut` stands at 2^32 once it reaches it (log 9). -/
structure Reader where
  invalidRun : Nat
  sinceCut : Nat
  deriving DecidableEq, Repr

/-! ### Cue table (03) -/

/-- A cue record (03 R41). -/
structure Cue where
  key : Key
  tag : Half
  inPt : Nat
  outPt : Nat
  streamer : Nat
  beeps : Nat
  interval : Nat
  punch : Bool
  tracks : Half
  text : Option (List Byte)
  deriving DecidableEq, Repr

/-- A bank: its records in table order and its rate (03 R45, R46). -/
structure Bank where
  cues : List Cue
  rate : Rate
  deriving DecidableEq, Repr

/-- The two banks (03 R39). -/
inductive BankName where
  | a
  | b
  deriving DecidableEq, Repr

/-- The cue table's state (03 R39). -/
structure CueTable where
  bankA : Bank
  bankB : Bank
  active : BankName
  switchPending : Bool
  deriving DecidableEq, Repr

/-! ### Channels, schedules and outputs (04, 05, 06) -/

/-- Why a cue was passed (05 R72). -/
inductive PassReason where
  | skipped
  | joinedLate
  | settle
  | scheduleFull
  | interrupted
  deriving DecidableEq, Repr

/-- A cue's status on a channel, with the reason while it is PASSED (05 R72). -/
inductive CueStatus where
  | waiting
  | queued
  | active
  | done
  | passed (reason : PassReason)
  deriving DecidableEq, Repr

/-- The expansion copy of a QUEUED or ACTIVE cue (05 R72). -/
structure CueCopy where
  inPt : Nat
  outPt : Nat
  streamer : Nat
  punch : Bool
  text : Option (List Byte)
  textLead : Nat
  deriving DecidableEq, Repr

/-- An entry of a status map (04 R62, 05 R72). -/
structure MapEntry where
  key : Key
  status : CueStatus
  copy : Option CueCopy
  deriving DecidableEq, Repr

/-- The kinds of cue events; a BEEP carries its index (05 R73, R74). -/
inductive EventKind where
  | textClear
  | lineOut
  | textShow
  | streamerStart
  | beep (index : Nat)
  | lineIn
  deriving DecidableEq, Repr

/-- A schedule entry; `cueIn` is the in point of the cue's expansion copy, by which 05 R74 orders ties. -/
structure Entry where
  kind : EventKind
  point : Nat
  key : Key
  cueIn : Nat
  deriving DecidableEq, Repr

/-- A channel's ten settings (04 R61); `steady` is tone mode STEADY. -/
structure ChannelSettings where
  enabled : Bool
  filterTag : Half
  filterMask : Half
  textLead : Nat
  lane : Nat
  colour : Nat
  steady : Bool
  pitch : Nat
  level : Nat
  beepLength : Nat
  deriving DecidableEq, Repr

/-- The tone unit's states (06 R95). -/
inductive ToneState where
  | idle
  | burst
  | held
  deriving DecidableEq, Repr

/-- The tone period under way: its pitch and when it began (06 R96). -/
structure TonePeriod where
  pitch : Nat
  start : Stamp
  deriving DecidableEq, Repr

/-- A tone unit (06 R95); `subMs` is the part of a millisecond its own timer has counted (06 R97, log 11). -/
structure Tone where
  state : ToneState
  remaining : Nat
  subMs : Nat
  holders : List Key
  period : Option TonePeriod
  deriving DecidableEq, Repr

/-- A lamp driver (06 R102). -/
structure Lamps where
  ready : Nat
  live : Nat
  deriving DecidableEq, Repr

/-- A streamer (06 R107): start point, length in frames, cue key. -/
structure Streamer where
  start : Nat
  length : Nat
  key : Key
  deriving DecidableEq, Repr

/-- A shown text (06 R107). -/
structure ShownText where
  text : List Byte
  key : Key
  deriving DecidableEq, Repr

/-- A channel's overlay state (06 R107). -/
structure Overlay where
  streamer : Option Streamer
  punch : Nat
  shown : Option ShownText
  deriving DecidableEq, Repr

/-- A talent channel: its settings, its view of the active bank, and its three output blocks. -/
structure Channel where
  settings : ChannelSettings
  map : List MapEntry
  schedule : List Entry
  tone : Tone
  lamps : Lamps
  overlay : Overlay
  deriving DecidableEq, Repr

/-- The colours the overlay draws in, with colour codes 0..7 in this order (04 R70). -/
inductive Colour where
  | white
  | yellow
  | cyan
  | green
  | magenta
  | red
  | blue
  | orange
  deriving DecidableEq, Repr

/-- An item drawn over the picture (06 R105; log 33): a punch fills its lane white, a streamer bar covers 24 pixels from
`x`, a text row shows up to 60 characters. -/
inductive DrawItem where
  | punch (lane : Nat)
  | bar (lane : Nat) (colour : Colour) (x : Nat)
  | text (lane : Nat) (colour : Colour) (chars : List Byte)
  deriving DecidableEq, Repr

/-- The overlay generator's shared state (06 R106, R110); `drawing` lists the items in painting order (06 R112).
`ahead` is the model's own: the last frame start was taken in the course of a change of P, and its command is still to come
(06 R113; log 49). -/
structure Video where
  present : Bool
  lastStart : Stamp
  drawing : List DrawItem
  ahead : Bool
  deriving DecidableEq, Repr

/-! ### Takes, log and slots (07, 08) -/

/-- A track's gate state (07 R116). -/
inductive GateState where
  | wait
  | opened
  | shut
  deriving DecidableEq, Repr

/-- The items of one track of a take entry (07 R116); its slot stands in the slot table. -/
structure TrackItem where
  track : Nat
  winStart : Nat
  winEnd : Nat
  gate : GateState
  firstOpen : Option Nat
  lastClose : Option Nat
  truncated : Bool
  guarded : Bool
  deriving DecidableEq, Repr

/-- Who armed a take (07 R116). -/
inductive Origin where
  | host
  | pass
  deriving DecidableEq, Repr

/-- An entry in use of the armed-take table (07 R116); `opened` distinguishes OPEN from ARMED. -/
structure TakeEntry where
  key : Key
  opened : Bool
  origin : Origin
  passNumber : Nat
  lead : Nat
  tail : Nat
  winStart : Nat
  winEnd : Nat
  items : List TrackItem
  deadline : Option Stamp
  disarmAfter : Bool
  deriving DecidableEq, Repr

/-- A guard span (07 R125). -/
structure Guard where
  enabled : Bool
  tracks : Half
  base : Nat
  limit : Nat
  deriving DecidableEq, Repr

/-- The take controller's state (07 R115). -/
structure Takes where
  entries : List (Option TakeEntry)
  gateLines : Half
  guards : List Guard
  punchLead : Nat
  punchTail : Nat
  armWindow : Nat
  deriving DecidableEq, Repr

/-- How a take closed (08 R140). -/
inductive TakeStatus where
  | complete
  | broken
  | aborted
  deriving DecidableEq, Repr

/-- A slot's firmness; a PROVISIONAL slot has its owner entry (08 R146). -/
inductive Firmness where
  | firm
  | provisional (owner : Nat)
  deriving DecidableEq, Repr

/-- An entry of the slot table (08 R146): the positions P with `base ≤ P < fin`. -/
structure Slot where
  key : Key
  track : Nat
  base : Nat
  fin : Nat
  firmness : Firmness
  deriving DecidableEq, Repr

/-- One track of a take record (08 R140). -/
structure RecordTrack where
  item : TrackItem
  slotBase : Nat
  slotFin : Nat
  slotFirm : Bool
  deriving DecidableEq, Repr

/-- A take record (08 R140). -/
structure TakeRecord where
  number : Nat
  key : Key
  rate : Rate
  passNumber : Nat
  status : TakeStatus
  winStart : Nat
  winEnd : Nat
  closePos : Nat
  disarmAfter : Bool
  tracks : List RecordTrack
  collected : Bool
  deriving DecidableEq, Repr

/-- The take log (08 R139). -/
structure TakeLog where
  records : List TakeRecord
  reservations : Nat
  nextNumber : Nat
  deriving DecidableEq, Repr

/-! ### Passes and the transport link (09) -/

/-- The pass states (09 R152). -/
inductive PassState where
  | idle
  | locating
  | rollingUp
  | rolling
  | ending
  deriving DecidableEq, Repr

/-- The pass modes (09 R152). -/
inductive PassMode where
  | single
  | cycle
  | run
  | locate
  deriving DecidableEq, Repr

/-- The pass in hand (09 R152). `answered` says that the phase's request was answered OK (R158) and `recordAtStart`
that the record flag was set at the cycle's start (R167); the manual implies both (log 31). -/
structure PassInHand where
  mode : PassMode
  first : Option Key
  last : Option Key
  target : Option Nat
  cycles : Nat
  ordinal : Nat
  record : Bool
  lastFlag : Bool
  playReached : Bool
  startPt : Nat
  endPt : Option Nat
  arm : Option Nat
  result : Option (Nat × TakeStatus)
  answered : Bool
  recordAtStart : Bool
  deriving DecidableEq, Repr

/-- A queued pass: one START_PASS as checked (09 R155). -/
structure QueuedPass where
  mode : PassMode
  first : Option Key
  last : Option Key
  target : Option Nat
  cycles : Nat
  record : Bool
  deriving DecidableEq, Repr

/-- The pass controller's state but the transport link's (09 R152). -/
structure PassCtl where
  state : PassState
  number : Nat
  inHand : Option PassInHand
  queued : Option QueuedPass
  deadline : Option Stamp
  preroll : Nat
  postroll : Nat
  locateTimeout : Nat
  deriving DecidableEq, Repr

/-- The three transport requests (09 R168). -/
inductive RequestKind where
  | loc
  | play
  | stop
  deriving DecidableEq, Repr

/-- The pass that owns a request: its pass number and its first key (09 R169, log 31). -/
structure RequestOwner where
  number : Nat
  first : Option Key
  deriving DecidableEq, Repr

/-- A transport request with its line of text, and its owner or none (09 R168, R169). -/
structure TransportRequest where
  kind : RequestKind
  text : List Byte
  owner : Option RequestOwner
  deriving DecidableEq, Repr

/-- The outstanding request; its answer deadline is set when its carriage return has left the line (09 R169). -/
structure Outstanding where
  request : TransportRequest
  deadline : Option Stamp
  deriving DecidableEq, Repr

/-- The transport link (09 R152, R168, R169): no outstanding request is state IDLE. -/
structure Transport where
  outstanding : Option Outstanding
  waiting : Option TransportRequest
  line : List (List Byte)
  gathered : List Byte
  deriving DecidableEq, Repr

/-! ### Fault log (10) -/

/-- The fault kinds, with codes 1..8 in this order (10 R173). -/
inductive FaultKind where
  | tcRateMismatch
  | lockLost
  | scheduleOverrun
  | videoLost
  | transportSilent
  | transportRefused
  | locateTimeout
  | noticeOverflow
  deriving DecidableEq, Repr

/-- A fault record (10 R173). -/
structure FaultRecord where
  kind : FaultKind
  position : Option Nat
  channel : Option Nat
  key : Option Key
  detail : Nat
  deriving DecidableEq, Repr

/-- The fault log (10 R172). -/
structure FaultLog where
  slots : List (Option FaultRecord)
  order : List Nat
  firstPending : Option Nat
  overflow : Bool
  owed : Bool
  deriving DecidableEq, Repr

/-! ### Link port (11) -/

/-- A frame as the intake holds it (11 R187). -/
structure Frame where
  kind : Byte
  tag : Byte
  payload : List Byte
  deriving DecidableEq, Repr

/-- A reply as the reply queue holds it: its body begins with the result code (11 R190, R191). -/
structure Reply where
  kind : Byte
  tag : Byte
  body : List Byte
  deriving DecidableEq, Repr

/-- A notice as it joined the queue: built into its payload (10 R178). -/
structure NoticeFrame where
  kind : Byte
  payload : List Byte
  deriving DecidableEq, Repr

/-- The receiver's state (11 R184): the bytes gathered so far and the stamp of the last byte. -/
inductive Receiver where
  | between
  | inFrame (gathered : List Byte) (last : Stamp)
  deriving DecidableEq, Repr

/-- The transmitter's state (11 R184): the bytes of the frame under way, absent while a further part waits for a go
on (11 R192), and the frames of the parts still to send. -/
inductive Transmitter where
  | free
  | sending (frame : Option (List Byte)) (rest : List (List Byte))
  deriving DecidableEq, Repr

/-- The notice mask: yes or no for each kind (10 R177, R179). -/
structure NoticeMask where
  lock : Bool
  motion : Bool
  relocate : Bool
  line : Bool
  cuePassed : Bool
  take : Bool
  armLapsed : Bool
  pass : Bool
  bank : Bool
  fault : Bool
  deriving DecidableEq, Repr

/-- The link port's state (11 R184). -/
structure Link where
  receiver : Receiver
  intake : List Frame
  replies : List Reply
  notices : List NoticeFrame
  mask : NoticeMask
  held : Bool
  tx : Transmitter
  deriving DecidableEq, Repr

/-! ### The whole machine -/

/-- The blocks that take the tracker's reports and perform their own RESTART (00, 02 R34, 11 R197), and the overlay generator,
whose frame start can meet those reports (06 R113). -/
inductive Block where
  | tracker
  | channel (n : Nat)
  | takes
  | pass
  | cueTable
  | overlay
  deriving DecidableEq, Repr

/-- The state of the engine. `arbiter` holds the choices of which block takes its next report where the manual leaves
the order open (log 5); `freeDraws` counts the free values drawn (log 6); `pending` is the queue of commands, oldest
first. -/
structure State where
  counter : Stamp
  reader : Reader
  tracker : Tracker
  table : CueTable
  channels : List Channel
  window : Nat
  video : Video
  takes : Takes
  log : TakeLog
  slots : List Slot
  pass : PassCtl
  transport : Transport
  faults : FaultLog
  link : Link
  arbiter : List (List Block)
  freeDraws : Nat
  pending : List Instr
  deriving DecidableEq, Repr

/-- The tracking settings at power-on (02 R36, 01 R9). -/
def TrackSettings.reset : TrackSettings :=
  { offset := 0, lockCount := 4, freewheelLimit := 10, bandLow := 900, bandHigh := 1100, settleSpan := 12 }

/-- The tracker at power-on (02 R17). -/
def Tracker.reset : Tracker :=
  { settings := TrackSettings.reset, state := .silent, accepted := none, reference := none, run := 0,
    acqIntervals := [], acqRepeats := 0, repeatRun := 0, candidate := none, history := [], lastArrival := none,
    timeoutFrom := none, speed := 0, heading := .still, head := 0, cls := .none, settleEnd := none, settled := false }

/-- The cue table at power-on (03 R39). -/
def CueTable.reset : CueTable :=
  { bankA := { cues := [], rate := .pal25 }, bankB := { cues := [], rate := .pal25 }, active := .a,
    switchPending := false }

/-- A tone unit in IDLE (06 R95). -/
def Tone.idle : Tone := { state := .idle, remaining := 0, subMs := 0, holders := [], period := none }

/-- An overlay lane with nothing to draw (06 R107). -/
def Overlay.clear : Overlay := { streamer := none, punch := 0, shown := none }

/-- Channel `n` at power-on (04 R61). -/
def Channel.reset (n : Nat) : Channel :=
  { settings :=
      { enabled := false, filterTag := 0, filterMask := 0, textLead := 48, lane := n, colour := n, steady := false,
        pitch := 1000, level := 10, beepLength := 120 },
    map := [], schedule := [], tone := Tone.idle, lamps := { ready := 0, live := 0 }, overlay := Overlay.clear }

/-- The take controller at power-on (07 R115). -/
def Takes.reset : Takes :=
  { entries := [none, none, none, none], gateLines := 0,
    guards := List.replicate 8 { enabled := false, tracks := 0, base := 0, limit := 0 },
    punchLead := 12, punchTail := 24, armWindow := 120 }

/-- The pass controller at power-on (09 R152, R153). -/
def PassCtl.reset : PassCtl :=
  { state := .idle, number := 0, inHand := none, queued := none, deadline := none, preroll := 150, postroll := 50,
    locateTimeout := 30 }

/-- The transport link at power-on (09 R152, R168). -/
def Transport.reset : Transport := { outstanding := none, waiting := none, line := [], gathered := [] }

/-- The fault log at power-on (10 R172). -/
def FaultLog.reset : FaultLog :=
  { slots := List.replicate 8 none, order := [], firstPending := none, overflow := false, owed := false }

/-- The notice mask at power-on (10 R179). -/
def NoticeMask.reset : NoticeMask :=
  { lock := true, motion := false, relocate := true, line := false, cuePassed := true, take := true, armLapsed := true,
    pass := true, bank := true, fault := true }

/-- The link port at power-on (11 R184). -/
def Link.reset : Link :=
  { receiver := .between, intake := [], replies := [], notices := [], mask := NoticeMask.reset, held := false,
    tx := .free }

/-- The machine right after power-on: every block in its power-on state (00 Resets, 11 R184). `video.lastStart`,
`arbiter` and `freeDraws` are DESIGN CHOICE values (log 20); `reader.sinceCut` is 0, for power-on cuts short a word being
decoded (02 R14, log 9). -/
def State.reset : State :=
  { counter := 0, reader := { invalidRun := 0, sinceCut := 0 }, tracker := Tracker.reset, table := CueTable.reset,
    channels := (List.range 8).map Channel.reset, window := 300,
    video := { present := false, lastStart := 0, drawing := [], ahead := false }, takes := Takes.reset,
    log := { records := [], reservations := 0, nextNumber := 1 }, slots := [], pass := PassCtl.reset,
    transport := Transport.reset, faults := FaultLog.reset, link := Link.reset, arbiter := [], freeDraws := 0,
    pending := [] }

/-- What stops the machine. It has no constructor: the spec stops the engine nowhere, and its own faults are records
of the fault log (10). -/
inductive Fault where
  deriving DecidableEq, Repr

/-- Why a command has no meaning. -/
inductive Refusal where
  /-- Raised by `exec` alone, for a command whose meaning is not written yet; safe. No arm of `exec` raises it. -/
  | notModelled (mnemonic : String)
  deriving DecidableEq, Repr

end Sys2Proof.Machine
end

