-- ==== Sys2Proof/Machine/Timecode.lean ====
section
/-! DEFINITION. Positions and timecode arithmetic (01): rates, labels, absolute frame counts, the day and its limits,
timecode words, positions that enter with requests and positions that leave. -/

namespace Sys2Proof.Machine

/-! ### Rates (01 R1) -/

/-- The rate code 0..5 (01 R1). -/
def Rate.code (r : Rate) : Nat :=
  match r with
  | .film24 => 0
  | .film2398 => 1
  | .pal25 => 2
  | .drop2997 => 3
  | .nonDrop2997 => 4
  | .ntsc30 => 5

/-- The rate of a rate code; a code outside 0..5 names none (01 R1). -/
def Rate.ofCode (n : Nat) : Option Rate :=
  match n with
  | 0 => some .film24
  | 1 => some .film2398
  | 2 => some .pal25
  | 3 => some .drop2997
  | 4 => some .nonDrop2997
  | 5 => some .ntsc30
  | _ => none

/-- Frame labels per second (01 R1). -/
def Rate.base (r : Rate) : Nat :=
  match r with
  | .film24 => 24
  | .film2398 => 24
  | .pal25 => 25
  | .drop2997 => 30
  | .nonDrop2997 => 30
  | .ntsc30 => 30

/-- Whether labels are skipped at minute boundaries (01 R1). -/
def Rate.isDrop (r : Rate) : Bool :=
  match r with
  | .drop2997 => true
  | _ => false

/-- Tn, the nominal frame period in nanoseconds (01 R1). -/
def Rate.tn (r : Rate) : Nat :=
  match r with
  | .film24 => 41666667
  | .film2398 => 41708333
  | .pal25 => 40000000
  | .drop2997 => 33366667
  | .nonDrop2997 => 33366667
  | .ntsc30 => 33333333

/-- DayLen, the absolute frames of one day (01 R1). -/
def Rate.dayLen (r : Rate) : Nat :=
  match r with
  | .film24 => 2073600
  | .film2398 => 2073600
  | .pal25 => 2160000
  | .drop2997 => 2589408
  | .nonDrop2997 => 2592000
  | .ntsc30 => 2592000

/-- The word timeout, 4·Tn in whole microseconds (02 R18). -/
def Rate.wordTimeout (r : Rate) : Nat := 4 * r.tn / 1000

/-! ### Labels and absolute frame counts (01 R2 to R6) -/

/-- A label hh:mm:ss:ff (01 R2). -/
structure Label where
  h : Nat
  m : Nat
  s : Nat
  f : Nat
  deriving DecidableEq, Repr

/-- All fields in range under the rate (01 R2). -/
def Label.wellFormed (r : Rate) (l : Label) : Bool :=
  decide (l.h ≤ 23) && decide (l.m ≤ 59) && decide (l.s ≤ 59) && decide (l.f < r.base)

/-- A label that names no frame at the drop rate (01 R2). -/
def Label.skipped (r : Rate) (l : Label) : Bool :=
  r.isDrop && decide (l.s = 0) && decide (l.f ≤ 1) && decide (l.m % 10 ≠ 0)

/-- The absolute frame count A of a label (01 R4, R5). -/
def Label.count (r : Rate) (l : Label) : Nat :=
  if r.isDrop then
    30 * (3600 * l.h + 60 * l.m + l.s) + l.f - 2 * ((60 * l.h + l.m) - (60 * l.h + l.m) / 10)
  else
    ((l.h * 60 + l.m) * 60 + l.s) * r.base + l.f

/-- The label of an absolute frame count (01 R4, R6). -/
def Label.ofCount (r : Rate) (a : Nat) : Label :=
  if r.isDrop then
    let d := a / 17982
    let m := a % 17982
    let add := if m < 2 then 18 * d else 18 * d + 2 * ((m - 2) / 1798)
    let l := a + add
    { h := l / 108000, m := l / 1800 % 60, s := l / 30 % 60, f := l % 30 }
  else
    { h := a / (r.base * 3600), m := a / (r.base * 60) % 60, s := a / r.base % 60, f := a % r.base }

/-! ### The day (01 R3, R7) -/

/-- The last position of the day, DayLen·100 − 1 (01 R3). -/
def Rate.lastPos (r : Rate) : Nat := r.dayLen * 100 - 1

/-- A computed position clamped to the day at its end; at its start a natural subtraction clamps (01 R7). -/
def clampDay (r : Rate) (p : Nat) : Nat := min p r.lastPos

/-- A count of frames held to the day (01 R9, R13). -/
def clampFrame (r : Rate) (a : Int) : Nat := min a.toNat (r.dayLen - 1)

/-- The frame of a position (01 R3). -/
def frameOf (p : Nat) : Nat := p / 100

/-! ### Timecode words (01 R8) -/

/-- The label a timecode word carries, as numbers. -/
def labelOfWord (w : WordLabel) : Label :=
  { h := w.hours.toNat, m := w.minutes.toNat, s := w.seconds.toNat, f := w.frames.toNat }

/-- The count of a timecode word by the five steps of 01 R8, or none for an invalid word. -/
def readWord (r : Rate) (offset : Int) (w : WordLabel) : Option Nat :=
  let l := labelOfWord w
  if l.wellFormed r && !l.skipped r then
    let a := (l.count r : Int) + offset
    if 0 ≤ a ∧ a < r.dayLen then some a.toNat else none
  else none

/-! ### Positions in requests (01 R10 to R12) -/

/-- The label of a position field. -/
def labelOfField (w : WirePos) : Label :=
  { h := w.hours.toNat, m := w.minutes.toNat, s := w.seconds.toNat, f := w.frames.toNat }

/-- A skipped label is moved forward to frame 2 of the same second (01 R12). -/
def Label.moveForward (r : Rate) (l : Label) : Label :=
  if l.skipped r then { l with f := 2 } else l

/-- A position field converted under the rate that applies, with whether it was moved; none when it is not well-formed
or its subframe is above 99 (01 R10, R11, R12). -/
def posField (r : Rate) (w : WirePos) : Option (Nat × Bool) :=
  let l := labelOfField w
  if l.wellFormed r && decide (w.sub.toNat ≤ 99) then
    some ((l.moveForward r).count r * 100 + w.sub.toNat, l.skipped r)
  else none

/-! ### Positions leaving the engine (01 R13) -/

/-- A stored position as an extended label under a rate; a frame beyond the day of that rate reads as its last frame
(01 R13). -/
def wirePos (r : Rate) (p : Nat) : WirePos :=
  let l := Label.ofCount r (min (frameOf p) (r.dayLen - 1))
  { hours := BitVec.ofNat 8 l.h, minutes := BitVec.ofNat 8 l.m, seconds := BitVec.ofNat 8 l.s,
    frames := BitVec.ofNat 8 l.f, sub := BitVec.ofNat 8 (p % 100) }

/-- Two decimal digits as characters. -/
def twoDigits (n : Nat) : List Byte := [BitVec.ofNat 8 (48 + n / 10 % 10), BitVec.ofNat 8 (48 + n % 10)]

/-- A label as text: hh:mm:ss:ff, with a semicolon before the frames at the drop rate (01 R2, 09 R168). -/
def Label.chars (r : Rate) (l : Label) : List Byte :=
  twoDigits l.h ++ [0x3A] ++ twoDigits l.m ++ [0x3A] ++ twoDigits l.s ++ [if r.isDrop then 0x3B else 0x3A]
    ++ twoDigits l.f

/-- The label text of a LOC request: the frame of the position with the label offset removed, clamped to the day
(01 R9, R13). -/
def locLabel (r : Rate) (offset : Int) (p : Nat) : List Byte :=
  (Label.ofCount r (clampFrame r ((frameOf p : Int) - offset))).chars r

/-! ### Keys (03 R40) -/

/-- The suffix code: 0 for none, 1..26 for A..Z (11 R188). -/
def Key.suffixCode (k : Key) : Nat :=
  match k.suffix with
  | none => 0
  | some x => x.val + 1

/-- Key order: number first, then suffix, with none before A (03 R40). -/
def Key.before (a b : Key) : Bool :=
  decide (a.num < b.num) || (decide (a.num = b.num) && decide (a.suffixCode < b.suffixCode))

/-! ### Ordered lists -/

/-- Places `x` after every element that does not come after it. -/
def insertBy {α : Type} (lt : α → α → Bool) (x : α) : List α → List α
  | [] => [x]
  | y :: ys => if lt x y then x :: y :: ys else y :: insertBy lt x ys

/-- The list in the order of `lt`, equal elements in their former order. -/
def sortBy {α : Type} (lt : α → α → Bool) (l : List α) : List α :=
  l.foldl (fun acc x => insertBy lt x acc) []

/-- The elapsed microseconds from `earlier` to `later`, modulo 2^32 (02 R16). -/
def elapsed (earlier later : Stamp) : Nat := (later - earlier).toNat

/-- Whether the counter at `now` has reached `deadline`: within half a wrap past it (log 10). -/
def reached (deadline now : Stamp) : Bool := decide (elapsed deadline now < 2147483648)

/-- A deadline the given seconds after `now`, modulo 2^32 (07 R120, 09 R162). -/
def deadlineAfter (now : Stamp) (seconds : Nat) : Stamp := now + BitVec.ofNat 32 (seconds * 1000000)

end Sys2Proof.Machine
end

