-- ==== Sys2Proof/Machine/Codec.lean ====
section
/-! DEFINITION. Frames and payload items of the control link (11 R185, R188, R191): how items are written, how a
body is cut into parts, how a frame is laid out, and how the handler reads a request's payload (R189). -/

namespace Sys2Proof.Machine

/-! ### Writing items (11 R188) -/

/-- A number 0..255: one byte. -/
def b1 (n : Nat) : List Byte := [BitVec.ofNat 8 n]

/-- A number 0..65535: two bytes, most significant first. -/
def b2 (n : Nat) : List Byte := [BitVec.ofNat 8 (n / 256), BitVec.ofNat 8 n]

/-- A two-byte word, most significant byte first. -/
def half (w : Half) : List Byte := [w.extractLsb' 8 8, w.extractLsb' 0 8]

/-- A microsecond stamp: four bytes. -/
def stampBytes (t : Stamp) : List Byte :=
  [t.extractLsb' 24 8, t.extractLsb' 16 8, t.extractLsb' 8 8, t.extractLsb' 0 8]

/-- A flag: 0 for no or clear, 1 for yes or set. -/
def flag (b : Bool) : List Byte := [if b then 1 else 0]

/-- An optional item: a presence byte, then the item when present. -/
def opt {α : Type} (item : α → List Byte) (v : Option α) : List Byte :=
  match v with
  | none => [0]
  | some x => 1 :: item x

/-- A list of varying length: one byte of count, then the items. -/
def listOf {α : Type} (item : α → List Byte) (l : List α) : List Byte := b1 l.length ++ l.flatMap item

/-- A text: one byte of count, then the characters. -/
def textItem (t : List Byte) : List Byte := b1 t.length ++ t

/-- A key as it is carried. -/
def wireKeyItem (k : WireKey) : List Byte := half k.num ++ [k.suffix]

/-- A key that a record holds. -/
def keyItem (k : Key) : List Byte := b2 k.num ++ b1 k.suffixCode

/-- A position field. -/
def wirePosItem (p : WirePos) : List Byte := [p.hours, p.minutes, p.seconds, p.frames, p.sub]

/-- A stored position under the rate that owns it (01 R13). -/
def posItem (r : Rate) (p : Nat) : List Byte := wirePosItem (wirePos r p)

/-- A signed byte in two's complement: the label offset. -/
def signedItem (z : Int) : List Byte := [BitVec.ofInt 8 z]

/-- A bank letter. -/
def BankName.code (name : BankName) : Nat :=
  match name with
  | .a => 0
  | .b => 1

/-! ### Named values (11 R188) -/

def TrackState.code (s : TrackState) : Nat :=
  match s with
  | .silent => 0
  | .acquiring => 1
  | .locked => 2
  | .freewheel => 3
  | .parked => 4

def MotionClass.code (c : MotionClass) : Nat :=
  match c with
  | .none => 0
  | .still => 1
  | .play => 2
  | .spool => 3
  | .reverse => 4

def Heading.code (h : Heading) : Nat :=
  match h with
  | .forward => 0
  | .reverse => 1
  | .still => 2

def CueStatus.code (s : CueStatus) : Nat :=
  match s with
  | .waiting => 0
  | .queued => 1
  | .active => 2
  | .done => 3
  | .passed _ => 4

def PassReason.code (r : PassReason) : Nat :=
  match r with
  | .skipped => 0
  | .joinedLate => 1
  | .settle => 2
  | .scheduleFull => 3
  | .interrupted => 4

def GateState.code (g : GateState) : Nat :=
  match g with
  | .wait => 0
  | .opened => 1
  | .shut => 2

def TakeStatus.code (s : TakeStatus) : Nat :=
  match s with
  | .complete => 0
  | .broken => 1
  | .aborted => 2

def Origin.code (o : Origin) : Nat :=
  match o with
  | .host => 0
  | .pass => 1

def PassState.code (s : PassState) : Nat :=
  match s with
  | .idle => 0
  | .locating => 1
  | .rollingUp => 2
  | .rolling => 3
  | .ending => 4

def PassMode.code (m : PassMode) : Nat :=
  match m with
  | .single => 0
  | .cycle => 1
  | .run => 2
  | .locate => 3

/-- The fault kind codes (10 R173). -/
def FaultKind.code (k : FaultKind) : Nat :=
  match k with
  | .tcRateMismatch => 1
  | .lockLost => 2
  | .scheduleOverrun => 3
  | .videoLost => 4
  | .transportSilent => 5
  | .transportRefused => 6
  | .locateTimeout => 7
  | .noticeOverflow => 8

/-- The reasons of an ARM_LAPSED notice (07 R133). -/
inductive LapseReason where
  | time
  | bank
  | pass
  | restart
  deriving DecidableEq, Repr

def LapseReason.code (r : LapseReason) : Nat :=
  match r with
  | .time => 0
  | .bank => 1
  | .pass => 2
  | .restart => 3

/-- The reasons of a PASS notice (09 R167). -/
inductive PassEnd where
  | done
  | armRefused
  | keys
  | motion
  | lost
  | transportRefused
  | transportSilent
  | locateTimeout
  | abandoned
  | restart
  deriving DecidableEq, Repr

def PassEnd.code (r : PassEnd) : Nat :=
  match r with
  | .done => 0
  | .armRefused => 1
  | .keys => 2
  | .motion => 3
  | .lost => 4
  | .transportRefused => 5
  | .transportSilent => 6
  | .locateTimeout => 7
  | .abandoned => 8
  | .restart => 9

/-- The causes of a FAULT notice (10 R176). -/
inductive FaultCause where
  | first
  | overflow
  | owed
  deriving DecidableEq, Repr

def FaultCause.code (c : FaultCause) : Nat :=
  match c with
  | .first => 0
  | .overflow => 1
  | .owed => 2

/-- The result codes (11 R190). -/
inductive ResultCode where
  | ok
  | adjusted
  | deferred
  | busy
  | state
  | range
  | mode
  | unknownKey
  | full
  | slotFull
  | logFull
  | trackBusy
  | inProgress
  | switchPending
  | malformed
  | intakeFull
  deriving DecidableEq, Repr

def ResultCode.code (c : ResultCode) : Nat :=
  match c with
  | .ok => 0
  | .adjusted => 1
  | .deferred => 2
  | .busy => 3
  | .state => 4
  | .range => 5
  | .mode => 6
  | .unknownKey => 7
  | .full => 8
  | .slotFull => 9
  | .logFull => 10
  | .trackBusy => 11
  | .inProgress => 12
  | .switchPending => 13
  | .malformed => 14
  | .intakeFull => 15

/-- A result code as the first byte of a body. -/
def ResultCode.item (c : ResultCode) : List Byte := b1 c.code

/-- A fault record's items (10 R173), its position under the active rate (01 R13). -/
def FaultRecord.items (r : Rate) (f : FaultRecord) : List Byte :=
  b1 f.kind.code ++ opt (posItem r) f.position ++ opt b1 f.channel ++ opt keyItem f.key ++ b1 f.detail

/-! ### Frames and parts (11 R185, R191) -/

/-- The sum of bytes modulo 256. -/
def sumBytes (l : List Byte) : Byte := l.foldl (· + ·) 0

/-- A frame's bytes: lead, count, kind, tag, payload, and the check that makes bytes 1 to n+2 sum to a multiple of 256
(11 R185). -/
def frameBytes (kind tag : Byte) (payload : List Byte) : List Byte :=
  let inner := BitVec.ofNat 8 (payload.length + 2) :: kind :: tag :: payload
  0xB7 :: (inner ++ [-(sumBytes inner)])

/-- A body cut into pieces of 238 bytes, the last holding the rest (11 R191). `fuel` bounds the number of cuts. -/
def pieces : Nat → List Byte → List (List Byte)
  | 0, body => [body]
  | fuel + 1, body => if body.length ≤ 238 then [body] else body.take 238 :: pieces fuel (body.drop 238)

/-- The frames of a reply, one a part: part number, more flag, piece (11 R191). -/
def Reply.frames (r : Reply) : List (List Byte) :=
  let ps := pieces r.body.length r.body
  ps.zipIdx.map fun (p, k) => frameBytes r.kind r.tag (b1 k ++ flag (decide (k + 1 < ps.length)) ++ p)

/-- The frame of a notice, which carries tag 0 (11 R185, R191). -/
def NoticeFrame.bytes (n : NoticeFrame) : List Byte := frameBytes n.kind 0 n.payload

/-- The kind of the reply to a request: its kind plus 0x80, or 0xFF when that is 0x80 or above (11 R187, R189). -/
def replyKind (kind : Byte) : Byte := if kind.toNat < 0x80 then kind + 0x80 else 0xFF

/-! ### Request payloads as they are sent (11 R188, R194) -/

def maskPayload (m : MaskItems) : List Byte :=
  [m.lock, m.motion, m.relocate, m.line, m.cuePassed, m.take, m.armLapsed, m.pass, m.bank, m.fault]

def one (b : Byte) : List Byte := [b]

def trackingPayload (t : TrackingItems) : List Byte :=
  opt one t.offset ++ opt one t.lockCount ++ opt one t.freewheelLimit ++ opt half t.bandLow ++ opt half t.bandHigh
    ++ opt one t.settleSpan

def channelPayload (c : ChannelItems) : List Byte :=
  opt one c.enabled ++ opt half c.filterTag ++ opt half c.filterMask ++ opt one c.textLead ++ opt one c.lane
    ++ opt one c.colour ++ opt one c.toneMode ++ opt half c.pitch ++ opt one c.level ++ opt half c.beepLength

def takeTimingPayload (t : TakeTimingItems) : List Byte :=
  opt one t.punchLead ++ opt one t.punchTail ++ opt half t.armWindow

def passTimingPayload (t : PassTimingItems) : List Byte :=
  opt half t.preroll ++ opt half t.postroll ++ opt one t.locateTimeout

def guardPayload (g : GuardItems) : List Byte :=
  opt one g.enabled ++ opt half g.tracks ++ opt wirePosItem g.base ++ opt wirePosItem g.limit

def cuePayload (c : CueItems) : List Byte :=
  half c.tag ++ wirePosItem c.inPt ++ wirePosItem c.outPt ++ [c.streamer, c.beeps, c.interval, c.punch]
    ++ half c.tracks ++ opt textItem c.text

/-- The field-select set of an UPDATE_CUE: the k-th selectable field is the k-th flag from the least significant
(11 R188, 03 R56). -/
def editSelectSet (e : CueEdit) : Half :=
  (e.extraFlags ++ BitVec.ofBool e.text.isSome ++ BitVec.ofBool e.tracks.isSome ++ BitVec.ofBool e.punch.isSome
    ++ BitVec.ofBool e.interval.isSome ++ BitVec.ofBool e.beeps.isSome ++ BitVec.ofBool e.streamer.isSome
    ++ BitVec.ofBool e.outPt.isSome ++ BitVec.ofBool e.inPt.isSome ++ BitVec.ofBool e.tag.isSome : BitVec 16)

/-- A selected value, with no presence byte (03 R56). -/
def selected {α : Type} (item : α → List Byte) (v : Option α) : List Byte :=
  match v with
  | none => []
  | some x => item x

def editPayload (e : CueEdit) : List Byte :=
  half (editSelectSet e) ++ selected half e.tag ++ selected wirePosItem e.inPt ++ selected wirePosItem e.outPt
    ++ selected one e.streamer ++ selected one e.beeps ++ selected one e.interval ++ selected one e.punch
    ++ selected half e.tracks ++ selected (opt textItem) e.text

def keyOrAllPayload (k : KeyOrAll) : List Byte :=
  match k with
  | .key k => 0 :: wireKeyItem k
  | .all => [1]

def selectorPayload (t : TakeSelector) : List Byte :=
  match t with
  | .number n => 0 :: half n
  | .oldestUncollected => [1]

def passPayload (p : PassItems) : List Byte :=
  [p.mode] ++ opt wireKeyItem p.first ++ opt wireKeyItem p.last ++ opt wirePosItem p.target
    ++ [p.cycles, p.record, p.queue]

/-- The frame that carries a request: its code by 11 R194, its tag and its payload. Commands that are not requests
have none. -/
def requestFrame (i : Instr) : Option Frame :=
  match i with
  | .identify t => some ⟨0x01, t, []⟩
  | .getStatus t => some ⟨0x02, t, []⟩
  | .setNotices t m => some ⟨0x03, t, maskPayload m⟩
  | .restart t => some ⟨0x04, t, []⟩
  | .setTracking t x => some ⟨0x08, t, trackingPayload x⟩
  | .setSchedule t w => some ⟨0x09, t, opt half w⟩
  | .setChannel t c x => some ⟨0x0A, t, c :: channelPayload x⟩
  | .setTakeTiming t x => some ⟨0x0B, t, takeTimingPayload x⟩
  | .setPassTiming t x => some ⟨0x0C, t, passTimingPayload x⟩
  | .setGuard t n x => some ⟨0x0D, t, n :: guardPayload x⟩
  | .bankSetup t r => some ⟨0x10, t, [r]⟩
  | .loadCue t k x => some ⟨0x11, t, wireKeyItem k ++ cuePayload x⟩
  | .dropCue t k => some ⟨0x12, t, wireKeyItem k⟩
  | .clearBank t => some ⟨0x13, t, []⟩
  | .switchBank t => some ⟨0x14, t, []⟩
  | .cancelSwitch t => some ⟨0x15, t, []⟩
  | .updateCue t k e => some ⟨0x16, t, wireKeyItem k ++ editPayload e⟩
  | .readCue t s k => some ⟨0x17, t, s :: wireKeyItem k⟩
  | .listCues t s n => some ⟨0x18, t, s :: half n⟩
  | .cueState t k => some ⟨0x19, t, wireKeyItem k⟩
  | .armTake t k x => some ⟨0x20, t, wireKeyItem k ++ opt half x⟩
  | .disarm t w => some ⟨0x21, t, keyOrAllPayload w⟩
  | .abortTake t w => some ⟨0x22, t, keyOrAllPayload w⟩
  | .readTake t w => some ⟨0x23, t, selectorPayload w⟩
  | .collectTakes t n => some ⟨0x24, t, half n⟩
  | .clearSlots t w => some ⟨0x25, t, keyOrAllPayload w⟩
  | .readSlots t k => some ⟨0x26, t, wireKeyItem k⟩
  | .startPass t x => some ⟨0x30, t, passPayload x⟩
  | .stopCycle t => some ⟨0x31, t, []⟩
  | .abandonPass t => some ⟨0x32, t, []⟩
  | .readFaults t => some ⟨0x38, t, []⟩
  | .clearFault t n => some ⟨0x39, t, [n]⟩
  | .clearOverflow t => some ⟨0x3A, t, []⟩
  | .malformedRequest k t p => some ⟨k, t, p⟩
  | _ => none

/-! ### Reading a request's payload (11 R189) -/

/-- One way to read a payload: the value, whether every presence and selector byte met was 0 or 1, the bytes left. -/
structure Reading (α : Type) where
  value : α
  sound : Bool
  rest : List Byte
  deriving DecidableEq, Repr

/-- The ways to read a payload. A presence or selector byte of 0 or 1 leaves one way on, and one above 1 both; a payload
that is too short for every way has none (11 R189; log 16). -/
abbrev Readings (α : Type) := List (Reading α)

/-- The one way to read a value. -/
def Readings.got {α : Type} (a : α) (rest : List Byte) : Readings α := [{ value := a, sound := true, rest }]

/-- Reads on after a value, each way. -/
def Readings.andThen {α β : Type} (p : Readings α) (f : α → List Byte → Readings β) : Readings β :=
  p.flatMap fun x => (f x.value x.rest).map fun y => { y with sound := x.sound && y.sound }

/-- What follows a presence or selector byte: by 0 the first readings, by 1 the second, and by any other byte either,
unsound (11 R188, R189). -/
def Readings.choose {α : Type} (b : Byte) (zero one : Readings α) : Readings α :=
  if b = 0 then zero else if b = 1 then one else (zero ++ one).map fun y => { y with sound := false }

/-- Reads one byte. -/
def readByte (l : List Byte) : Readings Byte :=
  match l with
  | [] => []
  | b :: rest => .got b rest

/-- Reads two bytes, the most significant first. -/
def readHalf (l : List Byte) : Readings Half :=
  match l with
  | a :: b :: rest => .got (a ++ b : BitVec 16) rest
  | _ => []

/-- Reads a key. -/
def readKey (l : List Byte) : Readings WireKey :=
  match l with
  | a :: b :: c :: rest => .got ⟨(a ++ b : BitVec 16), c⟩ rest
  | _ => []

/-- Reads a position. -/
def readPos (l : List Byte) : Readings WirePos :=
  match l with
  | a :: b :: c :: d :: e :: rest => .got ⟨a, b, c, d, e⟩ rest
  | _ => []

/-- Reads a text. -/
def readText (l : List Byte) : Readings (List Byte) :=
  match l with
  | [] => []
  | n :: rest => if rest.length < n.toNat then [] else .got (rest.take n.toNat) (rest.drop n.toNat)

/-- Reads an optional item. -/
def readOpt {α : Type} (item : List Byte → Readings α) (l : List Byte) : Readings (Option α) :=
  match l with
  | [] => []
  | p :: rest => .choose p (.got none rest) ((item rest).andThen fun a r => .got (some a) r)

/-- Reads a value when its field is selected (03 R56). -/
def readSelected {α : Type} (sel : Bool) (item : List Byte → Readings α) (l : List Byte) : Readings (Option α) :=
  if sel then (item l).andThen fun a r => .got (some a) r else .got none l

/-- Reads "a key or ALL". -/
def readKeyOrAll (l : List Byte) : Readings KeyOrAll :=
  match l with
  | [] => []
  | p :: rest => .choose p ((readKey rest).andThen fun k r => .got (.key k) r) (.got .all rest)

/-- Reads "a number or OLDEST_UNCOLLECTED". -/
def readTakeSelector (l : List Byte) : Readings TakeSelector :=
  match l with
  | [] => []
  | p :: rest => .choose p ((readHalf rest).andThen fun n r => .got (.number n) r) (.got .oldestUncollected rest)

def readMask (l : List Byte) : Readings MaskItems :=
  match l with
  | a :: b :: c :: d :: e :: f :: g :: h :: i :: j :: rest => .got ⟨a, b, c, d, e, f, g, h, i, j⟩ rest
  | _ => []

def readTracking (l : List Byte) : Readings TrackingItems :=
  (readOpt readByte l).andThen fun a l => (readOpt readByte l).andThen fun b l =>
  (readOpt readByte l).andThen fun c l => (readOpt readHalf l).andThen fun d l =>
  (readOpt readHalf l).andThen fun e l => (readOpt readByte l).andThen fun f l => .got ⟨a, b, c, d, e, f⟩ l

def readChannelItems (l : List Byte) : Readings ChannelItems :=
  (readOpt readByte l).andThen fun a l => (readOpt readHalf l).andThen fun b l =>
  (readOpt readHalf l).andThen fun c l => (readOpt readByte l).andThen fun d l =>
  (readOpt readByte l).andThen fun e l => (readOpt readByte l).andThen fun f l =>
  (readOpt readByte l).andThen fun g l => (readOpt readHalf l).andThen fun h l =>
  (readOpt readByte l).andThen fun i l => (readOpt readHalf l).andThen fun j l =>
  .got ⟨a, b, c, d, e, f, g, h, i, j⟩ l

def readTakeTiming (l : List Byte) : Readings TakeTimingItems :=
  (readOpt readByte l).andThen fun a l => (readOpt readByte l).andThen fun b l =>
  (readOpt readHalf l).andThen fun c l => .got ⟨a, b, c⟩ l

def readPassTiming (l : List Byte) : Readings PassTimingItems :=
  (readOpt readHalf l).andThen fun a l => (readOpt readHalf l).andThen fun b l =>
  (readOpt readByte l).andThen fun c l => .got ⟨a, b, c⟩ l

def readGuard (l : List Byte) : Readings GuardItems :=
  (readOpt readByte l).andThen fun a l => (readOpt readHalf l).andThen fun b l =>
  (readOpt readPos l).andThen fun c l => (readOpt readPos l).andThen fun d l => .got ⟨a, b, c, d⟩ l

def readCue (l : List Byte) : Readings CueItems :=
  (readHalf l).andThen fun a l => (readPos l).andThen fun b l => (readPos l).andThen fun c l =>
  (readByte l).andThen fun d l => (readByte l).andThen fun e l => (readByte l).andThen fun f l =>
  (readByte l).andThen fun g l => (readHalf l).andThen fun h l => (readOpt readText l).andThen fun i l =>
  .got ⟨a, b, c, d, e, f, g, h, i⟩ l

def readEdit (l : List Byte) : Readings CueEdit :=
  (readHalf l).andThen fun s l => (readSelected (s.getLsbD 0) readHalf l).andThen fun a l =>
  (readSelected (s.getLsbD 1) readPos l).andThen fun b l => (readSelected (s.getLsbD 2) readPos l).andThen fun c l =>
  (readSelected (s.getLsbD 3) readByte l).andThen fun d l =>
  (readSelected (s.getLsbD 4) readByte l).andThen fun e l =>
  (readSelected (s.getLsbD 5) readByte l).andThen fun f l =>
  (readSelected (s.getLsbD 6) readByte l).andThen fun g l =>
  (readSelected (s.getLsbD 7) readHalf l).andThen fun h l =>
  (readSelected (s.getLsbD 8) (readOpt readText) l).andThen fun i l =>
  .got ⟨s.extractLsb' 9 7, a, b, c, d, e, f, g, h, i⟩ l

def readPass (l : List Byte) : Readings PassItems :=
  (readByte l).andThen fun a l => (readOpt readKey l).andThen fun b l => (readOpt readKey l).andThen fun c l =>
  (readOpt readPos l).andThen fun d l => (readByte l).andThen fun e l => (readByte l).andThen fun f l =>
  (readByte l).andThen fun g l => .got ⟨a, b, c, d, e, f, g⟩ l

/-- The request codes (11 R194). -/
def requestCodes : List Nat :=
  [0x01, 0x02, 0x03, 0x04, 0x08, 0x09, 0x0A, 0x0B, 0x0C, 0x0D, 0x10, 0x11, 0x12, 0x13, 0x14, 0x15, 0x16, 0x17, 0x18,
    0x19, 0x20, 0x21, 0x22, 0x23, 0x24, 0x25, 0x26, 0x30, 0x31, 0x32, 0x38, 0x39, 0x3A]

/-- The ways to read a frame's payload as the request of its kind, before the test that no byte is left over; none for a
kind that is not a request code (11 R189, R194). -/
def readRequest (kind tag : Byte) (l : List Byte) : Readings Instr :=
  match kind.toNat with
  | 0x01 => .got (.identify tag) l
  | 0x02 => .got (.getStatus tag) l
  | 0x03 => (readMask l).andThen fun m l => .got (.setNotices tag m) l
  | 0x04 => .got (.restart tag) l
  | 0x08 => (readTracking l).andThen fun x l => .got (.setTracking tag x) l
  | 0x09 => (readOpt readHalf l).andThen fun x l => .got (.setSchedule tag x) l
  | 0x0A => (readByte l).andThen fun c l => (readChannelItems l).andThen fun x l => .got (.setChannel tag c x) l
  | 0x0B => (readTakeTiming l).andThen fun x l => .got (.setTakeTiming tag x) l
  | 0x0C => (readPassTiming l).andThen fun x l => .got (.setPassTiming tag x) l
  | 0x0D => (readByte l).andThen fun n l => (readGuard l).andThen fun x l => .got (.setGuard tag n x) l
  | 0x10 => (readByte l).andThen fun r l => .got (.bankSetup tag r) l
  | 0x11 => (readKey l).andThen fun k l => (readCue l).andThen fun x l => .got (.loadCue tag k x) l
  | 0x12 => (readKey l).andThen fun k l => .got (.dropCue tag k) l
  | 0x13 => .got (.clearBank tag) l
  | 0x14 => .got (.switchBank tag) l
  | 0x15 => .got (.cancelSwitch tag) l
  | 0x16 => (readKey l).andThen fun k l => (readEdit l).andThen fun x l => .got (.updateCue tag k x) l
  | 0x17 => (readByte l).andThen fun s l => (readKey l).andThen fun k l => .got (.readCue tag s k) l
  | 0x18 => (readByte l).andThen fun s l => (readHalf l).andThen fun n l => .got (.listCues tag s n) l
  | 0x19 => (readKey l).andThen fun k l => .got (.cueState tag k) l
  | 0x20 => (readKey l).andThen fun k l => (readOpt readHalf l).andThen fun x l => .got (.armTake tag k x) l
  | 0x21 => (readKeyOrAll l).andThen fun w l => .got (.disarm tag w) l
  | 0x22 => (readKeyOrAll l).andThen fun w l => .got (.abortTake tag w) l
  | 0x23 => (readTakeSelector l).andThen fun w l => .got (.readTake tag w) l
  | 0x24 => (readHalf l).andThen fun n l => .got (.collectTakes tag n) l
  | 0x25 => (readKeyOrAll l).andThen fun w l => .got (.clearSlots tag w) l
  | 0x26 => (readKey l).andThen fun k l => .got (.readSlots tag k) l
  | 0x30 => (readPass l).andThen fun x l => .got (.startPass tag x) l
  | 0x31 => .got (.stopCycle tag) l
  | 0x32 => .got (.abandonPass tag) l
  | 0x38 => .got (.readFaults tag) l
  | 0x39 => (readByte l).andThen fun n l => .got (.clearFault tag n) l
  | 0x3A => .got (.clearOverflow tag) l
  | _ => []

/-- The ways to read a frame's payload that take exactly its bytes (11 R189 step 2). -/
def fullReadings (kind tag : Byte) (l : List Byte) : Readings Instr :=
  (readRequest kind tag l).filter fun x => x.rest.isEmpty

/-- The command by which the handler takes a frame: the request its payload spells, or MALFORMED_REQUEST (11 R189). -/
def frameCommand (f : Frame) : Instr :=
  match (fullReadings f.kind f.tag f.payload).find? Reading.sound with
  | some x => x.value
  | none => .malformedRequest f.kind f.tag f.payload

/-- The MALFORMED cause of a frame, or none when it spells a request, by the steps of 11 R189: 4 for a kind that is no
request code, then 5 for a payload that is shorter or longer than its items need, then 6 for a presence or selector byte
above 1. Such a byte leaves the length needed open; it is 6 when one of its two meanings takes exactly the payload (DESIGN
CHOICE, log 16). -/
def malformedCause (kind : Byte) (payload : List Byte) : Option Nat :=
  if kind.toNat ∈ requestCodes then
    match fullReadings kind 0 payload with
    | [] => some 5
    | l => if l.any Reading.sound then none else some 6
  else some 4

end Sys2Proof.Machine
end

