-- ==== Sys2Proof/Machine/Ops.lean ====
section
/-! DEFINITION. The operations every block shares: the passing of time, notices and the notice queue, the fault log,
replies and the request intake, and the choice of which block acts next. -/

namespace Sys2Proof.Machine

/-! ### Banks -/

/-- The active bank (03 R39). -/
def CueTable.activeBank (t : CueTable) : Bank :=
  match t.active with
  | .a => t.bankA
  | .b => t.bankB

/-- The staged bank (03 R39). -/
def CueTable.stagedBank (t : CueTable) : Bank :=
  match t.active with
  | .a => t.bankB
  | .b => t.bankA

/-- The other bank. -/
def BankName.other (n : BankName) : BankName :=
  match n with
  | .a => .b
  | .b => .a

/-- The active rate (01 R1). -/
def State.rate (s : State) : Rate := s.table.activeBank.rate

/-- The records of the active bank in table order. -/
def State.cues (s : State) : List Cue := s.table.activeBank.cues

/-- The record of a key in a list of records. -/
def findCue (cues : List Cue) (k : Key) : Option Cue := cues.find? fun c => decide (c.key = k)

/-! ### The passing of time (02 R16, 06 R97) -/

/-- A unit in BURST counts its remaining time down by 1 at each millisecond of its own timer, and stands at 0 until
the expiry is taken (06 R97, R101). -/
def Tone.elapse (us : Nat) (t : Tone) : Tone :=
  match t.state with
  | .burst => { t with remaining := t.remaining - (t.subMs + us) / 1000, subMs := (t.subMs + us) % 1000 }
  | _ => t

/-- The reader's measure of the time since the last power-on or RESTART goes on, up to 2^32 (02 R14; log 9). -/
def Reader.elapse (us : Nat) (r : Reader) : Reader := { r with sinceCut := min (r.sinceCut + us) 4294967296 }

/-- The microsecond counter moves on to `now`, and the tone units' timers and the reader's measure with it (02 R14,
R16, 06 R97, log 2). -/
def elapseTo (now : Stamp) (s : State) : State :=
  let us := elapsed s.counter now
  { s with
    counter := now,
    reader := s.reader.elapse us,
    channels := s.channels.map fun c => { c with tone := c.tone.elapse us } }

/-! ### Notices (10 R178, R179) -/

/-- The notice kinds (10 R179). -/
inductive NoticeKind where
  | lock
  | motion
  | relocate
  | line
  | cuePassed
  | take
  | armLapsed
  | pass
  | bank
  | fault
  deriving DecidableEq, Repr

/-- The kind codes 0x40..0x49 (10 R179). -/
def NoticeKind.code (k : NoticeKind) : Nat :=
  match k with
  | .lock => 0x40
  | .motion => 0x41
  | .relocate => 0x42
  | .line => 0x43
  | .cuePassed => 0x44
  | .take => 0x45
  | .armLapsed => 0x46
  | .pass => 0x47
  | .bank => 0x48
  | .fault => 0x49

/-- Whether the mask enables a kind (10 R177). -/
def NoticeMask.allows (m : NoticeMask) (k : NoticeKind) : Bool :=
  match k with
  | .lock => m.lock
  | .motion => m.motion
  | .relocate => m.relocate
  | .line => m.line
  | .cuePassed => m.cuePassed
  | .take => m.take
  | .armLapsed => m.armLapsed
  | .pass => m.pass
  | .bank => m.bank
  | .fault => m.fault

/-- The items of a PASS notice (09 R167). -/
structure PassNotice where
  reason : PassEnd
  number : Nat
  mode : PassMode
  first : Option Key
  ordinal : Nat
  last : Bool
  recording : Bool
  result : Option (Nat × TakeStatus)
  refusal : Option ResultCode
  queuedDiscarded : Bool
  position : Option Nat
  deriving DecidableEq, Repr

/-- The items of a FAULT notice (10 R176). -/
structure FaultNotice where
  cause : FaultCause
  count : Nat
  firstPending : Option Nat
  overflow : Bool
  record : Option (Nat × FaultRecord)
  deriving DecidableEq, Repr

/-- A notice as a block offers it, with the items of 10 R179; positions are positions under the active rate. -/
inductive Notice where
  | lock (p : Nat) (cls : MotionClass)
  | motion (cls : MotionClass) (p : Nat) (speed : Nat)
  | relocate (old new : Nat)
  | line (channel : Nat) (key : Key) (out : Bool) (point p : Nat)
  | cuePassed (channel : Nat) (key : Key) (reason : PassReason) (p : Nat)
  | take (number : Nat) (key : Key) (status : TakeStatus) (closePos : Nat) (origin : Origin) (passNumber : Nat)
      (disarmAfter : Bool)
  | armLapsed (entry : Nat) (key : Key) (origin : Origin) (reason : LapseReason)
  | pass (items : PassNotice)
  | bankDone (name : BankName) (rate : Rate) (count : Nat) (rateChanged : Bool)
  | bankCancelled (name : BankName) (rate : Rate) (count : Nat)
  | fault (items : FaultNotice)
  deriving DecidableEq, Repr

/-- The kind of a notice. -/
def Notice.kind (n : Notice) : NoticeKind :=
  match n with
  | .lock .. => .lock
  | .motion .. => .motion
  | .relocate .. => .relocate
  | .line .. => .line
  | .cuePassed .. => .cuePassed
  | .take .. => .take
  | .armLapsed .. => .armLapsed
  | .pass .. => .pass
  | .bankDone .. => .bank
  | .bankCancelled .. => .bank
  | .fault .. => .fault

/-- The payload of a notice: the items of 10 R179 in order, positions under the rate given. -/
def Notice.payload (r : Rate) (n : Notice) : List Byte :=
  match n with
  | .lock p cls => posItem r p ++ b1 cls.code
  | .motion cls p speed => b1 cls.code ++ opt (posItem r) (if cls = .none then none else some p) ++ b2 speed
  | .relocate old new => posItem r old ++ posItem r new
  | .line ch k out point p => b1 ch ++ keyItem k ++ flag out ++ posItem r point ++ posItem r p
  | .cuePassed ch k reason p => b1 ch ++ keyItem k ++ b1 reason.code ++ posItem r p
  | .take num k status pos origin passNo disarm =>
    b2 num ++ keyItem k ++ b1 status.code ++ posItem r pos ++ b1 origin.code ++ b2 passNo ++ flag disarm
  | .armLapsed e k origin reason => b1 e ++ keyItem k ++ b1 origin.code ++ b1 reason.code
  | .pass i =>
    b1 i.reason.code ++ b2 i.number ++ b1 i.mode.code ++ opt keyItem i.first ++ b2 i.ordinal ++ flag i.last
      ++ flag i.recording ++ opt (fun (x : Nat × TakeStatus) => b2 x.1 ++ b1 x.2.code) i.result
      ++ opt ResultCode.item i.refusal ++ flag i.queuedDiscarded ++ opt (posItem r) i.position
  | .bankDone name rate count changed =>
    b1 0 ++ b1 name.code ++ b1 rate.code ++ b2 count ++ opt flag (some changed)
  | .bankCancelled name rate count => b1 1 ++ b1 name.code ++ b1 rate.code ++ b2 count ++ opt flag none
  | .fault i =>
    b1 i.cause.code ++ b1 i.count ++ opt b1 i.firstPending ++ flag i.overflow
      ++ opt (fun (x : Nat × FaultRecord) => b1 x.1 ++ x.2.items r) i.record

/-- A notice built for the queue (10 R178). -/
def Notice.build (r : Rate) (n : Notice) : NoticeFrame :=
  { kind := BitVec.ofNat 8 n.kind.code, payload := n.payload r }

/-- The channel a lost notice is recorded with: LINE and CUE_PASSED alone have one (10 R178). -/
def Notice.lostChannel (n : Notice) : Option Nat :=
  match n with
  | .line ch .. => some ch
  | .cuePassed ch .. => some ch
  | _ => none

/-- The cue key a lost notice is recorded with (10 R178). -/
def Notice.lostKey (n : Notice) : Option Key :=
  match n with
  | .line _ k .. => some k
  | .cuePassed _ k .. => some k
  | .take _ k .. => some k
  | .armLapsed _ k .. => some k
  | .pass i => i.first
  | _ => none

/-! ### The fault log (10 R174 to R176) -/

/-- The lowest-numbered free slot, counting from `i`. -/
def lowestFree {α : Type} : Nat → List (Option α) → Option Nat
  | _, [] => none
  | i, none :: _ => some i
  | i, some _ :: rest => lowestFree (i + 1) rest

/-- A handed record is kept or discarded by the three steps of 10 R174; the second component is the cause of the
FAULT notice that becomes due. -/
def FaultLog.record (f : FaultRecord) (l : FaultLog) : FaultLog × Option FaultCause :=
  if l.overflow then (l, none)
  else
    match lowestFree 0 l.slots with
    | some i =>
      ({ l with
          slots := l.slots.set i (some f), order := l.order ++ [i],
          firstPending := if l.order = [] then some i else l.firstPending },
        if l.order = [] then some .first else none)
    | none => ({ l with overflow := true }, some .overflow)

/-- The record in a slot. -/
def FaultLog.at (l : FaultLog) (i : Nat) : Option FaultRecord := (l.slots[i]?).getD none

/-- A FAULT notice built from the log as it stands (10 R176). -/
def FaultLog.notice (cause : FaultCause) (l : FaultLog) : Notice :=
  .fault
    { cause, count := l.order.length, firstPending := l.firstPending, overflow := l.overflow,
      record := l.firstPending.bind fun i => (l.at i).map fun f => (i, f) }

/-- The position a fault record carries: P, or absent when the motion class is NONE (10 R173). -/
def State.faultPosition (s : State) : Option Nat := if s.tracker.cls = .none then none else some s.tracker.head

/-- A notice is lost to a full queue: NOTICE_OVERFLOW is recorded (10 R178), and a FAULT notice due from it is not
offered, but made owed while FAULT is masked (10 R176). The record is kept or discarded by all three steps of R174, for a
lost FAULT notice as for any other: a lost FIRST notice leaves slots free and the overflow flag clear, so its
NOTICE_OVERFLOW is kept by step 2, although R176 speaks of steps 1 and 3 alone (DESIGN CHOICE, log 41). -/
def recordLostNotice (n : Notice) (s : State) : State :=
  let (log, due) := s.faults.record
    { kind := .noticeOverflow, position := s.faultPosition, channel := n.lostChannel, key := n.lostKey,
      detail := n.kind.code }
  match due with
  | none => { s with faults := log }
  | some _ => { s with faults := { log with owed := log.owed || !s.link.mask.fault } }

/-- A block offers a notice: dropped when its kind is masked, queued when there is room, lost otherwise (10 R178). -/
def offer (n : Notice) (s : State) : State :=
  if s.link.mask.allows n.kind then
    if s.link.notices.length < 32 then
      { s with link := { s.link with notices := s.link.notices ++ [n.build s.rate] } }
    else recordLostNotice n s
  else s

/-- A block records a fault (10 R174); a FAULT notice due is offered at once, or made owed while FAULT is masked
(10 R176). -/
def recordFault (f : FaultRecord) (s : State) : State :=
  let (log, due) := s.faults.record f
  match due with
  | none => { s with faults := log }
  | some cause =>
    if s.link.mask.fault then offer (log.notice cause) { s with faults := log }
    else { s with faults := { log with owed := true } }

/-- What a block gives out in the course of a step, in order. -/
inductive Emit where
  | notice (n : Notice)
  | fault (f : FaultRecord)
  deriving DecidableEq, Repr

/-- Offers and records what a block gave out, in order. -/
def emitAll (es : List Emit) (s : State) : State :=
  es.foldl (fun s e => match e with | .notice n => offer n s | .fault f => recordFault f s) s

/-! ### Replies and the intake (11 R186 to R189) -/

/-- A reply joins the newest end of the reply queue (11 R189). -/
def queueReply (r : Reply) (s : State) : State :=
  { s with link := { s.link with replies := s.link.replies ++ [r] } }

/-- A reply of the link port itself joins the reply queue if it has room, and is dropped otherwise (11 R186, R187). -/
def queueErrorReply (r : Reply) (s : State) : State :=
  if s.link.replies.length < 8 then queueReply r s else s

/-- A LINK_ERROR reply with its cause (11 R186). -/
def linkError (cause : Nat) (s : State) : State :=
  queueErrorReply { kind := 0xFF, tag := 0, body := ResultCode.malformed.item ++ b1 cause } s

/-- A good frame is handed to the intake (11 R187). -/
def acceptFrame (f : Frame) (s : State) : State :=
  if s.link.intake.length < 4 then { s with link := { s.link with intake := s.link.intake ++ [f] } }
  else queueErrorReply { kind := replyKind f.kind, tag := f.tag, body := ResultCode.intakeFull.item } s

/-- The request handler takes a frame: none while the reply queue is full, and none but the oldest of the intake. On an
empty intake the frame arrives and is taken at one instant (11 R189, log 3). -/
def takeFrame (f : Frame) (s : State) : Option State :=
  if 8 ≤ s.link.replies.length then none
  else
    match s.link.intake with
    | [] => some s
    | g :: rest => if g = f then some { s with link := { s.link with intake := rest } } else none

/-- The outcome of a command that always leaves a state: no command of this engine stops the machine. -/
abbrev Result := Host.Outcome State Fault Refusal

/-- The handler takes the request's frame, the owning block performs it, and the reply joins the reply queue at the
same instant (11 R189). A request the handler cannot take now leaves the state as it is (log 3). -/
def handleRequest (f : Frame) (perform : State → State × List Byte) (s : State) : Result :=
  match takeFrame f s with
  | none => .next s
  | some s1 =>
    .next (queueReply { kind := replyKind f.kind, tag := f.tag, body := (perform s1).2 } (perform s1).1)

/-- Performs the request of a command, by the frame that carries it. -/
def request (i : Instr) (perform : State → State × List Byte) (s : State) : Result :=
  match requestFrame i with
  | none => .next s
  | some f => handleRequest f perform s

/-- A refusal: the result code alone, and no effect (11 R190). -/
def refuse (c : ResultCode) (s : State) : State × List Byte := (s, c.item)

/-! ### Channels -/

/-- Channel `n` acts; what it gives out is offered and recorded in order. -/
def onChannel (n : Nat) (f : Channel → Channel × List Emit) (s : State) : State :=
  match s.channels[n]? with
  | none => s
  | some c => emitAll (f c).2 { s with channels := s.channels.set n (f c).1 }

/-! ### Which block acts next (log 5) -/

/-- Takes the next arbitration choice; with none left the default order stands. -/
def State.drawOrder (s : State) : List Block × State :=
  match s.arbiter with
  | [] => ([], s)
  | o :: rest => (o, { s with arbiter := rest })

/-- Orders the things that wait for blocks by a choice of blocks: each block named takes its own oldest thing, and the
rest keep their order. Each block's own things keep their order (02 R34). -/
def arbitrate {α : Type} : List Block → List (Block × α) → List (Block × α)
  | [], ds => ds
  | b :: bs, ds =>
    match ds.find? fun d => decide (d.1 = b) with
    | none => arbitrate bs ds
    | some d => d :: arbitrate bs (ds.eraseP fun d => decide (d.1 = b))

/-- The eight channels. -/
def channelBlocks : List Block := (List.range 8).map Block.channel

/-- Every block that takes the tracker's reports, in the default order (log 5). -/
def reportBlocks : List Block := .tracker :: channelBlocks ++ [.takes, .pass, .cueTable]

end Sys2Proof.Machine
end

