-- ==== Sys2Proof/Machine/Operands.lean ====
section
/-! DEFINITION. The operand forms of requests: keys, flags, choices, clamped numbers, positions, texts, track sets, and
the whole cue records that LOAD_CUE and UPDATE_CUE carry (03 R40 to R44). -/

namespace Sys2Proof.Machine

/-- A key field: a number 1..9999 and a suffix that is none or a letter (03 R40). -/
def keyOf (w : WireKey) : Option Key :=
  if 1 ≤ w.num.toNat ∧ w.num.toNat ≤ 9999 then
    match w.suffix.toNat with
    | 0 => some { num := w.num.toNat, suffix := none }
    | k + 1 => if h : k < 26 then some { num := w.num.toNat, suffix := some ⟨k, h⟩ } else none
  else none

/-- A yes-or-no field: any byte but 0 and 1 is out of range (11 R188). -/
def yesNo (b : Byte) : Option Bool :=
  if b = 0 then some false else if b = 1 then some true else none

/-- An optional field that is tested: absent passes. The outer `none` is a refusal. -/
def testField {α β : Type} (test : α → Option β) (v : Option α) : Option (Option β) :=
  match v with
  | none => some none
  | some x => (test x).map some

/-- A value clamped to the nearer end of its range, with whether it was clamped. -/
def clampTo (lo hi v : Nat) : Nat × Bool := (max lo (min v hi), decide (v < lo) || decide (hi < v))

/-- A present number replaces the setting, clamped; an absent one keeps it. -/
def clampField (lo hi old : Nat) (v : Option Nat) : Nat × Bool :=
  match v with
  | none => (old, false)
  | some x => clampTo lo hi x

/-- A present label offset replaces the setting, clamped to −10..+10 (01 R9); an absent one keeps it. -/
def clampOffset (old : Int) (v : Option Byte) : Int × Bool :=
  match v with
  | none => (old, false)
  | some b => (max (-10) (min b.toInt 10), decide (b.toInt < -10) || decide (10 < b.toInt))

/-- OK, or ADJUSTED when something was clamped, cut, replaced or moved (01 R12, 11 R190). -/
def okOr (adjusted : Bool) : ResultCode := if adjusted then .adjusted else .ok

/-- The tracks of a set, in ascending track number. -/
def tracksOf (v : Half) : List Nat := (List.range 16).filter fun k => v.getLsbD k

/-- One bit of a 16-line word set or cleared. -/
def setLine (v : Half) (k : Nat) (on : Bool) : Half :=
  if on then v ||| (1#16 <<< k) else v &&& ~~~(1#16 <<< k)

/-- The bank selectors: 0 ACTIVE, 1 STAGED (11 R188). -/
def selectorIsStaged (b : Byte) : Option Bool := yesNo b

/-- The bank of a role, with its letter (03 R59). -/
def CueTable.bankOfRole (staged : Bool) (t : CueTable) : Bank × BankName :=
  if staged then (t.stagedBank, t.active.other) else (t.activeBank, t.active)

/-! ### Texts (03 R43) -/

/-- A byte outside 0x20..0x7E is stored as a question mark. -/
def printable (b : Byte) : Bool := decide (0x20 ≤ b.toNat) && decide (b.toNat ≤ 0x7E)

/-- A text as it is stored, with whether it was adjusted: bytes replaced, cut to 96 characters, and 0 characters stored
as absent (03 R43). -/
def storeText (t : Option (List Byte)) : Option (List Byte) × Bool :=
  match t with
  | none => (none, false)
  | some [] => (none, false)
  | some chars =>
    (some ((chars.map fun b => if printable b then b else 0x3F).take 96),
      chars.any (fun b => !printable b) || decide (96 < chars.length))

/-! ### Cue records (03 R41, R44) -/

/-- A streamer length as it is stored: 0, or 8..120 (03 R41). -/
def storeStreamer (v : Nat) : Nat × Bool := if v = 0 then (0, false) else clampTo 8 120 v

/-- The two-position test: out − in lies in 100..600,000 subframes (03 R41). -/
def pointsFit (inPt outPt : Nat) : Bool := decide (inPt + 100 ≤ outPt) && decide (outPt ≤ inPt + 600000)

/-- A LOAD_CUE's fields as a record under the staged bank's rate, with whether anything was adjusted; none is RANGE
(03 R44 steps 2 to 4 and 6). -/
def cueOfItems (r : Rate) (key : Key) (x : CueItems) : Option (Cue × Bool) :=
  match posField r x.inPt, posField r x.outPt, yesNo x.punch with
  | some (inPt, movedIn), some (outPt, movedOut), some punch =>
    if pointsFit inPt outPt then
      let streamer := storeStreamer x.streamer.toNat
      let beeps := clampTo 0 4 x.beeps.toNat
      let interval := clampTo 6 50 x.interval.toNat
      let text := storeText x.text
      some
        ({ key, tag := x.tag, inPt, outPt, streamer := streamer.1, beeps := beeps.1, interval := interval.1, punch,
           tracks := x.tracks, text := text.1 },
          movedIn || movedOut || streamer.2 || beeps.2 || interval.2 || text.2)
    else none
  | _, _, _ => none

/-- The tests of an UPDATE_CUE's selected fields before the record is looked up: RANGE is none (03 R44 step 2, R56).
The points come converted under the active rate. -/
structure EditFields where
  inPt : Option (Nat × Bool)
  outPt : Option (Nat × Bool)
  punch : Option Bool
  deriving DecidableEq, Repr

/-- The fields of an UPDATE_CUE tested one by one (03 R44 step 2, R56). -/
def editFields (r : Rate) (e : CueEdit) : Option EditFields :=
  if e.extraFlags = 0 then
    match testField (posField r) e.inPt, testField (posField r) e.outPt, testField yesNo e.punch with
    | some inPt, some outPt, some punch => some { inPt, outPt, punch }
    | _, _, _ => none
  else none

/-- Whether an UPDATE_CUE selects no field (03 R56). -/
def editSelectsNothing (e : CueEdit) : Bool := decide (editSelectSet e = 0)

/-- The record an UPDATE_CUE makes of a record, with whether anything was adjusted (03 R56). -/
def applyEdit (f : EditFields) (e : CueEdit) (c : Cue) : Cue × Bool :=
  let streamer := match e.streamer with | none => (c.streamer, false) | some v => storeStreamer v.toNat
  let beeps := clampField 0 4 c.beeps (e.beeps.map BitVec.toNat)
  let interval := clampField 6 50 c.interval (e.interval.map BitVec.toNat)
  let text := match e.text with | none => (c.text, false) | some t => storeText t
  let inPt := f.inPt.getD (c.inPt, false)
  let outPt := f.outPt.getD (c.outPt, false)
  ({ c with
      tag := e.tag.getD c.tag, inPt := inPt.1, outPt := outPt.1, streamer := streamer.1, beeps := beeps.1,
      interval := interval.1, punch := f.punch.getD c.punch, tracks := e.tracks.getD c.tracks, text := text.1 },
    inPt.2 || outPt.2 || streamer.2 || beeps.2 || interval.2 || text.2)

/-- A record's fields after its key, as replies carry them (03 R41, R44; log 12). -/
def cueItem (r : Rate) (c : Cue) : List Byte :=
  half c.tag ++ posItem r c.inPt ++ posItem r c.outPt ++ b1 c.streamer ++ b1 c.beeps ++ b1 c.interval ++ flag c.punch
    ++ half c.tracks ++ opt textItem c.text

/-! ### Banks in table order (03 R45) -/

/-- Table order: ascending in point, then ascending key (03 R45). -/
def Cue.before (a b : Cue) : Bool :=
  decide (a.inPt < b.inPt) || (decide (a.inPt = b.inPt) && a.key.before b.key)

/-- The records without the one of a key. -/
def dropKey (k : Key) (cues : List Cue) : List Cue := cues.filter fun c => decide (c.key ≠ k)

/-- A record placed in table order in place of any record of its key (03 R48, R56). -/
def placeCue (c : Cue) (cues : List Cue) : List Cue := insertBy Cue.before c (dropKey c.key cues)

/-- The index of a key in table order (03 R45). -/
def indexOfKey (k : Key) (cues : List Cue) : Nat := cues.findIdx fun c => decide (c.key = k)

/-- The cue table with its active bank changed. -/
def CueTable.withActive (b : Bank) (t : CueTable) : CueTable :=
  match t.active with
  | .a => { t with bankA := b }
  | .b => { t with bankB := b }

/-- The cue table with its staged bank changed. -/
def CueTable.withStaged (b : Bank) (t : CueTable) : CueTable :=
  match t.active with
  | .a => { t with bankB := b }
  | .b => { t with bankA := b }

end Sys2Proof.Machine
end

