-- ==== Sys2Proof/Machine/Flags.lean ====
section
/-! DEFINITION. The flags and lines that follow from the state: the motion class and the settled flag (02 R32, R33),
the lamp lines (06 R102), the tone output (06 R96), the gate lines (07 R123), guard spans in force (07 R125), and what
the drawing covers (06 R105). -/

namespace Sys2Proof.Machine

/-! ### Motion class (02 R32) -/

/-- The motion class that holds for a tracker's state, direction, speed and cue band (02 R32). -/
def Tracker.classify (t : Tracker) : MotionClass :=
  match t.state with
  | .silent => .none
  | .acquiring => .none
  | .parked => .still
  | .locked | .freewheel =>
    match t.heading with
    | .reverse => .reverse
    | _ => if t.settings.bandLow ≤ t.speed ∧ t.speed ≤ t.settings.bandHigh then .play else .spool

/-! ### Output lines -/

/-- The READY lamp line of a channel (06 R102). -/
def Channel.readyLamp (c : Channel) : Bool := decide (0 < c.lamps.ready)

/-- The LIVE lamp line of a channel (06 R102). -/
def Channel.liveLamp (c : Channel) : Bool := decide (0 < c.lamps.live)

/-- A tone period's length in whole microseconds (06 R96). -/
def periodLength (pitch : Nat) : Nat := 1000000 / pitch

/-- The tone a channel's output carries: the pitch of its period and its amplitude in fifteenths of full scale; none
when the output is at rest, as in IDLE and at level 0 (06 R96). -/
def Channel.toneOutput (c : Channel) : Option (Nat × Nat) :=
  match c.tone.state, c.tone.period with
  | .idle, _ => none
  | _, some p => if c.settings.level = 0 then none else some (p.pitch, c.settings.level)
  | _, none => none

/-- A record gate line (07 R115). -/
def State.gateLine (s : State) (track : Nat) : Bool := s.takes.gateLines.getLsbD track

/-! ### Guard spans (07 R125) -/

/-- A span in force: enabled, its limit at or beyond its base (07 R125). -/
def Guard.inForce (g : Guard) : Bool := g.enabled && decide (g.base ≤ g.limit)

/-- A span in force that covers the track and contains P (07 R125). -/
def Guard.shuts (g : Guard) (track p : Nat) : Bool :=
  g.inForce && g.tracks.getLsbD track && decide (g.base ≤ p) && decide (p ≤ g.limit)

/-! ### What the drawing covers (06 R105) -/

/-- The first line of a lane (06 R105). -/
def laneTop (lane : Nat) : Nat := 135 * lane

/-- The colour a code selects (04 R70). A setting holds no code above 7 (04 R61). -/
def colourOf (code : Nat) : Colour :=
  match code with
  | 0 => .white
  | 1 => .yellow
  | 2 => .cyan
  | 3 => .green
  | 4 => .magenta
  | 5 => .red
  | 6 => .blue
  | _ => .orange

/-- The colour an item is drawn in: white for a punch, the channel's colour for a bar and a text (06 R105, 04 R70). -/
def DrawItem.colour (item : DrawItem) : Colour :=
  match item with
  | .punch _ => .white
  | .bar _ c _ => c
  | .text _ c _ => c

/-- Whether an item covers a pixel of a line: a punch its whole lane, a bar 24 pixels of the upper 108 lines, a text
the cells of its characters in the lower 27 lines (06 R105). DESIGN CHOICE: a character covers its whole cell, the pixels
its glyph leaves unset among them, and hides there what lies beneath (log 36). -/
def DrawItem.covers (item : DrawItem) (line pixel : Nat) : Bool :=
  match item with
  | .punch lane => decide (laneTop lane ≤ line) && decide (line < laneTop lane + 135) && decide (pixel < 1920)
  | .bar lane _ x =>
    decide (laneTop lane ≤ line) && decide (line < laneTop lane + 108) && decide (x ≤ pixel) && decide (pixel < x + 24)
  | .text lane _ chars =>
    decide (laneTop lane + 108 ≤ line) && decide (line < laneTop lane + 135) && decide (pixel < 32 * chars.length)

/-- The topmost item at a pixel: a later item is painted over an earlier one; none shows the video input unchanged
(06 R105, R112). -/
def topItem (drawing : List DrawItem) (line pixel : Nat) : Option DrawItem :=
  drawing.reverse.find? fun i => i.covers line pixel

/-- The colour drawn at a pixel: that of the topmost item, and none where the video input shows unchanged (06 R105). In a
text's cell it is the colour of the character; its glyph's form is left out (log 25, log 36). -/
def colourAt (drawing : List DrawItem) (line pixel : Nat) : Option Colour :=
  (topItem drawing line pixel).map DrawItem.colour

/-- The left edge of the streamer bar for a sampled P (06 R111). -/
def barEdge (p start length : Nat) : Nat := 1896 * min (p - start) (length * 100) / (length * 100)

end Sys2Proof.Machine
end

