-- ==== Sys2Proof/Machine/Outputs.lean ====
section
/-! DEFINITION. The three output blocks of a channel (06): what a fired event and a withdrawal do to the tone unit, the
lamp driver and the overlay lane, and what the overlay generator draws at a frame start. -/

namespace Sys2Proof.Machine

/-- A fired event as a channel hands it on (05 R79). -/
structure FiredEvent where
  kind : EventKind
  key : Key
  first : Bool
  point : Nat
  copy : Option CueCopy
  deriving DecidableEq, Repr

/-! ### Tone units (06 R95 to R100) -/

/-- A BEEP in BEEP mode starts a burst, or restarts the one that is running without a break (06 R97). -/
def Tone.beepBurst (set : ChannelSettings) (now : Stamp) (t : Tone) : Tone :=
  match t.state with
  | .idle =>
    { t with
      state := .burst, remaining := set.beepLength, subMs := 0, period := some { pitch := set.pitch, start := now } }
  | .burst => { t with remaining := set.beepLength, subMs := 0 }
  | .held => t

/-- A BEEP in STEADY mode adds the cue's key to the holder set; an idle unit enters HELD (06 R98). -/
def Tone.beepSteady (set : ChannelSettings) (now : Stamp) (k : Key) (t : Tone) : Tone :=
  let holders := if k ∈ t.holders then t.holders else t.holders ++ [k]
  match t.state with
  | .idle => { t with state := .held, holders, period := some { pitch := set.pitch, start := now } }
  | .held => { t with holders }
  | .burst => t

/-- A LINE_IN in STEADY mode removes the cue's key; an empty set returns the unit to IDLE (06 R98). -/
def Tone.release (k : Key) (t : Tone) : Tone :=
  if k ∈ t.holders then
    let holders := t.holders.filter fun x => decide (x ≠ k)
    if holders = [] then Tone.idle else { t with holders }
  else t

/-- What a fired event does to a tone unit (06 R97, R98). -/
def Tone.take (set : ChannelSettings) (now : Stamp) (e : FiredEvent) (t : Tone) : Tone :=
  match e.kind with
  | .beep _ => if set.steady then t.beepSteady set now e.key else t.beepBurst set now
  | .lineIn => if set.steady then t.release e.key else t
  | _ => t

/-- The expiry of a burst whose remaining time is 0 returns the unit to IDLE (06 R97, R101). -/
def Tone.expire (t : Tone) : Tone :=
  match t.state with
  | .burst => if t.remaining = 0 then Tone.idle else t
  | _ => t

/-- The end of the period under way: the next one starts at the channel's present pitch (06 R96). -/
def Tone.startPeriod (set : ChannelSettings) (now : Stamp) (t : Tone) : Tone :=
  match t.state, t.period with
  | .idle, _ => t
  | _, none => t
  | _, some p =>
    if periodLength p.pitch ≤ elapsed p.start now then { t with period := some { pitch := set.pitch, start := now } }
    else t

/-! ### Lamp drivers (06 R102 to R104) -/

/-- The four steps of the lamp driver for an event (06 R103). -/
def Lamps.take (e : FiredEvent) (l : Lamps) : Lamps :=
  let l1 : Lamps := if e.first then { l with ready := min 48 (l.ready + 1) } else l
  match e.kind with
  | .lineIn => { ready := l1.ready - 1, live := min 48 (l1.live + 1) }
  | .lineOut => { l1 with live := l1.live - 1 }
  | _ => l1

/-! ### The overlay (06 R107 to R114) -/

/-- What a fired event does to a channel's overlay state (06 R108, R109). -/
def Overlay.take (present : Bool) (e : FiredEvent) (o : Overlay) : Overlay :=
  match e.kind, e.copy with
  | .streamerStart, some c => { o with streamer := some { start := e.point, length := c.streamer, key := e.key } }
  | .lineIn, some c =>
    { o with
      streamer := o.streamer.filter fun s => decide (s.key ≠ e.key),
      punch := if c.punch && present then 2 else o.punch }
  | .textShow, some c =>
    match c.text with
    | some t => { o with shown := some { text := t, key := e.key } }
    | none => o
  | .textClear, _ => { o with shown := o.shown.filter fun t => decide (t.key ≠ e.key) }
  | _, _ => o

/-- The three blocks of a channel take the same event (05 R79). -/
def Channel.present (present : Bool) (now : Stamp) (e : FiredEvent) (c : Channel) : Channel :=
  { c with
    tone := c.tone.take c.settings now e, lamps := c.lamps.take e, overlay := c.overlay.take present e }

/-- A withdrawal clears every output of a channel at once (05 R77, 06 R100, R104, R114). -/
def Channel.withdraw (c : Channel) : Channel :=
  { c with tone := Tone.idle, lamps := { ready := 0, live := 0 }, overlay := Overlay.clear }

/-- The items drawn for a channel at a frame start: punch, streamer bar, text row, in the lane and colour its settings hold
then (06 R110, 04 R70). -/
def Channel.draw (p : Nat) (c : Channel) : List DrawItem :=
  let punch := if 0 < c.overlay.punch then [DrawItem.punch c.settings.lane] else []
  let bar :=
    match c.overlay.streamer with
    | none => []
    | some s => [DrawItem.bar c.settings.lane (colourOf c.settings.colour) (barEdge p s.start s.length)]
  let text :=
    match c.overlay.shown with
    | none => []
    | some t => [DrawItem.text c.settings.lane (colourOf c.settings.colour) (t.text.take 60)]
  punch ++ bar ++ text

/-- After drawing, a non-zero count of punch frames is lowered by 1 (06 R110). -/
def Channel.lowerPunch (c : Channel) : Channel :=
  { c with overlay := { c.overlay with punch := c.overlay.punch - 1 } }

/-- Whether a channel holds a streamer, punch frames or a shown text (06 R106). -/
def Channel.holdsOverlay (c : Channel) : Bool :=
  c.overlay.streamer.isSome || decide (0 < c.overlay.punch) || c.overlay.shown.isSome

end Sys2Proof.Machine
end

