-- ==== Sys2Proof/Machine/Tracker.lean ====
section
/-! DEFINITION. The play head tracker (02): what a word, a timeout, a change of adv and a settings change do to its
record, and the reports that follow from a change. The tracker alone writes P, S, the direction, the class and the
settled flag (02, What the tracker hands on). -/

namespace Sys2Proof.Machine

/-! ### Reports (02 R34) -/

/-- The tracker's state that each report carries, after the change (02 R34). -/
structure Snap where
  state : TrackState
  cls : MotionClass
  head : Nat
  speed : Nat
  heading : Heading
  settled : Bool
  deriving DecidableEq, Repr

/-- The reports (02 R34). `step0` marks an advance reported in one set with a lock or relocate event (05 R88). -/
inductive ReportKind where
  | lock
  | relocate (old new : Nat)
  | classChange (old new : MotionClass)
  | settle
  | advance (old new : Nat) (step0 : Bool)
  deriving DecidableEq, Repr

/-- A report with the state it carries. -/
structure Report where
  kind : ReportKind
  snap : Snap
  deriving DecidableEq, Repr

/-- The state that reports carry. -/
def Tracker.snap (t : Tracker) : Snap :=
  { state := t.state, cls := t.cls, head := t.head, speed := t.speed, heading := t.heading, settled := t.settled }

/-- The event a transition raises of itself: a lock (R20), a relocate (R24), or neither. -/
inductive TrackEvent where
  | none
  | lock
  | relocate
  deriving DecidableEq, Repr

/-- A forward step of more than 500 subframes is a discontinuity, whatever made it: a relocate in place of an advance (02
R27, R34). -/
def isDiscontinuity (old new : Nat) : Bool := decide (old + 500 < new)

/-- The settle end and settled flag after a change from `t0` to `t1`, whose class is `cls`, and whether a settle event
is raised (02 R33). -/
def settleAfter (r : Rate) (t0 t1 : Tracker) (cls : MotionClass) (relocated : Bool) : Option Nat × Bool × Bool :=
  if cls = .play then
    if t0.cls ≠ .play ∨ relocated then
      let e := clampDay r (t1.head + t1.settings.settleSpan * 100)
      (some e, decide (e ≤ t1.head), decide (e ≤ t1.head))
    else if t0.settled then (t0.settleEnd, true, false)
    else
      match t0.settleEnd with
      | none => (none, false, false)
      | some e =>
        let set := decide (t1.head ≠ t0.head) && decide (e ≤ t1.head)
        (some e, set, set)
  else (none, false, false)

/-- A change is completed before it is reported: class (R32) and settle (R33) follow from the record, and the reports
stand in the order of R34. A relocate by R24 has its one event whatever its step, and an advance beside it unless its step is
a discontinuity. That a lock whose step is a discontinuity has both events is read from R27 (log 28, DEDUCED), and that its
lock event stands first is the model's choice (log 44, DESIGN CHOICE). The result is the tracker after the change and its
reports. -/
def concludeChange (r : Rate) (t0 t1 : Tracker) (ev : TrackEvent) : Tracker × List Report :=
  let cls := t1.classify
  let disc := isDiscontinuity t0.head t1.head
  let st := settleAfter r t0 t1 cls (decide (ev = .relocate) || disc)
  let t := { t1 with cls := cls, settleEnd := st.1, settled := st.2.1 }
  let locked : List ReportKind := if ev = .lock then [.lock] else []
  let moved : List ReportKind := if ev = .relocate ∨ disc then [.relocate t0.head t.head] else []
  let change : List ReportKind := if cls = t0.cls then [] else [.classChange t0.cls cls]
  let settle : List ReportKind := if st.2.2 then [.settle] else []
  let adv : List ReportKind :=
    if t.head = t0.head ∨ disc then [] else [.advance t0.head t.head (decide (ev ≠ .none))]
  (t, (locked ++ moved ++ change ++ settle ++ adv).map fun k => { kind := k, snap := t.snap })

/-! ### Speed and position (02 R25, R26) -/

/-- The last `n` elements. -/
def lastOf {α : Type} (n : Nat) (l : List α) : List α := l.drop (l.length - n)

/-- An interval joins a list of up to four, the oldest dropped (02 R19, R25). -/
def pushInterval (dt : Nat) (l : List Nat) : List Nat := lastOf 4 (l ++ [dt])

/-- S from the speed history: Tn × n ÷ ΣΔt rounded half up, clamped to 250..4000, an interval of 0 taken as 1 µs (02
R16, R25). With no interval held S is kept. -/
def speedOf (r : Rate) (old : Nat) (history : List Nat) : Nat :=
  match history with
  | [] => old
  | _ =>
    let sum := (history.map fun d => max d 1).sum
    max 250 (min 4000 ((2 * r.tn * history.length + sum) / (2 * sum)))

/-- adv, the subframes from T_w to the present (02 R26). -/
def advOf (r : Rate) (tw : Stamp) (speed : Nat) (now : Stamp) : Nat := elapsed tw now * speed * 100 / r.tn

/-- P for a word's frame, a direction and adv, clamped to the day (02 R26, 01 R7). -/
def headAt (r : Rate) (a : Nat) (h : Heading) (adv : Nat) : Nat :=
  match h with
  | .reverse => clampDay r (a * 100 - adv)
  | _ => clampDay r (a * 100 + adv)

/-- adv in FREEWHEEL has reached the freewheel limit (02 R30). -/
def Tracker.limitReached (r : Rate) (now : Stamp) (t : Tracker) : Bool :=
  match t.accepted with
  | none => false
  | some w => decide (t.settings.freewheelLimit * 100 ≤ advOf r w.stamp t.speed now)

/-- P at the counter value `now` by 02 R26. -/
def Tracker.headNow (r : Rate) (now : Stamp) (t : Tracker) : Nat :=
  match t.accepted with
  | none => t.head
  | some w =>
    match t.state with
    | .locked => headAt r w.a t.heading (min (advOf r w.stamp t.speed now) 99)
    | .freewheel => headAt r w.a t.heading (min (advOf r w.stamp t.speed now) (t.settings.freewheelLimit * 100))
    | _ => t.head

/-! ### Entries to states -/

/-- The direction of a word as the tracker's direction. -/
def Word.heading (w : Word) : Heading :=
  match w.sense with
  | .forward => .forward
  | .reverse => .reverse

/-- Entry to SILENT: the record as the RESTART column of 02 R17 gives; P and the settings are kept. -/
def Tracker.toSilent (t : Tracker) : Tracker :=
  { t with
    state := .silent, accepted := none, reference := none, run := 0, acqIntervals := [], acqRepeats := 0,
    repeatRun := 0, candidate := none, history := [], lastArrival := none, timeoutFrom := none, speed := 0,
    heading := .still, cls := .none, settleEnd := none, settled := false }

/-- Entry to PARKED: P is held, S is 0, the direction STILL, the history empty, no candidate (02 R22, R30). -/
def Tracker.toParked (t : Tracker) : Tracker :=
  { t with state := .parked, heading := .still, speed := 0, history := [], candidate := none }

/-- Entry to ACQUIRING by a word: that word is the reference with run length 1, S is 0 and the direction STILL (02 R19,
R29, R31). -/
def Tracker.toAcquiring (w : Word) (t : Tracker) : Tracker :=
  { t with
    state := .acquiring, reference := some w, run := 1, acqIntervals := [], acqRepeats := 0, speed := 0,
    heading := .still, history := [], candidate := none }

/-- A word accepted onto the track: P becomes its A·100 and the repeat run 0 (02 R21). -/
def Tracker.accept (w : Word) (t : Tracker) : Tracker :=
  { t with accepted := some w, head := w.a * 100, repeatRun := 0, candidate := none }

/-! ### Consistency (02 R18) -/

/-- One frame beyond a reference frame in the word's own direction (02 R18). -/
def Word.oneBeyond (w : Word) (a : Nat) : Bool :=
  match w.sense with
  | .forward => decide (w.a = a + 1)
  | .reverse => decide (w.a + 1 = a)

/-- Two frames beyond a frame in the word's own direction (02 R23). -/
def Word.twoBeyond (w : Word) (a : Nat) : Bool :=
  match w.sense with
  | .forward => decide (w.a = a + 2)
  | .reverse => decide (w.a + 2 = a)

/-- Consistent with a reference frame: a repeat of it or one frame beyond it (02 R18). -/
def Word.consistent (w : Word) (a : Nat) : Bool := decide (w.a = a) || w.oneBeyond a

/-! ### Acquiring lock (02 R19, R20) -/

/-- A lock by a repeat: PARKED at the word's frame (02 R20). -/
def Tracker.lockParked (w : Word) (t : Tracker) : Tracker :=
  { t with
    state := .parked, head := w.a * 100, heading := .still, speed := 0, history := [],
    repeatRun := min t.acqRepeats 2, reference := none, run := 0, acqIntervals := [], acqRepeats := 0 }

/-- A lock by a consistent non-repeat: LOCKED, the history seeded with the acquisition intervals (02 R20). -/
def Tracker.lockLocked (r : Rate) (w : Word) (t : Tracker) : Tracker :=
  { t with
    state := .locked, accepted := some w, head := w.a * 100, heading := w.heading, history := t.acqIntervals,
    speed := speedOf r t.speed t.acqIntervals, repeatRun := min t.acqRepeats 2, reference := none, run := 0,
    acqIntervals := [], acqRepeats := 0 }

/-- A word in ACQUIRING, tested against the reference word (02 R19), with the lock that a run of the lock count makes
(02 R20). -/
def Tracker.acquire (r : Rate) (w : Word) (t : Tracker) : Tracker × TrackEvent :=
  match t.reference with
  | none => ({ t with reference := some w, run := 1, acqRepeats := 0 }, .none)
  | some ref =>
    if w.consistent ref.a then
      if w.a = ref.a ∧ w.sense = ref.sense then
        let t' := { t with run := t.run + 1, acqRepeats := min (t.acqRepeats + 1) 2 }
        if t.settings.lockCount ≤ t'.run then (t'.lockParked w, .lock) else (t', .none)
      else
        let kept := if w.sense = ref.sense then t.acqIntervals else []
        let t' :=
          { t with
            run := t.run + 1, acqRepeats := 0, acqIntervals := pushInterval (elapsed ref.stamp w.stamp) kept,
            reference := some w }
        if t.settings.lockCount ≤ t'.run then (t'.lockLocked r w, .lock) else (t', .none)
    else ({ t with reference := some w, run := 1, acqIntervals := [], acqRepeats := 0 }, .none)

/-! ### Following the picture (02 R21 to R24) -/

/-- A repeat in LOCKED; the second successive one parks (02 R22). -/
def Tracker.takeRepeat (t : Tracker) : Tracker :=
  let t' := { t with repeatRun := t.repeatRun + 1, candidate := none }
  if 2 ≤ t'.repeatRun then t'.toParked else t'

/-- A word in LOCKED that meets the old track (02 R21, R22, R23 step 1); none when it does not. `held` says that a
candidate is held. -/
def Tracker.onTrack (r : Rate) (w : Word) (acc : Word) (held : Bool) (t : Tracker) : Option Tracker :=
  if w.heading = t.heading then
    if w.a = acc.a then some t.takeRepeat
    else if w.oneBeyond acc.a then
      if held then some (t.accept w)
      else
        let h := pushInterval (elapsed acc.stamp w.stamp) t.history
        some { t.accept w with history := h, speed := speedOf r t.speed h }
    else if held && w.twoBeyond acc.a then some (t.accept w)
    else none
  else if w.a = acc.a || w.oneBeyond acc.a then
    let h := [elapsed acc.stamp w.stamp]
    some { t.accept w with heading := w.heading, history := h, speed := speedOf r t.speed h }
  else none

/-- A relocate: the confirming word is accepted, with the interval from the candidate (02 R24). -/
def Tracker.relocateTo (r : Rate) (w cand : Word) (t : Tracker) : Tracker :=
  let h := [elapsed cand.stamp w.stamp]
  { t.accept w with heading := w.heading, history := h, speed := speedOf r t.speed h }

/-- A word in LOCKED (02 R21 to R24). -/
def Tracker.follow (r : Rate) (w : Word) (t : Tracker) : Tracker × TrackEvent :=
  match t.accepted with
  | none => (t.toAcquiring w, .none)
  | some acc =>
    match t.onTrack r w acc t.candidate.isSome with
    | some t' => (t', .none)
    | none =>
      match t.candidate with
      | none => ({ t with candidate := some w }, .none)
      | some cand =>
        if w.consistent cand.a then (t.relocateTo r w cand, .relocate) else ({ t with candidate := some w }, .none)

/-! ### Freewheel and park (02 R29, R31) -/

/-- A word in FREEWHEEL: a snap back to LOCKED within 2 frames of the frame of P in the current direction, and
ACQUIRING otherwise (02 R29). -/
def Tracker.snapBack (w : Word) (t : Tracker) : Tracker :=
  if w.heading = t.heading ∧ frameOf t.head ≤ w.a + 2 ∧ w.a ≤ frameOf t.head + 2 then
    { t.accept w with state := .locked }
  else t.toAcquiring w

/-- A word in PARKED, against the parked frame (02 R31). -/
def Tracker.leavePark (r : Rate) (w : Word) (t : Tracker) : Tracker :=
  if w.a = frameOf t.head then t
  else if w.oneBeyond (frameOf t.head) then
    let h := [elapsed (t.lastArrival.getD w.stamp) w.stamp]
    { t.accept w with state := .locked, heading := w.heading, history := h, speed := speedOf r t.speed h }
  else t.toAcquiring w

/-- A word arrival in each state; it sets the last arrival stamp in every one (02 R18 to R31). -/
def Tracker.takeWord (r : Rate) (w : Word) (t : Tracker) : Tracker × TrackEvent :=
  let res :=
    match t.state with
    | .silent => (t.toAcquiring w, TrackEvent.none)
    | .acquiring => t.acquire r w
    | .locked => t.follow r w
    | .freewheel => (t.snapBack w, .none)
    | .parked => (t.leavePark r w, .none)
  ({ res.1 with lastArrival := some w.stamp, timeoutFrom := none }, res.2)

/-! ### Timeouts and changes of adv (02 R18, R28, R30) -/

/-- The stamp the word timeout runs from (02 R18). -/
def Tracker.timeoutBase (t : Tracker) : Option Stamp :=
  match t.timeoutFrom with
  | some x => some x
  | none => t.lastArrival

/-- Whether 4·Tn has passed with no word arrival (02 R18). -/
def Tracker.timeoutDue (r : Rate) (now : Stamp) (t : Tracker) : Bool :=
  match t.timeoutBase with
  | none => false
  | some x => decide (r.wordTimeout ≤ elapsed x now)

/-- A park from FREEWHEEL at the limit position (02 R28, R30). -/
def Tracker.parkAtLimit (r : Rate) (now : Stamp) (t : Tracker) : Tracker :=
  { t.toParked with head := t.headNow r now }

/-- The word timeout in LOCKED: FREEWHEEL with P recomputed, and PARKED at once at the limit (02 R28). The second
component says that the tracker parked from FREEWHEEL (R30). -/
def Tracker.dropOut (r : Rate) (now : Stamp) (t : Tracker) : Tracker × Bool :=
  let f := { t with state := TrackState.freewheel, candidate := none, repeatRun := 0 }
  if f.limitReached r now then (f.parkAtLimit r now, true) else ({ f with head := f.headNow r now }, false)

/-- The word timeout (02 R18, R19, R28). -/
def Tracker.timeOut (r : Rate) (now : Stamp) (t : Tracker) : Tracker × Bool :=
  if t.timeoutDue r now then
    match t.state with
    | .acquiring => (t.toSilent, false)
    | .locked => t.dropOut r now
    | _ => (t, false)
  else (t, false)

/-- One subframe from `p` toward `target`. -/
def oneToward (p target : Nat) : Nat := if p < target then p + 1 else if target < p then p - 1 else p

/-- A change of adv: P moves by one subframe toward its place at `now`; in FREEWHEEL the change that reaches the limit
parks (02 R26, R30, log 7, log 8). The second component says that the tracker parked from FREEWHEEL. -/
def Tracker.advance (r : Rate) (now : Stamp) (t : Tracker) : Tracker × Bool :=
  let p := oneToward t.head (t.headNow r now)
  match t.state with
  | .locked => ({ t with head := p }, false)
  | .freewheel =>
    if t.limitReached r now && decide (p = t.headNow r now) then (t.parkAtLimit r now, true)
    else ({ t with head := p }, false)
  | _ => (t, false)

/-- adv reaches the freewheel limit in FREEWHEEL (02 R30). -/
def Tracker.reachLimit (r : Rate) (now : Stamp) (t : Tracker) : Tracker × Bool :=
  match t.state with
  | .freewheel => if t.limitReached r now then (t.parkAtLimit r now, true) else (t, false)
  | _ => (t, false)

/-! ### Settings (02 R36, R37) -/

/-- The settings after a SET_TRACKING, with whether a value was clamped (02 R36). -/
def TrackSettings.update (x : TrackingItems) (s : TrackSettings) : TrackSettings × Bool :=
  let offset := clampOffset s.offset x.offset
  let lock := clampField 2 16 s.lockCount (x.lockCount.map BitVec.toNat)
  let limit := clampField 0 50 s.freewheelLimit (x.freewheelLimit.map BitVec.toNat)
  let low := clampField 500 1000 s.bandLow (x.bandLow.map BitVec.toNat)
  let high := clampField 1000 2000 s.bandHigh (x.bandHigh.map BitVec.toNat)
  let span := clampField 0 48 s.settleSpan (x.settleSpan.map BitVec.toNat)
  ({ offset := offset.1, lockCount := lock.1, freewheelLimit := limit.1, bandLow := low.1, bandHigh := high.1,
     settleSpan := span.1 },
    offset.2 || lock.2 || limit.2 || low.2 || high.2 || span.2)

/-- A changed label offset, in any state but SILENT, takes the tracker to ACQUIRING with no reference word, and the
word timeout runs from the change (02 R37 effect 1). -/
def Tracker.offsetChanged (now : Stamp) (t : Tracker) : Tracker :=
  match t.state with
  | .silent => t
  | _ =>
    { t with
      state := .acquiring, run := 0, reference := none, acqIntervals := [], acqRepeats := 0, history := [],
      candidate := none, speed := 0, heading := .still, timeoutFrom := some now }

/-- The effects of a SET_TRACKING on the tracker's state, in the order of 02 R37; the class follows when the change is
concluded. The second component says that the tracker parked from FREEWHEEL. -/
def Tracker.setTracking (r : Rate) (now : Stamp) (s' : TrackSettings) (t : Tracker) : Tracker × Bool :=
  let t1 := { t with settings := s' }
  let t2 := if s'.offset = t.settings.offset then t1 else t1.offsetChanged now
  if s'.freewheelLimit ≠ t.settings.freewheelLimit ∧ t2.state = .freewheel ∧ t2.limitReached r now then
    (t2.toParked, true)
  else (t2, false)

end Sys2Proof.Machine
end

