-- ==== Sys2Proof/Machine/Channels.lean ====
section
/-! DEFINITION. The channel scheduler (04, 05): acceptance, event points, the schedule, expansion, firing, passing,
reversion, rebuilds, and what settings changes and cue edits do to a channel. Each operation works on one channel and
gives out its notices and faults in order. -/

namespace Sys2Proof.Machine

/-- What a channel reads besides its own state: its number, the active bank's records, the look-ahead window, the
video-present flag and the counter. -/
structure ChannelEnv where
  no : Nat
  cues : List Cue
  window : Nat
  present : Bool
  now : Stamp
  rate : Rate
  deriving DecidableEq, Repr

/-! ### Acceptance (04 R63) -/

/-- The acceptance test: the tag and the filter tag agree in the bits of the mask (04 R63). -/
def Channel.acceptsTag (tag : Half) (c : Channel) : Bool :=
  decide (tag &&& c.settings.filterMask = c.settings.filterTag &&& c.settings.filterMask)

/-- Whether the channel accepts the cue of a key as its record now stands (04 R63). -/
def Channel.acceptsKey (cues : List Cue) (k : Key) (c : Channel) : Bool :=
  match findCue cues k with
  | none => false
  | some cue => c.acceptsTag cue.tag

/-! ### Event points (05 R73) -/

/-- The beeps of a cue: BEEP k at I − (n − k + 1)·BI·100 (05 R73). -/
def beepPoints (inPt n interval : Nat) : List (EventKind × Nat) :=
  (List.range n).map fun i => (.beep (i + 1), inPt - (n - i) * interval * 100)

/-- The events of a cue on a channel with a text lead (05 R73); a point below 0 is taken as 0. -/
def eventPoints (c : Cue) (textLead : Nat) : List (EventKind × Nat) :=
  (if c.text.isSome then [(EventKind.textShow, c.inPt - textLead * 100)] else [])
    ++ (if 0 < c.streamer then [(EventKind.streamerStart, c.inPt - c.streamer * 100)] else [])
    ++ beepPoints c.inPt c.beeps c.interval ++ [(EventKind.lineIn, c.inPt)]
    ++ (if c.text.isSome then [(EventKind.textClear, c.outPt)] else []) ++ [(EventKind.lineOut, c.outPt)]

/-- The least of some points and a first one. -/
def leastPoint (first : Nat) (points : List Nat) : Nat := points.foldl min first

/-- The earliest point E of a cue from its record and a text lead (05 R73). -/
def earliestPoint (c : Cue) (textLead : Nat) : Nat := leastPoint c.inPt ((eventPoints c textLead).map Prod.snd)

/-- E of a QUEUED or ACTIVE cue, from the points held in its entries and copy (05 R73, log 15). -/
def earliestHeld (k : Key) (copy : CueCopy) (schedule : List Entry) : Nat :=
  leastPoint copy.inPt
    (((schedule.filter fun e => decide (e.key = k)).map Entry.point)
      ++ (if copy.text.isSome then [copy.inPt - copy.textLead * 100] else [])
      ++ (if 0 < copy.streamer then [copy.inPt - copy.streamer * 100] else []))

/-! ### The schedule (05 R74) -/

/-- The order of kinds at one point (05 R74). -/
def EventKind.rank (k : EventKind) : Nat :=
  match k with
  | .textClear => 1
  | .lineOut => 2
  | .textShow => 3
  | .streamerStart => 4
  | .beep _ => 5
  | .lineIn => 6

/-- The index of a BEEP, 0 for other kinds. -/
def EventKind.beepIndex (k : EventKind) : Nat :=
  match k with
  | .beep i => i
  | _ => 0

/-- Schedule order: point, kind, in point, key, beep index (05 R74). -/
def Entry.before (a b : Entry) : Bool :=
  if a.point ≠ b.point then decide (a.point < b.point)
  else if a.kind.rank ≠ b.kind.rank then decide (a.kind.rank < b.kind.rank)
  else if a.cueIn ≠ b.cueIn then decide (a.cueIn < b.cueIn)
  else if a.key ≠ b.key then a.key.before b.key
  else decide (a.kind.beepIndex < b.kind.beepIndex)

/-- The entries of a cue on a channel. -/
def entriesOf (c : Cue) (textLead : Nat) : List Entry :=
  (eventPoints c textLead).map fun e => { kind := e.1, point := e.2, key := c.key, cueIn := c.inPt }

/-- Entries placed at their positions in schedule order. -/
def placeEntries (es schedule : List Entry) : List Entry := es.foldl (fun acc e => insertBy Entry.before e acc) schedule

/-- The schedule without a cue's entries. -/
def dropEntries (k : Key) (schedule : List Entry) : List Entry := schedule.filter fun e => decide (e.key ≠ k)

/-! ### The status map (04 R62, 05 R72) -/

/-- The map entry of a key. -/
def Channel.entryOf (k : Key) (c : Channel) : Option MapEntry := c.map.find? fun m => decide (m.key = k)

/-- The map with a key's status and copy replaced. -/
def setStatus (k : Key) (st : CueStatus) (copy : Option CueCopy) (map : List MapEntry) : List MapEntry :=
  map.map fun m => if m.key = k then { m with status := st, copy := copy } else m

/-- The map without a key. -/
def dropStatus (k : Key) (map : List MapEntry) : List MapEntry := map.filter fun m => decide (m.key ≠ k)

/-- Whether a status is ACTIVE. -/
def CueStatus.isActive (s : CueStatus) : Bool := decide (s = .active)

/-- The keys of a map whose entries meet a test, in ascending key order. -/
def keysWhere (test : MapEntry → Bool) (map : List MapEntry) : List Key :=
  sortBy Key.before ((map.filter test).map MapEntry.key)

/-- A cue passes: its entries leave the schedule, its copy is discarded, its status is PASSED with the reason (05,
Passing). -/
def Channel.pass (k : Key) (reason : PassReason) (c : Channel) : Channel :=
  { c with map := setStatus k (.passed reason) none c.map, schedule := dropEntries k c.schedule }

/-- A cue that stops being ACTIVE leaves the map when the channel does not accept it (04 R67, 03 R57; log 18). -/
def Channel.settleMembership (cues : List Cue) (k : Key) (c : Channel) : Channel :=
  if c.acceptsKey cues k then c else { c with map := dropStatus k c.map }

/-- The CUE_PASSED notice of a passing (05 R93). -/
def passedNotice (env : ChannelEnv) (k : Key) (reason : PassReason) (p : Nat) : Emit :=
  .notice (.cuePassed env.no k reason p)

/-- Passes cues one after another for one reason that is reported (05 R93). -/
def Channel.passReported (env : ChannelEnv) (p : Nat) (reason : PassReason) (ks : List Key) (c : Channel) :
    Channel × List Emit :=
  ks.foldl (fun acc k => (acc.1.pass k reason, acc.2 ++ [passedNotice env k reason p])) (c, [])

/-- Passes cues one after another for SKIPPED, with no notice (05 R83, R84). -/
def Channel.passSkipped (ks : List Key) (c : Channel) : Channel := ks.foldl (fun c k => c.pass k .skipped) c

/-- Each ACTIVE cue becomes PASSED with reason INTERRUPTED, in ascending key order, with its notice; one the channel no
longer accepts then leaves the map (05 R78 step 1, R85, 04 R67). -/
def Channel.interrupt (env : ChannelEnv) (p : Nat) (c : Channel) : Channel × List Emit :=
  (keysWhere (fun m => m.status.isActive) c.map).foldl
    (fun acc k =>
      ((acc.1.pass k .interrupted).settleMembership env.cues k, acc.2 ++ [passedNotice env k .interrupted p]))
    (c, [])

/-- The status a cue is given by its earliest point: WAITING ahead of P, PASSED (SKIPPED) otherwise (05 R78). -/
def classified (e p : Nat) : CueStatus := if p < e then .waiting else .passed .skipped

/-- A fresh map entry of a cue (05 R78 step 4, 04 R66 step 4). -/
def freshEntry (cue : Cue) (textLead p : Nat) : MapEntry :=
  { key := cue.key, status := classified (earliestPoint cue textLead) p, copy := none }

/-! ### Expansion (05 R76) -/

/-- A cue that waits, with its earliest point. -/
structure Candidate where
  cue : Cue
  earliest : Nat
  deriving DecidableEq, Repr

/-- The order of an expansion pass: ascending E, then in point, then key (05 R76). -/
def Candidate.before (a b : Candidate) : Bool :=
  if a.earliest ≠ b.earliest then decide (a.earliest < b.earliest) else a.cue.before b.cue

/-- The WAITING cues of a channel that meet both conditions of 05 R76, in the order of the pass. -/
def Channel.candidates (env : ChannelEnv) (p : Nat) (c : Channel) : List Candidate :=
  sortBy Candidate.before
    ((c.map.filter fun m => decide (m.status = .waiting)).filterMap fun m =>
      match findCue env.cues m.key with
      | none => none
      | some cue =>
        let e := earliestPoint cue c.settings.textLead
        if e ≤ p + env.window * 100 ∧ p < cue.outPt then some { cue, earliest := e } else none)

/-- The expansion copy of a cue (05 R72). -/
def copyOf (cue : Cue) (textLead : Nat) : CueCopy :=
  { inPt := cue.inPt, outPt := cue.outPt, streamer := cue.streamer, punch := cue.punch, text := cue.text, textLead }

/-- A cue becomes QUEUED with all its events in the schedule (05 R76). -/
def Channel.queueCue (cue : Cue) (c : Channel) : Channel :=
  { c with
    map := setStatus cue.key .queued (some (copyOf cue c.settings.textLead)) c.map,
    schedule := placeEntries (entriesOf cue c.settings.textLead) c.schedule }

/-- The pass takes cues in order until one does not fit the 48 entries (05 R76). -/
def Channel.takeIn : List Candidate → Channel → Channel
  | [], c => c
  | x :: rest, c =>
    if c.schedule.length + (eventPoints x.cue c.settings.textLead).length ≤ 48 then
      Channel.takeIn rest (c.queueCue x.cue)
    else c

/-- An expansion pass (05 R76). -/
def Channel.expand (env : ChannelEnv) (p : Nat) (c : Channel) : Channel := Channel.takeIn (c.candidates env p) c

/-! ### Rebuilds (05 R78, 04 R66, R68, R69) -/

/-- The map built from every cue of the active bank that the channel accepts (05 R78 step 4). -/
def Channel.freshMap (env : ChannelEnv) (p : Nat) (c : Channel) : List MapEntry :=
  (env.cues.filter fun cue => c.acceptsTag cue.tag).map fun cue => freshEntry cue c.settings.textLead p

/-- A rebuild: interrupt, withdraw, empty the schedule, build the map, expand (05 R78). -/
def Channel.rebuild (env : ChannelEnv) (p : Nat) (c : Channel) : Channel × List Emit :=
  let i := c.interrupt env p
  let c1 := { i.1.withdraw with schedule := [] }
  ({ c1 with map := c1.freshMap env p }.expand env p, i.2)

/-- The number of ACTIVE cues of a channel. -/
def Channel.activeCount (c : Channel) : Nat := c.map.countP fun m => m.status.isActive

/-- A channel rebuild: ACTIVE cues are kept with their entries, every other cue is given a fresh status under the new
settings, and the expansion runs (04 R66). -/
def Channel.rederive (env : ChannelEnv) (p : Nat) (c : Channel) : Channel :=
  let kept := c.map.filter fun m => m.status.isActive
  let isKept (k : Key) : Bool := kept.any fun m => decide (m.key = k)
  let fresh := (c.freshMap env p).filter fun m => !isKept m.key
  { c with map := kept ++ fresh, schedule := c.schedule.filter fun e => isKept e.key }.expand env p

/-- A channel is enabled: the map is built and the expansion runs (04 R68). -/
def Channel.enable (env : ChannelEnv) (p : Nat) (c : Channel) : Channel :=
  { c with schedule := [], map := c.freshMap env p }.expand env p

/-- A channel is disabled: ACTIVE cues are passed with their notices, the outputs withdrawn, schedule and map discarded
(04 R69). -/
def Channel.disable (env : ChannelEnv) (p : Nat) (c : Channel) : Channel × List Emit :=
  let i := c.interrupt env p
  ({ i.1.withdraw with schedule := [], map := [] }, i.2)

/-! ### Firing (05 R79, R80, R92) -/

/-- The LINE notice of a LINE_IN or LINE_OUT (05 R92). -/
def lineNotice (env : ChannelEnv) (e : Entry) (p : Nat) : List Emit :=
  match e.kind with
  | .lineIn => [.notice (.line env.no e.key false e.point p)]
  | .lineOut => [.notice (.line env.no e.key true e.point p)]
  | _ => []

/-- One entry fires: it leaves the schedule, is handed to the three output blocks, and changes the cue's status (05
R79, R80). -/
def Channel.fire (env : ChannelEnv) (p : Nat) (e : Entry) (c : Channel) : Channel × List Emit :=
  let c0 := { c with schedule := c.schedule.erase e }
  match c.entryOf e.key with
  | none => (c0, [])
  | some m =>
    let ev : FiredEvent :=
      { kind := e.kind, key := e.key, first := decide (m.status = .queued), point := e.point, copy := m.copy }
    let c1 := c0.present env.present env.now ev
    let c2 :=
      match e.kind with
      | .lineOut => { c1 with map := setStatus e.key .done none c1.map }.settleMembership env.cues e.key
      | _ => { c1 with map := setStatus e.key .active m.copy c1.map }
    (c2, lineNotice env e p)

/-- The settled firing of an advance: every entry at or before the new P, in schedule order (05 R80). -/
def Channel.fireCrossed (env : ChannelEnv) (p : Nat) (c : Channel) : Channel × List Emit :=
  (c.schedule.filter fun e => decide (e.point ≤ p)).foldl
    (fun acc e => let f := acc.1.fire env p e; (f.1, acc.2 ++ f.2)) (c, [])

/-! ### Passing (05 R81 to R85) -/

/-- The unsettled crossing: QUEUED cues with an entry at or before the new P are passed for SETTLE (05 R81). -/
def Channel.passForSettle (env : ChannelEnv) (p : Nat) (c : Channel) : Channel × List Emit :=
  c.passReported env p .settle
    (keysWhere
      (fun m =>
        decide (m.status = .queued) && c.schedule.any fun e => decide (e.key = m.key) && decide (e.point ≤ p))
      c.map)

/-- The order of passings for want of room: ascending E, then key (05 R82). -/
def Candidate.beforeByKey (a b : Candidate) : Bool :=
  if a.earliest ≠ b.earliest then decide (a.earliest < b.earliest) else a.cue.key.before b.cue.key

/-- Passing for want of room: WAITING cues whose earliest point is crossed in PLAY record SCHEDULE_OVERRUN and are
passed for SCHEDULE_FULL (05 R82). -/
def Channel.passForRoom (env : ChannelEnv) (p : Nat) (c : Channel) : Channel × List Emit :=
  let crossed :=
    sortBy Candidate.beforeByKey
      ((c.map.filter fun m => decide (m.status = .waiting)).filterMap fun m =>
        match findCue env.cues m.key with
        | none => none
        | some cue =>
          let e := earliestPoint cue c.settings.textLead
          if e ≤ p then some { cue, earliest := e } else none)
  crossed.foldl
    (fun acc x =>
      (acc.1.pass x.cue.key .scheduleFull,
        acc.2
          ++ [.fault
                { kind := .scheduleOverrun, position := some p, channel := some env.no, key := some x.cue.key,
                  detail := acc.1.schedule.length },
              passedNotice env x.cue.key .scheduleFull p]))
    (c, [])

/-- The out point of a WAITING or QUEUED cue: from its copy when QUEUED, from its record when WAITING (05 R83). -/
def outPointOf (env : ChannelEnv) (m : MapEntry) : Option Nat :=
  match m.status, m.copy with
  | .queued, some x => some x.outPt
  | .waiting, _ => (findCue env.cues m.key).map Cue.outPt
  | _, _ => none

/-- The earliest point of a WAITING or QUEUED cue (05 R73). -/
def Channel.earliestOf (env : ChannelEnv) (m : MapEntry) (c : Channel) : Option Nat :=
  match m.status, m.copy with
  | .queued, some x => some (earliestHeld m.key x c.schedule)
  | .active, some x => some (earliestHeld m.key x c.schedule)
  | _, _ => (findCue env.cues m.key).map fun cue => earliestPoint cue c.settings.textLead

/-- Outside PLAY, WAITING and QUEUED cues whose out point is overtaken are passed for SKIPPED (05 R83). -/
def Channel.passOvertaken (env : ChannelEnv) (p : Nat) (c : Channel) : Channel :=
  c.passSkipped
    (keysWhere (fun m => match outPointOf env m with | some o => decide (o ≤ p) | none => false) c.map)

/-- The class enters PLAY: WAITING and QUEUED cues with E < P are joined late, or skipped when their out point is also
behind (05 R84). -/
def Channel.joinPlay (env : ChannelEnv) (p : Nat) (c : Channel) : Channel × List Emit :=
  let late :=
    keysWhere
      (fun m =>
        (decide (m.status = .waiting) || decide (m.status = .queued))
          && (match c.earliestOf env m with | some e => decide (e < p) | none => false))
      c.map
  late.foldl
    (fun acc k =>
      let out := (acc.1.entryOf k).bind (outPointOf env)
      if (match out with | some o => decide (o ≤ p) | none => false) then (acc.1.pass k .skipped, acc.2)
      else (acc.1.pass k .joinedLate, acc.2 ++ [passedNotice env k .joinedLate p]))
    (c, [])

/-- The class leaves PLAY: ACTIVE cues are interrupted and the channel withdrawn (05 R85). -/
def Channel.leavePlay (env : ChannelEnv) (p : Nat) (c : Channel) : Channel × List Emit :=
  let i := c.interrupt env p
  (i.1.withdraw, i.2)

/-! ### Moving back (05 R87) -/

/-- Reversion: DONE and PASSED cues whose earliest point lies beyond the new P become WAITING (05 R87). -/
def Channel.revert (env : ChannelEnv) (p : Nat) (c : Channel) : Channel :=
  { c with
    map :=
      c.map.map fun m =>
        match m.status with
        | .done | .passed _ =>
          match findCue env.cues m.key with
          | none => m
          | some cue =>
            if p < earliestPoint cue c.settings.textLead then { m with status := .waiting, copy := none } else m
        | _ => m }

/-! ### One report, one channel (05 R88) -/

/-- A channel's seven steps for a play-head advance; `step0` makes the step 0 (05 R88). -/
def Channel.takeAdvance (env : ChannelEnv) (snap : Snap) (old new : Nat) (step0 : Bool) (c : Channel) :
    Channel × List Emit :=
  let fwd := decide (old < new) && !step0
  let c1 := c.revert env new
  let r2 : Channel × List Emit :=
    if fwd && decide (snap.cls = .play) then
      let a := if snap.settled then c1.fireCrossed env new else c1.passForSettle env new
      let b := a.1.passForRoom env new
      (b.1, a.2 ++ b.2)
    else if fwd then (c1.passOvertaken env new, [])
    else (c1, [])
  (r2.1.expand env new, r2.2)

/-- What an enabled channel does at each tracker report (05 R88). -/
def Channel.takeReport (env : ChannelEnv) (rep : Report) (c : Channel) : Channel × List Emit :=
  if c.settings.enabled then
    match rep.kind with
    | .lock => c.rebuild env rep.snap.head
    | .relocate _ new => c.rebuild env new
    | .classChange old new =>
      if new = .play then c.joinPlay env rep.snap.head
      else if old = .play then c.leavePlay env rep.snap.head
      else (c, [])
    | .settle => (c, [])
    | .advance old new step0 => c.takeAdvance env rep.snap old new step0
  else (c, [])

/-! ### Edits from UPDATE_CUE (03 R57, 05 R90) -/

/-- What an edit of a cue does on a channel, by its standing before and after (03 R57). `env.cues` holds the new
record. A cue that was left ACTIVE in the map though not accepted (05 R72), and that the new tag makes accepted again, is
taken by the row for a cue ACTIVE before and accepted after: it stays as it is, and no expansion runs. That is the model's
choice (log 47, DESIGN CHOICE). -/
def Channel.takeEdit (env : ChannelEnv) (p : Nat) (old new : Cue) (c : Channel) : Channel :=
  if !c.settings.enabled then c
  else
    let k := new.key
    let inMap := c.entryOf k
    if c.acceptsTag new.tag then
      match inMap with
      | none => { c with map := c.map ++ [freshEntry new c.settings.textLead p] }.expand env p
      | some m =>
        match m.status with
        | .waiting | .queued =>
          { c with
            map := setStatus k (classified (earliestPoint new c.settings.textLead) p) none c.map,
            schedule := dropEntries k c.schedule }.expand env p
        | _ => c
    else if c.acceptsTag old.tag then
      match inMap with
      | none => c
      | some m =>
        if m.status.isActive then c
        else { c with map := dropStatus k c.map, schedule := dropEntries k c.schedule }
    else c

/-- Whether a cue is ACTIVE on a channel. -/
def Channel.isActive (k : Key) (c : Channel) : Bool :=
  match c.entryOf k with
  | none => false
  | some m => m.status.isActive

/-! ### Settings (04 R65) -/

/-- The settings after a SET_CHANNEL, with whether a value was clamped; none is RANGE (04 R65 steps 2 to 4). -/
def ChannelSettings.update (x : ChannelItems) (s : ChannelSettings) : Option (ChannelSettings × Bool) :=
  match testField yesNo x.enabled, testField yesNo x.toneMode with
  | some enabled, some steady =>
    let lead := clampField 0 250 s.textLead (x.textLead.map BitVec.toNat)
    let lane := clampField 0 7 s.lane (x.lane.map BitVec.toNat)
    let colour := clampField 0 7 s.colour (x.colour.map BitVec.toNat)
    let pitch := clampField 300 3000 s.pitch (x.pitch.map BitVec.toNat)
    let level := clampField 0 15 s.level (x.level.map BitVec.toNat)
    let beep := clampField 20 400 s.beepLength (x.beepLength.map BitVec.toNat)
    some
      ({ enabled := enabled.getD s.enabled, filterTag := x.filterTag.getD s.filterTag,
         filterMask := x.filterMask.getD s.filterMask, textLead := lead.1, lane := lane.1, colour := colour.1,
         steady := steady.getD s.steady, pitch := pitch.1, level := level.1, beepLength := beep.1 },
        lead.2 || lane.2 || colour.2 || pitch.2 || level.2 || beep.2)
  | _, _ => none

/-- Whether a change of settings makes a channel rebuild (04 R66). -/
def ChannelSettings.rederives (a b : ChannelSettings) : Bool :=
  decide (a.filterTag ≠ b.filterTag) || decide (a.filterMask ≠ b.filterMask) || decide (a.textLead ≠ b.textLead)

/-- A change of tone mode puts the tone unit in IDLE at once (06 R99). -/
def Channel.changeToneMode (old : ChannelSettings) (c : Channel) : Channel :=
  if old.steady = c.settings.steady then c else { c with tone := Tone.idle }

/-- The changes of a SET_CHANNEL handed on: enabling, disabling or channel rebuild, then the tone mode (04 R65 step 5).
The last component is the count of ACTIVE cues kept (04 R66). -/
def Channel.changeSettings (env : ChannelEnv) (p : Nat) (s' : ChannelSettings) (c : Channel) :
    (Channel × List Emit) × Nat :=
  let c1 := { c with settings := s' }
  let r : (Channel × List Emit) × Nat :=
    if !c.settings.enabled && s'.enabled then ((c1.enable env p, []), 0)
    else if c.settings.enabled && !s'.enabled then (c1.disable env p, 0)
    else if s'.enabled && c.settings.rederives s' then ((c1.rederive env p, []), c1.activeCount)
    else ((c1, []), 0)
  ((r.1.1.changeToneMode c.settings, r.1.2), r.2)

/-- The environment of channel `n` in a state. -/
def State.channelEnv (s : State) (n : Nat) : ChannelEnv :=
  { no := n, cues := s.cues, window := s.window, present := s.video.present, now := s.counter, rate := s.rate }

end Sys2Proof.Machine
end

