-- ==== Sys2Proof/Machine/TakeTable.lean ====
section
/-! DEFINITION. The tables a take rests on: the slot table (08 R146, R147), the take log with its reservations (08 R139
to R143), take and track windows (07 R118), arming (07 R119 to R121), and the freeing of an ARMED entry (07 R133). -/

namespace Sys2Proof.Machine

/-! ### The slot table (08 R146, R147) -/

/-- Whether a slot is the one of a key and a track. -/
def Slot.isFor (k : Key) (track : Nat) (x : Slot) : Bool := decide (x.key = k) && decide (x.track = track)

/-- The slot of a key and a track (08 R146). -/
def findSlot (slots : List Slot) (k : Key) (track : Nat) : Option Slot := slots.find? (Slot.isFor k track)

/-- Whether a slot is PROVISIONAL. -/
def Slot.isProvisional (x : Slot) : Bool :=
  match x.firmness with
  | .firm => false
  | .provisional _ => true

/-- A slot is made firm; one already FIRM is left as it is (08 R147). -/
def makeFirm (k : Key) (track : Nat) (slots : List Slot) : List Slot :=
  slots.map fun x => if x.isFor k track then { x with firmness := .firm } else x

/-- The PROVISIONAL slot of a key and track is discarded; a FIRM one stays (08 R147). -/
def dropProvisional (k : Key) (track : Nat) (slots : List Slot) : List Slot :=
  slots.filter fun x => !(x.isFor k track && x.isProvisional)

/-- The span of the PROVISIONAL slot of a key and track is replaced (08 R147, 07 R134). -/
def replaceSpan (k : Key) (track lo hi : Nat) (slots : List Slot) : List Slot :=
  slots.map fun x => if x.isFor k track && x.isProvisional then { x with base := lo, fin := hi } else x

/-- Each track with no slot for the key receives a PROVISIONAL one (08 R147, 07 R120 step 4). -/
def proposeSlots (k : Key) (tracks : List Nat) (lo hi owner : Nat) (slots : List Slot) : List Slot :=
  tracks.foldl
    (fun acc t =>
      match findSlot acc k t with
      | some _ => acc
      | none => acc ++ [{ key := k, track := t, base := lo, fin := hi, firmness := .provisional owner }])
    slots

/-! ### The take log (08 R139 to R144) -/

/-- The records whose collected flag is set. -/
def TakeLog.collected (l : TakeLog) : Nat := l.records.countP fun r => r.collected

/-- Whether all 256 places are filled (08 R142). -/
def TakeLog.isFull (l : TakeLog) : Bool := decide (256 ≤ l.records.length + l.reservations)

/-- The log without its oldest collected record (08 R143). -/
def TakeLog.makeRoom (l : TakeLog) : TakeLog := { l with records := l.records.eraseP fun r => r.collected }

/-- A reservation, with room made when the places are full (08 R142, R143). -/
def TakeLog.reserve (l : TakeLog) : TakeLog :=
  let l1 := if l.isFull then l.makeRoom else l
  { l1 with reservations := l1.reservations + 1 }

/-- A reservation is released (08 R142). -/
def TakeLog.release (l : TakeLog) : TakeLog := { l with reservations := l.reservations - 1 }

/-- A record is written into a reservation and gets the next take number (08 R141). -/
def TakeLog.write (rec : TakeRecord) (l : TakeLog) : TakeLog :=
  { records := l.records ++ [{ rec with number := l.nextNumber, collected := false }],
    reservations := l.reservations - 1,
    nextNumber := if l.nextNumber = 65535 then 1 else l.nextNumber + 1 }

/-! ### The armed-take table (07 R115, R116) -/

/-- The entry in use at a number. -/
def Takes.entryAt (t : Takes) (i : Nat) : Option TakeEntry := (t.entries[i]?).getD none

/-- The entry in use at a number when it is OPEN. -/
def Takes.openAt (t : Takes) (i : Nat) : Option TakeEntry := (t.entryAt i).filter fun e => e.opened

/-- The entry in use at a number when it is ARMED. -/
def Takes.armedAt (t : Takes) (i : Nat) : Option TakeEntry := (t.entryAt i).filter fun e => !e.opened

/-- An entry replaced or freed. -/
def Takes.setEntry (i : Nat) (e : Option TakeEntry) (t : Takes) : Takes := { t with entries := t.entries.set i e }

/-- The entries in use. -/
def Takes.inUse (t : Takes) : List TakeEntry := t.entries.filterMap id

/-- The count of OPEN entries (07 R115). -/
def Takes.openCount (t : Takes) : Nat := t.inUse.countP fun e => e.opened

/-- The count of ARMED entries (07 R115). -/
def Takes.armedCount (t : Takes) : Nat := t.inUse.countP fun e => !e.opened

/-- The numbers of the table's entries. -/
def entryNumbers : List Nat := List.range 4

/-- Whether a track is held by an entry in use (07 R115). -/
def Takes.holds (t : Takes) (track : Nat) : Bool :=
  t.inUse.any fun e => e.items.any fun x => decide (x.track = track)

/-! ### Windows (07 R118) -/

/-- The start of a take window (07 R118). -/
def windowStart (inPt lead : Nat) : Nat := inPt - lead * 100

/-- The end of a take window (07 R118). -/
def windowEnd (r : Rate) (outPt tail : Nat) : Nat := clampDay r (outPt + tail * 100)

/-- A track's window in its slot, with the TRUNCATED flag: set when the track window is shorter than the take window
(07 R118). -/
def trackWindow (lo hi : Nat) (slot : Option Slot) : Nat × Nat × Bool :=
  match slot with
  | none => (lo, hi, false)
  | some x => (max lo x.base, min hi x.fin, decide (lo < x.base) || decide (x.fin < hi))

/-- A track's items for a take window: gate WAIT, both positions absent, GUARDED clear (07 R116). -/
def freshItem (slots : List Slot) (k : Key) (lo hi track : Nat) : TrackItem :=
  let w := trackWindow lo hi (findSlot slots k track)
  { track, winStart := w.1, winEnd := w.2.1, gate := .wait, firstOpen := none, lastClose := none, truncated := w.2.2,
    guarded := false }

/-! ### Arming (07 R119 to R121) -/

/-- Who arms: the host with its deadline, or the pass with its number (07 R120, R121). -/
inductive ArmSource where
  | host
  | pass
  deriving DecidableEq, Repr

/-- The track list of an arm: the subset when present, else the cue's whole track set; none is RANGE (07 R119). -/
def armTracks (cue : Cue) (subset : Option Half) : Option (List Nat) :=
  match subset with
  | none => if cue.tracks = 0 then none else some (tracksOf cue.tracks)
  | some v => if v = 0 ∨ v &&& ~~~cue.tracks ≠ 0 then none else some (tracksOf v)

/-- The tracks of a list that have no slot for the key (07 R119). -/
def slotsNeeded (slots : List Slot) (k : Key) (tracks : List Nat) : Nat :=
  tracks.countP fun t => (findSlot slots k t).isNone

/-- The tests of 07 R119 for a key in range, in their order: the cue, the track list and the entry number. -/
def armTest (k : Key) (subset : Option Half) (s : State) : Except ResultCode (Cue × List Nat × Nat) :=
  match findCue s.cues k with
  | none => .error .unknownKey
  | some cue =>
    match armTracks cue subset with
    | none => .error .range
    | some tracks =>
      if tracks.any s.takes.holds then .error .trackBusy
      else
        match lowestFree 0 s.takes.entries with
        | none => .error .full
        | some i =>
          if 512 < s.slots.length + slotsNeeded s.slots k tracks then .error .slotFull
          else if s.log.isFull && decide (s.log.collected = 0) then .error .logFull
          else .ok (cue, tracks, i)

/-- The steps of an arm that passed its tests (07 R120, R121). -/
def armEntry (src : ArmSource) (cue : Cue) (tracks : List Nat) (i : Nat) (s : State) : State :=
  let lo := windowStart cue.inPt s.takes.punchLead
  let hi := windowEnd s.rate cue.outPt s.takes.punchTail
  let slots := proposeSlots cue.key tracks lo hi i s.slots
  let e : TakeEntry :=
    { key := cue.key, opened := false,
      origin := match src with | .host => .host | .pass => .pass,
      passNumber := match src with | .host => 0 | .pass => s.pass.number,
      lead := s.takes.punchLead, tail := s.takes.punchTail, winStart := lo, winEnd := hi,
      items := tracks.map (freshItem slots cue.key lo hi),
      deadline := match src with | .host => some (deadlineAfter s.counter s.takes.armWindow) | .pass => none,
      disarmAfter := false }
  { s with takes := s.takes.setEntry i (some e), slots := slots, log := s.log.reserve }

/-! ### Freeing an ARMED entry (07 R133) -/

/-- Why an ARMED entry is freed (07 R133). -/
inductive FreeCause where
  | disarm
  | lapse (reason : LapseReason)
  deriving DecidableEq, Repr

/-- The pass controller is told that its arm was freed: the pass arm becomes absent, and DISARM clears the record flag
(09 R163). With no pass in hand, or another arm, nothing changes. -/
def passArmFreed (i : Nat) (cause : FreeCause) (s : State) : State :=
  match s.pass.inHand with
  | none => s
  | some h =>
    if h.arm = some i then
      { s with
        pass := { s.pass with
          inHand := some { h with arm := none, record := if cause = .disarm then false else h.record } } }
    else s

/-- An ARMED entry becomes free: its reservation released, its provisional slots discarded, its tracks let go (07
R133). -/
def releaseEntry (i : Nat) (e : TakeEntry) (s : State) : State :=
  { s with
    takes := s.takes.setEntry i none, log := s.log.release,
    slots := e.items.foldl (fun acc x => dropProvisional e.key x.track acc) s.slots }

/-- An ARMED entry is freed, and ARM_LAPSED is offered for every cause but DISARM; a pass arm's freeing reaches the pass
controller (07 R133, 09 R163; log 24). -/
def freeArmed (cause : FreeCause) (i : Nat) (s : State) : State :=
  match s.takes.armedAt i with
  | none => s
  | some e =>
    let s1 := releaseEntry i e s
    let s2 :=
      match cause with
      | .disarm => s1
      | .lapse reason => offer (.armLapsed i e.key e.origin reason) s1
    if e.origin = .pass then passArmFreed i cause s2 else s2

end Sys2Proof.Machine
end

