-- ==== Sys2Proof/Machine/BankSwitch.lean ====
section
/-! DEFINITION. The bank switch (03 R52 to R54): the safe point and the completion. -/

namespace Sys2Proof.Machine

/-- The notice the tracker offers with a report (02 R35). -/
def Report.notice (rep : Report) : Option Notice :=
  match rep.kind with
  | .lock => some (.lock rep.snap.head rep.snap.cls)
  | .relocate old new => some (.relocate old new)
  | .classChange _ new => some (.motion new rep.snap.head rep.snap.speed)
  | _ => none

/-- Offers the notice of a report (02 R35). -/
def offerReport (rep : Report) (s : State) : State :=
  match rep.notice with
  | none => s
  | some n => offer n s

/-- The safe point (03 R53). -/
def State.safePoint (s : State) : Bool :=
  decide (s.tracker.cls ≠ .play) && decide (s.takes.openCount = 0) && decide (s.pass.state = .idle)

/-- An enabled channel rebuilds against the play head as it stands (05 R78, R89, R90). -/
def rebuildChannel (s : State) (n : Nat) : State :=
  onChannel n
    (fun c => if c.settings.enabled then c.rebuild (s.channelEnv n) s.tracker.head else (c, [])) s

/-- The tracker goes to SILENT on a change of the active rate (02 R38). By the safe point the class was not PLAY, no
take is OPEN, the pass controller is IDLE and no switch is pending, so the class change to NONE moves no other block:
its report is its notice (log 21). A switch that completes while a change of the tracker is still being delivered offers
that notice at once, ahead of the reports of that change that are still to come (DESIGN CHOICE, log 42). -/
def silenceForSwitch (s : State) : State :=
  let c := concludeChange s.rate s.tracker s.tracker.toSilent .none
  c.2.foldl (fun s rep => offerReport rep s) { s with tracker := c.1 }

/-- Step 1 of a switch: the roles change and the pending flag clears (03 R54). -/
def swapBanks (s : State) : State :=
  { s with table := { s.table with switchPending := false, active := s.table.active.other } }

/-- Step 2 of a switch: every arm lapses with reason BANK (03 R54, 07 R133). They lapse, and so offer their notices, in
ascending entry number (DESIGN CHOICE, log 38). -/
def lapseArms (s : State) : State := entryNumbers.foldl (fun s i => freeArmed (.lapse .bank) i s) s

/-- Step 3 of a switch: every channel rebuilds, in the arbiter's order (03 R54; log 5). -/
def rebuildChannels (s : State) : State :=
  let d := s.drawOrder
  (arbitrate d.1 ((List.range 8).map fun n => (Block.channel n, n))).foldl (fun s b => rebuildChannel s b.2) d.2

/-- Step 4 of a switch: at another rate the tracker restarts and the slot table empties (03 R54). -/
def restartAtRate (oldRate : Rate) (s : State) : State :=
  if s.rate = oldRate then s else { silenceForSwitch s with slots := [] }

/-- Step 5 of a switch: the notice of its completion (03 R54). -/
def offerBankDone (oldRate : Rate) (s : State) : State :=
  offer (.bankDone s.table.active s.rate s.cues.length (decide (s.rate ≠ oldRate))) s

/-- The five steps of a bank switch's completion (03 R54). -/
def completeSwitch (s : State) : State :=
  offerBankDone s.rate (restartAtRate s.rate (rebuildChannels (lapseArms (swapBanks s))))

/-- The cue table's test of the safe point while a switch is pending (03 R53). -/
def testSafePoint (s : State) : State := if s.table.switchPending && s.safePoint then completeSwitch s else s

end Sys2Proof.Machine
end

