-- ==== Sys2Proof/Machine/Takes.lean ====
section
/-! DEFINITION. The take controller (07): gate evaluation, openings, closes, edits to an armed cue, its handling of the
tracker's reports, and its RESTART. -/

namespace Sys2Proof.Machine

/-! ### Gates (07 R123, R124) -/

/-- Whether a guard span in force shuts a track at P. -/
def Takes.guardShuts (t : Takes) (track p : Nat) : Bool := t.guards.any fun g => g.shuts track p

/-- Whether the play head lies in a track's window. -/
def TrackItem.inWindow (x : TrackItem) (p : Nat) : Bool := decide (x.winStart ≤ p) && decide (p < x.winEnd)

/-- The condition of a record gate line for a track of an OPEN entry (07 R123). -/
def Takes.gateOn (t : Takes) (cls : MotionClass) (p : Nat) (x : TrackItem) : Bool :=
  decide (cls = .play) && x.inWindow p && !t.guardShuts x.track p

/-- A track's items after an evaluation (07 R124). -/
def Takes.evalItem (t : Takes) (cls : MotionClass) (p : Nat) (x : TrackItem) : TrackItem :=
  let x1 := { x with guarded := x.guarded || (x.inWindow p && t.guardShuts x.track p) }
  if t.gateOn cls p x then
    match x.gate with
    | .opened => x1
    | _ => { x1 with gate := .opened, firstOpen := some (x.firstOpen.getD p) }
  else
    match x.gate with
    | .opened => { x1 with gate := .shut, lastClose := some p }
    | _ => x1

/-- The gate lines of some tracks set to their gate states. -/
def setGateLines (items : List TrackItem) (lines : Half) : Half :=
  items.foldl (fun v x => setLine v x.track (decide (x.gate = .opened))) lines

/-- The gates of one OPEN entry are evaluated; a track's first opening makes its slot firm (07 R123, R124). -/
def evalEntry (cls : MotionClass) (p : Nat) (s : State) (i : Nat) : State :=
  match s.takes.openAt i with
  | none => s
  | some e =>
    let items := e.items.map (s.takes.evalItem cls p)
    let newlyOpen := (e.items.filter fun x => s.takes.gateOn cls p x && decide (x.gate ≠ .opened)
      && x.firstOpen.isNone).map TrackItem.track
    { s with
      takes := { s.takes.setEntry i (some { e with items := items }) with
        gateLines := setGateLines items s.takes.gateLines },
      slots := newlyOpen.foldl (fun acc t => makeFirm e.key t acc) s.slots }

/-- The gates of every OPEN entry are evaluated at P (07 R123). -/
def evalGates (cls : MotionClass) (p : Nat) (s : State) : State := entryNumbers.foldl (evalEntry cls p) s

/-! ### Closing (07 R129) -/

/-- A track shut at a close (07 R129 step 1). -/
def TrackItem.shutAt (pos : Nat) (x : TrackItem) : TrackItem :=
  match x.gate with
  | .opened => { x with gate := .shut, lastClose := some pos }
  | _ => x

/-- A track of a take record, with a copy of its slot as it stands (08 R140). -/
def recordTrack (slots : List Slot) (k : Key) (lo hi : Nat) (x : TrackItem) : RecordTrack :=
  match findSlot slots k x.track with
  | none => { item := x, slotBase := lo, slotFin := hi, slotFirm := false }
  | some y => { item := x, slotBase := y.base, slotFin := y.fin, slotFirm := !y.isProvisional }

/-- The record of a close (07 R129 step 2, 08 R140); the log gives the number. -/
def closeRecord (r : Rate) (slots : List Slot) (status : TakeStatus) (pos : Nat) (e : TakeEntry) : TakeRecord :=
  { number := 0, key := e.key, rate := r, passNumber := e.passNumber, status, winStart := e.winStart,
    winEnd := e.winEnd, closePos := pos, disarmAfter := e.disarmAfter,
    tracks := e.items.map (recordTrack slots e.key e.winStart e.winEnd), collected := false }

/-- The pass controller is told of the close of its take (09 R163): the take result, and the record flag cleared when
disarm-after-close was set. -/
def passTakeClosed (i number : Nat) (status : TakeStatus) (disarm : Bool) (s : State) : State :=
  match s.pass.inHand with
  | none => s
  | some h =>
    if h.arm = some i then
      { s with
        pass := { s.pass with
          inHand := some { h with
            arm := none, result := some (number, status), record := if disarm then false else h.record } } }
    else s

/-- An OPEN entry as its close leaves it for the record: every open gate shut (07 R129 step 1). -/
def TakeEntry.shutAt (pos : Nat) (e : TakeEntry) : TakeEntry := { e with items := e.items.map (TrackItem.shutAt pos) }

/-- Steps 1 to 4 of a close: the gate lines off, the record written into the reservation, unopened provisional slots
discarded, the entry free (07 R129). -/
def writeClose (status : TakeStatus) (pos i : Nat) (e0 : TakeEntry) (s : State) : State :=
  let e := e0.shutAt pos
  let unopened := (e.items.filter fun x => x.firstOpen.isNone).map TrackItem.track
  { s with
    takes := { s.takes.setEntry i none with gateLines := setGateLines e.items s.takes.gateLines },
    log := s.log.write (closeRecord s.rate s.slots status pos e),
    slots := unopened.foldl (fun acc t => dropProvisional e.key t acc) s.slots }

/-- A close of an OPEN entry (07 R129), then its reports to the pass controller and the cue table. -/
def closeEntry (status : TakeStatus) (pos : Nat) (i : Nat) (s : State) : State :=
  match s.takes.openAt i with
  | none => s
  | some e =>
    let number := s.log.nextNumber
    let s1 := writeClose status pos i e s
    let s2 := offer (.take number e.key status pos e.origin e.passNumber e.disarmAfter) s1
    let s3 := if e.origin = .pass then passTakeClosed i number status e.disarmAfter s2 else s2
    testSafePoint s3

/-- Every OPEN entry closes, in ascending entry number: at one report as 07 R128 and R129 say, at an abort of a pass by
the model's choice (07 R130; log 46). -/
def closeAllOpen (status : TakeStatus) (pos : Nat) (s : State) : State :=
  entryNumbers.foldl (fun s i => closeEntry status pos i s) s

/-! ### Openings and completions (07 R122, R127) -/

/-- A forward step from `old` to `new` crosses a position (07 R122). -/
def crosses (old new x : Nat) : Bool := decide (old < x) && decide (x ≤ new)

/-- An ARMED entry whose window start a settled advance in PLAY crosses becomes OPEN and loses its deadline (07
R122). -/
def openCrossed (old new : Nat) (s : State) (i : Nat) : State :=
  match s.takes.armedAt i with
  | none => s
  | some e =>
    if crosses old new e.winStart then
      { s with takes := s.takes.setEntry i (some { e with opened := true, deadline := none }) }
    else s

/-- An OPEN entry whose window end is reached closes COMPLETE (07 R127). -/
def completeReached (new : Nat) (s : State) (i : Nat) : State :=
  match s.takes.openAt i with
  | none => s
  | some e => if e.winEnd ≤ new then closeEntry .complete new i s else s

/-- The take controller's three steps for a play-head advance (07 R135). -/
def takesAdvance (snap : Snap) (old new : Nat) (step0 : Bool) (s : State) : State :=
  let fwd := decide (old < new) && !step0
  let s1 :=
    if fwd && decide (snap.cls = .play) && snap.settled then entryNumbers.foldl (openCrossed old new) s else s
  let s2 := if fwd && decide (snap.cls = .play) then entryNumbers.foldl (completeReached new) s1 else s1
  evalGates snap.cls new s2

/-- What the take controller does at each tracker report (07 R135). -/
def takesReport (rep : Report) (s : State) : State :=
  match rep.kind with
  | .lock => s
  | .relocate old _ => closeAllOpen .broken old s
  | .classChange old new => if old = .play ∧ new ≠ .play then closeAllOpen .broken rep.snap.head s else s
  | .settle => s
  | .advance old new step0 => takesAdvance rep.snap old new step0 s

/-! ### Edits to an armed cue (07 R134) -/

/-- A track of an ARMED entry after its take window was recomputed (07 R134). -/
def TrackItem.rewindow (slots : List Slot) (k : Key) (lo hi : Nat) (x : TrackItem) : TrackItem :=
  let w := trackWindow lo hi (findSlot slots k x.track)
  { x with winStart := w.1, winEnd := w.2.1, truncated := w.2.2 }

/-- An edit of a cue reaches an entry: an ARMED one recomputes its windows, an OPEN one keeps everything (07 R134, 03
R58). -/
def editEntry (cue : Cue) (s : State) (i : Nat) : State :=
  match s.takes.armedAt i with
  | none => s
  | some e =>
    if e.key = cue.key then
      let lo := windowStart cue.inPt e.lead
      let hi := windowEnd s.rate cue.outPt e.tail
      let slots := e.items.foldl (fun acc x => replaceSpan e.key x.track lo hi acc) s.slots
      { s with
        slots := slots,
        takes := s.takes.setEntry i
          (some { e with winStart := lo, winEnd := hi, items := e.items.map (TrackItem.rewindow slots e.key lo hi) }) }
    else s

/-- An edit of a cue reaches the take controller (07 R134). -/
def editTakes (cue : Cue) (s : State) : State := entryNumbers.foldl (editEntry cue) s

/-! ### RESTART (07 R137) -/

/-- At RESTART an OPEN entry closes BROKEN and an ARMED one is freed (07 R137). -/
def restartEntry (s : State) (i : Nat) : State :=
  match s.takes.entryAt i with
  | none => s
  | some e => if e.opened then closeEntry .broken s.tracker.head i s else freeArmed (.lapse .restart) i s

/-- The take controller's RESTART, in ascending entry number (07 R137). -/
def restartTakes (s : State) : State := entryNumbers.foldl restartEntry s

end Sys2Proof.Machine
end

