-- ==== Sys2Proof/Machine/Transport.lean ====
section
/-! DEFINITION. The transport link (09 R168, R169): sending requests, the characters that leave the line, and the
answer line that is gathered. -/

namespace Sys2Proof.Machine

/-! ### Requests (09 R168) -/

/-- The text of a LOC request for the frame of a position: "LOC ", then the label with the label offset removed (09
R168; log 23). -/
def locText (r : Rate) (offset : Int) (p : Nat) : List Byte := [0x4C, 0x4F, 0x43, 0x20] ++ locLabel r offset p

/-- The text of a PLAY request (09 R168). -/
def playText : List Byte := [0x50, 0x4C, 0x41, 0x59]

/-- The text of a STOP request (09 R168). -/
def stopText : List Byte := [0x53, 0x54, 0x4F, 0x50]

/-- The detail code of a transport fault (09 R169). -/
def RequestKind.code (k : RequestKind) : Nat :=
  match k with
  | .loc => 1
  | .play => 2
  | .stop => 3

/-- A request is sent in state IDLE: it becomes the outstanding request, and its line of text with its carriage return
follows the characters already leaving (09 R169). -/
def Transport.launch (req : TransportRequest) (t : Transport) : Transport :=
  { t with outstanding := some { request := req, deadline := none }, line := t.line ++ [req.text ++ [0x0D]] }

/-- A request wanted: sent from IDLE, held as the waiting request otherwise, a newer one replacing it (09 R169). -/
def Transport.send (req : TransportRequest) (t : Transport) : Transport :=
  match t.outstanding with
  | none => t.launch req
  | some _ => { t with waiting := some req }

/-- The outstanding request is answered or expires: the state becomes IDLE and the waiting request is sent at once (09
R169). -/
def Transport.finish (t : Transport) : Transport :=
  match t.waiting with
  | none => { t with outstanding := none }
  | some req => { t with outstanding := none, waiting := none }.launch req

/-- The text at the front of the line has left it with its carriage return; when nothing is left, that carriage return
was the outstanding request's, and its answer falls due 250,000 µs later (09 R169). -/
def Transport.lineSent (now : Stamp) (t : Transport) : Transport :=
  match t.line with
  | [] => t
  | _ :: rest =>
    { t with
      line := rest,
      outstanding :=
        match t.outstanding with
        | some { request, deadline := none } =>
          some { request, deadline := if rest = [] then some (now + 250000) else none }
        | o => o }

/-! ### Answers (09 R168) -/

/-- A character other than the carriage return: a line feed is discarded, any other is gathered; a ninth marks the line
too long (09 R168). -/
def Transport.gather (c : Byte) (t : Transport) : Transport :=
  if c = 0x0A then t else if t.gathered.length ≤ 8 then { t with gathered := t.gathered ++ [c] } else t

/-- What a line says (09 R168). -/
inductive Answer where
  | ok
  | no
  deriving DecidableEq, Repr

/-- A line of "OK" or of "NO"; any other is discarded whole (09 R168). -/
def answerOf (line : List Byte) : Option Answer :=
  if line = [0x4F, 0x4B] then some .ok else if line = [0x4E, 0x4F] then some .no else none

/-- The outstanding request that an answer answers: one whose carriage return has been sent (09 R168, R169). -/
def Transport.awaiting (t : Transport) : Option TransportRequest :=
  match t.outstanding with
  | some { request, deadline := some _ } => some request
  | _ => none

/-- The transport link at RESTART: IDLE, no waiting request, nothing gathered; the characters leaving the line are
finished (09 R168, R171; log 22). -/
def Transport.restart (t : Transport) : Transport := { t with outstanding := none, waiting := none, gathered := [] }

/-- The pass controller sends a request. -/
def sendRequest (req : TransportRequest) (s : State) : State := { s with transport := s.transport.send req }

end Sys2Proof.Machine
end

