-- ==== Sys2Proof/Machine/Pass.lean ====
section
/-! DEFINITION. The pass controller (09): pass points, pass starts, the phases, completion, aborts, queued passes, the
answers to its requests, and its RESTART. -/

namespace Sys2Proof.Machine

/-! ### Pass points (09 R157) -/

/-- The in point of a key's cue in the active bank; the keys of a pass are there while it is in hand (log 29). -/
def State.inPointOf (s : State) (k : Option Key) : Nat := ((k.bind (findCue s.cues)).map Cue.inPt).getD 0

/-- The out point of a key's cue in the active bank. -/
def State.outPointOf (s : State) (k : Option Key) : Nat := ((k.bind (findCue s.cues)).map Cue.outPt).getD 0

/-- The start point and the end point of a cycle, from the active bank and the present preroll and postroll (09
R157). A LOCATE's target is the start point as it stands: a queued one that lies beyond the day of a rate switched to
meanwhile is not held to that day (DESIGN CHOICE, log 40). -/
def State.passPoints (s : State) (mode : PassMode) (first last : Option Key) (target : Option Nat) :
    Nat × Option Nat :=
  let start := s.inPointOf first - s.pass.preroll * 100
  let stopAt (k : Option Key) : Option Nat := some (clampDay s.rate (s.outPointOf k + s.pass.postroll * 100))
  match mode with
  | .single => (start, stopAt first)
  | .cycle => (start, stopAt first)
  | .run => (start, stopAt last)
  | .locate => (target.getD 0, none)

/-- The pass number after the present one (09 R156 step 1). -/
def nextPassNumber (n : Nat) : Nat := if n = 65535 then 1 else n + 1

/-- The cycle ordinal of the next cycle: one more than before, and after 65535 a free value (09 R152, R156 step 3;
log 6). The second component is the count of free values drawn. -/
def nextOrdinal (n draws : Nat) : Nat × Nat :=
  if n < 65535 then (n + 1, draws) else (1 + (Config.freeOrdinal draws).toNat % 65535, draws + 1)

/-! ### Notices and requests of a pass (09 R167, R169) -/

/-- The PASS notice of the cycle in hand (09 R167). -/
def State.passNotice (s : State) (reason : PassEnd) (last : Bool) (refusal : Option ResultCode) (discarded : Bool)
    (h : PassInHand) : Notice :=
  .pass
    { reason, number := s.pass.number, mode := h.mode, first := h.first, ordinal := h.ordinal, last,
      recording := h.recordAtStart, result := h.result, refusal, queuedDiscarded := discarded,
      position := s.faultPosition }

/-- The text of a request as it is wanted. -/
def State.requestText (s : State) (k : RequestKind) (startPt : Nat) : List Byte :=
  match k with
  | .loc => locText s.rate s.tracker.settings.offset startPt
  | .play => playText
  | .stop => stopText

/-- The pass in hand sends a request that it owns (09 R168, R169). -/
def sendOwned (k : RequestKind) (h : PassInHand) (s : State) : State :=
  sendRequest
    { kind := k, text := s.requestText k h.startPt, owner := some { number := s.pass.number, first := h.first } } s

/-- The STOP of an abort, owned by no pass (09 R166 step 6). -/
def sendAbortStop (s : State) : State := sendRequest { kind := .stop, text := stopText, owner := none } s

/-- Whether an owner is the pass in hand (09 R169). -/
def State.owns (s : State) (o : Option RequestOwner) : Bool :=
  match o with
  | none => false
  | some x => s.pass.inHand.isSome && decide (x.number = s.pass.number)

/-! ### Entries to states -/

/-- An entry to a phase sets the state and the phase deadline anew, and its request awaits its answer (09 R158,
R162). -/
def enterPhase (st : PassState) (h : PassInHand) (s : State) : State :=
  { s with
    pass := { s.pass with
      state := st, inHand := some { h with answered := false },
      deadline := some (deadlineAfter s.counter s.pass.locateTimeout) } }

/-- The pass in hand is discarded and the state becomes IDLE, which is reported to the cue table (09 R161 step 4, R166
step 5; 03 R53). -/
def enterIdle (s : State) : State :=
  testSafePoint { s with pass := { s.pass with state := .idle, inHand := none, deadline := none } }

/-- A pass arm still ARMED is freed with ARM_LAPSED reason PASS (09 R161 step 1, R166 step 2). -/
def freePassArm (s : State) : State :=
  match s.pass.inHand.bind PassInHand.arm with
  | none => s
  | some i => freeArmed (.lapse .pass) i s

/-! ### Aborts (09 R165, R166) -/

/-- The status of the takes that an abort closes (09 R166 step 1). -/
def PassEnd.closeStatus (r : PassEnd) : TakeStatus := if r = .abandoned then .aborted else .broken

/-- The reasons whose abort sends a STOP (09 R166 step 6). -/
def PassEnd.stops (r : PassEnd) : Bool :=
  match r with
  | .motion => true
  | .lost => true
  | .locateTimeout => true
  | .abandoned => true
  | _ => false

/-- An abort of the pass in hand, in the six steps of 09 R166. That the OPEN entries of its first step close in ascending
number is the model's choice (log 46, DESIGN CHOICE). -/
def abortPass (reason : PassEnd) (refusal : Option ResultCode) (s : State) : State :=
  let s1 := freePassArm (closeAllOpen reason.closeStatus s.tracker.head s)
  match s1.pass.inHand with
  | none => s
  | some h =>
    let s2 := { s1 with pass := { s1.pass with queued := none } }
    let s3 := enterIdle (offer (s2.passNotice reason true refusal s1.pass.queued.isSome h) s2)
    if reason.stops then sendAbortStop s3 else s3

/-! ### Pass starts (09 R156) -/

/-- The arm of a recording cycle (09 R156 step 4): the entry number becomes the pass arm; a refusal is given back. -/
def armForPass (h : PassInHand) (s : State) : Except ResultCode (PassInHand × State) :=
  match h.first with
  | none => .ok (h, s)
  | some k =>
    match armTest k none s with
    | .error c => .error c
    | .ok (cue, tracks, i) => .ok ({ h with arm := some i }, armEntry .pass cue tracks i s)

/-- Whether the cycle arms a take (09 R156 step 4). -/
def PassInHand.arms (h : PassInHand) : Bool := h.record && (decide (h.mode = .single) || decide (h.mode = .cycle))

/-- A pass start: the five steps of 09 R156, for a pass in hand whose ordinal is set. -/
def beginCycle (h0 : PassInHand) (s : State) : State :=
  let points := s.passPoints h0.mode h0.first h0.last h0.target
  let h :=
    { h0 with
      playReached := false, arm := none, result := none, startPt := points.1, endPt := points.2, answered := false,
      recordAtStart := h0.record }
  let s1 :=
    { s with pass := { s.pass with number := nextPassNumber s.pass.number, state := .locating, inHand := some h } }
  if h.arms then
    match armForPass h s1 with
    | .error c => abortPass .armRefused (some c) s1
    | .ok (h', s2) => sendOwned .loc h' (enterPhase .locating h' s2)
  else sendOwned .loc h (enterPhase .locating h s1)

/-- A new pass as it comes in hand, with ordinal 1. -/
def QueuedPass.inHand (q : QueuedPass) : PassInHand :=
  { mode := q.mode, first := q.first, last := q.last, target := q.target, cycles := q.cycles, ordinal := 1,
    record := q.record, lastFlag := false, playReached := false, startPt := 0, endPt := none, arm := none,
    result := none, answered := false, recordAtStart := q.record }

/-- Whether a present key is in the active bank. -/
def State.keyPresent (s : State) (k : Option Key) : Bool :=
  match k with
  | none => true
  | some x => (findCue s.cues x).isSome

/-- A RUN in the wrong order: the last key's index in table order is below the first key's (09 R154 step 4). -/
def State.runBackward (s : State) (mode : PassMode) (first last : Option Key) : Bool :=
  match mode, first, last with
  | .run, some a, some b => decide (indexOfKey b s.cues < indexOfKey a s.cues)
  | _, _, _ => false

/-- The keys of a queued pass, looked up before it starts (09 R156). -/
def State.keysHold (s : State) (q : QueuedPass) : Bool :=
  s.keyPresent q.first && s.keyPresent q.last && !s.runBackward q.mode q.first q.last

/-- A queued pass whose keys fail: the pass number rises and a PASS notice with reason KEYS is offered (09 R156;
log 19). -/
def failKeys (q : QueuedPass) (s : State) : State :=
  let s1 := { s with pass := { s.pass with number := nextPassNumber s.pass.number } }
  offer (s1.passNotice .keys true none false q.inHand) s1

/-- In IDLE a queued pass leaves the queue and starts (09 R156, R161 step 4). -/
def startQueued (s : State) : State :=
  match s.pass.queued with
  | none => s
  | some q =>
    let s1 := { s with pass := { s.pass with queued := none } }
    if s1.keysHold q then beginCycle q.inHand s1 else failKeys q s1

/-! ### Completion (09 R161) -/

/-- Whether a further cycle follows (09 R161 step 3). -/
def PassInHand.goesOn (h : PassInHand) : Bool :=
  decide (h.mode = .cycle) && !h.lastFlag && (decide (h.cycles = 0) || decide (h.ordinal < h.cycles))

/-- A cycle completes (09 R161). -/
def completeCycle (s : State) : State :=
  let s1 := freePassArm s
  match s1.pass.inHand with
  | none => s
  | some h =>
    let s2 := offer (s1.passNotice .done (!h.goesOn) none false h) s1
    if h.goesOn then
      let next := nextOrdinal h.ordinal s2.freeDraws
      beginCycle { h with ordinal := next.1 } { s2 with freeDraws := next.2 }
    else startQueued (enterIdle s2)

/-! ### The phases (09 R158 to R160) -/

/-- LOCATING's motion: PARKED with the frame of P within 2 frames of the start point's frame (09 R158). -/
def parkedAtStart (snap : Snap) (startPt : Nat) : Bool :=
  decide (snap.state = .parked) && decide (frameOf startPt ≤ frameOf snap.head + 2)
    && decide (frameOf snap.head ≤ frameOf startPt + 2)

/-- P lies at or beyond the end point (09 R160). -/
def PassInHand.atEnd (h : PassInHand) (p : Nat) : Bool :=
  match h.endPt with
  | none => false
  | some e => decide (e ≤ p)

/-- ENDING is entered and STOP is sent (09 R160). -/
def enterEnding (h : PassInHand) (s : State) : State := sendOwned .stop h (enterPhase .ending h s)

/-- ROLLING is entered, with no deadline; at or beyond the end point the pass goes on at once to ENDING (09 R159). -/
def enterRolling (h : PassInHand) (p : Nat) (s : State) : State :=
  let s1 := { s with pass := { s.pass with state := .rolling, deadline := none } }
  if h.atEnd p then enterEnding h s1 else s1

/-- The phase test (09 R158, R159, R161): both the OK answer and the motion of the phase. -/
def phaseTest (snap : Snap) (s : State) : State :=
  match s.pass.inHand with
  | none => s
  | some h =>
    if h.answered then
      match s.pass.state with
      | .locating =>
        if parkedAtStart snap h.startPt then
          if h.mode = .locate then completeCycle s else sendOwned .play h (enterPhase .rollingUp h s)
        else s
      | .rollingUp => if snap.cls = .play ∧ snap.settled then enterRolling h snap.head s else s
      | .ending => if snap.cls = .still then completeCycle s else s
      | .idle => s
      | .rolling => s
    else s

/-- Sets the PLAY-reached flag (09 R159; log 39). -/
def markPlayReached (s : State) : State :=
  { s with pass := { s.pass with inHand := s.pass.inHand.map fun h => { h with playReached := true } } }

/-- A report in ROLLING_UP (09 R159). -/
def rollingUpReport (rep : Report) (h : PassInHand) (s : State) : State :=
  match rep.kind with
  | .classChange old new =>
    if new = .none then abortPass .lost none s
    else if h.playReached ∧ old = .play then abortPass .motion none s
    else if new = .play then phaseTest rep.snap (markPlayReached s)
    else phaseTest rep.snap s
  | _ => phaseTest rep.snap s

/-- A relocate of a change that also leaves PLAY, taken in ENDING: the takes left OPEN close BROKEN at the P before it, as the
take controller closes them at its own handling of the relocate, so that the class change of the same change finds none (07
R128; 09 R163; log 5). -/
def closeAtRelocate (rep : Report) (old : Nat) (s : State) : State :=
  if rep.snap.cls = .play then s else closeAllOpen .broken old s

/-- A report in ROLLING (09 R160). A relocate that enters ENDING is from then on taken as in ENDING. -/
def rollingReport (rep : Report) (h : PassInHand) (s : State) : State :=
  match rep.kind with
  | .classChange old new =>
    if new = .none then abortPass .lost none s else if old = .play then abortPass .motion none s else s
  | .advance _ new _ => if h.atEnd new then enterEnding h s else s
  | .relocate old new => if h.atEnd new then closeAtRelocate rep old (enterEnding h s) else s
  | .lock => s
  | .settle => s

/-- A report in ENDING (09 R161). A take left OPEN closes BROKEN at the class change out of PLAY before ENDING sees the
class (09 R163), or at a relocate of the same change, at the P before it. -/
def endingReport (rep : Report) (s : State) : State :=
  match rep.kind with
  | .classChange old new =>
    if new = .none then abortPass .lost none s
    else phaseTest rep.snap (if old = .play then closeAllOpen .broken rep.snap.head s else s)
  | .relocate old _ => phaseTest rep.snap (closeAtRelocate rep old s)
  | _ => phaseTest rep.snap s

/-- What the pass controller does at each tracker report, in each state (09 R158 to R161). The PLAY-reached flag is set by
a class change into PLAY in ROLLING_UP alone, not by one in LOCATING (DESIGN CHOICE, log 39). -/
def passReport (rep : Report) (s : State) : State :=
  match s.pass.inHand with
  | none => s
  | some h =>
    match s.pass.state with
    | .idle => s
    | .locating => phaseTest rep.snap s
    | .rollingUp => rollingUpReport rep h s
    | .rolling => rollingReport rep h s
    | .ending => endingReport rep s

/-! ### Answers (09 R168, R169) -/

/-- The record of a transport fault (09 R169). -/
def State.transportFault (s : State) (kind : FaultKind) (req : TransportRequest) : FaultRecord :=
  { kind, position := s.faultPosition, channel := none, key := req.owner.bind RequestOwner.first,
    detail := req.kind.code }

/-- A request fails: its fault is recorded, and the pass that owns it and is in hand aborts (09 R169). -/
def requestFailed (kind : FaultKind) (reason : PassEnd) (req : TransportRequest) (s : State) : State :=
  let s1 := recordFault (s.transportFault kind req) { s with transport := s.transport.finish }
  if s.owns req.owner then abortPass reason none s1 else s1

/-- A request is answered OK: the phase test is made when its owner is the pass in hand (09 R169). -/
def requestGranted (req : TransportRequest) (s : State) : State :=
  let s1 := { s with transport := s.transport.finish }
  if s.owns req.owner then
    phaseTest s1.tracker.snap
      { s1 with pass := { s1.pass with inHand := s1.pass.inHand.map fun h => { h with answered := true } } }
  else s1

/-- The carriage return completes the line gathered (09 R168, R169). -/
def completeAnswer (s : State) : State :=
  let line := s.transport.gathered
  let s1 := { s with transport := { s.transport with gathered := [] } }
  match s1.transport.awaiting, answerOf line with
  | some req, some .ok => requestGranted req s1
  | some req, some .no => requestFailed .transportRefused .transportRefused req s1
  | _, _ => s1

/-- The answer deadline expires (09 R169). -/
def expireAnswer (s : State) : State :=
  match s.transport.outstanding with
  | some { request, deadline := some d } =>
    if reached d s.counter then requestFailed .transportSilent .transportSilent request s else s
  | _ => s

/-! ### The phase deadline (09 R162) -/

/-- The detail code of LOCATE_TIMEOUT (09 R162). -/
def PassState.phaseCode (st : PassState) : Nat :=
  match st with
  | .locating => 1
  | .rollingUp => 2
  | .ending => 3
  | .idle => 0
  | .rolling => 0

/-- The phase deadline expires: LOCATE_TIMEOUT and an abort (09 R162). -/
def expirePhase (s : State) : State :=
  match s.pass.deadline with
  | none => s
  | some d =>
    if reached d s.counter then
      abortPass .locateTimeout none
        (recordFault
          { kind := .locateTimeout, position := s.faultPosition, channel := none,
            key := s.pass.inHand.bind PassInHand.first, detail := s.pass.state.phaseCode } s)
    else s

/-! ### RESTART (09 R171) -/

/-- The PASS notice of a RESTART, when a pass is in hand (09 R171; log 34). -/
def offerRestartPass (s : State) : State :=
  match s.pass.inHand with
  | none => s
  | some h => offer (s.passNotice .restart true none false h) s

/-- The pass controller and the transport link as a RESTART leaves them (09 R171). -/
def idlePass (s : State) : State :=
  { s with
    pass := { s.pass with state := .idle, inHand := none, queued := none, deadline := none },
    transport := s.transport.restart }

/-- The pass controller's RESTART (09 R171; log 34). -/
def restartPass (s : State) : State := idlePass (offerRestartPass s)

end Sys2Proof.Machine
end

