-- ==== Sys2Proof/Machine/Reports.lean ====
section
/-! DEFINITION. How the tracker's reports reach the other blocks (02 R34, R35), and the RESTART of every block (11 R197
step 3). -/

namespace Sys2Proof.Machine

/-! ### A frame start that meets a change of P (06 R113) -/

/-- A frame start: the flag is set, every channel is drawn from one sampled P in ascending channel number, and non-zero
punch frames fall by 1 (06 R106, R110, R112). -/
def drawFrame (s : State) : State :=
  { s with
    video :=
      { present := true, lastStart := s.counter, drawing := s.channels.flatMap (Channel.draw s.tracker.head),
        ahead := false },
    channels := s.channels.map Channel.lowerPunch }

/-- Whether the next command is a frame start at the present instant that has not been taken yet. -/
def State.frameMeets (s : State) : Bool :=
  !s.video.ahead && decide (s.pending.head? = some (.videoFrameStart s.counter))

/-- A frame start that falls at the instant of a change is taken in the course of it: it samples the new P, and draws what the
events taken so far have left. Its own command finds it taken (06 R113; log 49). -/
def meetFrame (s : State) : State :=
  if s.frameMeets then { drawFrame s with video := { (drawFrame s).video with ahead := true } } else s

/-! ### Delivery (02 R34) -/

/-- One block takes one report: the tracker offers its notice, a channel, the take controller and the pass controller
act by their chapters, and the cue table tests the safe point at a class change (02 R34, R35; 03 R53; 05 R88; 07 R135;
09 R158 to R161). The overlay generator takes no report, but a frame start that meets the change (06 R113). -/
def deliver (b : Block) (rep : Report) (s : State) : State :=
  match b with
  | .tracker => offerReport rep s
  | .channel n => onChannel n (fun c => c.takeReport (s.channelEnv n) rep) s
  | .takes => takesReport rep s
  | .pass => passReport rep s
  | .cueTable =>
    match rep.kind with
    | .classChange _ _ => testSafePoint s
    | _ => s
  | .overlay => meetFrame s

/-- Every report for every block that takes it, in the default order. -/
def allDeliveries (reports : List Report) : List (Block × Report) :=
  reports.flatMap fun rep => reportBlocks.map fun b => (b, rep)

/-- What waits for the blocks at a change: every report for every block that takes it, and, where the arbiter's choices name
the overlay generator, its frame start, which takes no part of the report that stands with it (06 R113; log 49). -/
def deliveries (choices : List Block) (reports : List Report) : List (Block × Report) :=
  allDeliveries reports ++ if .overlay ∈ choices then (reports.take 1).map fun rep => (.overlay, rep) else []

/-- The reports of one change reach their users, each user taking them in their order; the order between users is the
arbiter's (02 R34; log 5). -/
def deliverAll (reports : List Report) (s : State) : State :=
  match reports with
  | [] => s
  | _ =>
    let d := s.drawOrder
    (arbitrate d.1 (deliveries d.1 reports)).foldl (fun s x => deliver x.1 x.2 s) d.2

/-! ### A change of the tracker -/

/-- The detail code of LOCK_LOST: 1 for an OPEN take, 2 for a pass in ROLLING, 3 for both (02 R30). -/
def State.lockLostDetail (s : State) : Nat :=
  (if 0 < s.takes.openCount then 1 else 0) + (if s.pass.state = .rolling then 2 else 0)

/-- A park from FREEWHEEL records LOCK_LOST when a take is OPEN or a pass is ROLLING (02 R30). -/
def recordLockLost (s : State) : State :=
  if s.lockLostDetail = 0 then s
  else
    recordFault
      { kind := .lockLost, position := some s.tracker.head, channel := none, key := none,
        detail := s.lockLostDetail } s

/-- The tracker completes a change and then reports it (02 R34). `parked` says that it parked from FREEWHEEL. -/
def changeTracker (t : Tracker) (ev : TrackEvent) (parked : Bool) (s : State) : State :=
  let c := concludeChange s.rate s.tracker t ev
  let s1 := { s with tracker := c.1 }
  deliverAll c.2 (if parked then recordLockLost s1 else s1)

/-! ### RESTART (11 R197 step 3) -/

/-- What waits for a block in the course of a RESTART: a report of the tracker's change, or its own RESTART. -/
inductive RestartTask where
  | report (rep : Report)
  | own
  deriving DecidableEq, Repr

/-- A block's own RESTART: takes and passes end, channels rebuild (07 R137, 09 R171, 05 R89). The tracker's and the cue
table's stand in `restartBlocks`. -/
def ownRestart (b : Block) (s : State) : State :=
  match b with
  | .takes => restartTakes s
  | .pass => restartPass s
  | .channel n => rebuildChannel s n
  | .tracker => s
  | .cueTable => s
  | .overlay => s

/-- A block takes what waits for it. -/
def restartTask (s : State) (x : Block × RestartTask) : State :=
  match x.2 with
  | .report rep => deliver x.1 rep s
  | .own => ownRestart x.1 s

/-- The blocks whose own RESTARTs are ordered, in the default order (log 26). -/
def restartOrder : List Block := [.takes, .pass, .tracker] ++ channelBlocks

/-- The tracker and the timecode reader at RESTART: SILENT, the invalid-word run 0, the word being decoded cut short
(02 R14, R15, R17). The class change to NONE is given back as reports. -/
def silenceForRestart (s : State) : State × List Report :=
  let c := concludeChange s.rate s.tracker s.tracker.toSilent .none
  ({ s with tracker := c.1, reader := { invalidRun := 0, sinceCut := 0 } }, c.2)

/-- The pending switch is cleared first, since no safe-point test of a RESTART completes it (03 R39; log 26). -/
def clearSwitch (s : State) : State := { s with table := { s.table with switchPending := false } }

/-- The order in which the blocks come to their own RESTARTs: the arbiter's (log 5, log 26). -/
def orderRestarts (choices : List Block) : List Block :=
  (arbitrate choices (restartOrder.map fun b => (b, ()))).map Prod.fst

/-- The blocks ahead of the tracker perform their RESTARTs before its class change to NONE (log 26). -/
def restartAhead (order : List Block) (s : State) : State :=
  (order.takeWhile fun b => decide (b ≠ .tracker)).foldl (fun s b => ownRestart b s) s

/-- The tracker's class change to NONE, and the other blocks' RESTARTs among its reports (log 26). -/
def restartBehind (order : List Block) (s : State) : State :=
  let t := silenceForRestart s
  let d := t.1.drawOrder
  let tasks :=
    (allDeliveries t.2).map (fun x => (x.1, RestartTask.report x.2)) ++
      ((order.dropWhile fun b => decide (b ≠ .tracker)).drop 1).map fun b => (b, RestartTask.own)
  (arbitrate d.1 tasks).foldl restartTask d.2

/-- Every block performs its own RESTART (11 R197 step 3). The order of the blocks is the arbiter's: the blocks ahead of
the tracker act before its class change to NONE, and the rest act among its reports (log 26). -/
def restartBlocks (s : State) : State :=
  let d := (clearSwitch s).drawOrder
  restartBehind (orderRestarts d.1) (restartAhead (orderRestarts d.1) d.2)

end Sys2Proof.Machine
end

