-- ==== Sys2Proof/Machine/CueRequests.lean ====
section
/-! DEFINITION. The requests of the cue table: loading the staged bank (03 R47 to R51), the bank switch (R52 to R55),
editing the active bank (R56 to R58), reading (R59, R60), and CUE_STATE (05 R94). -/

namespace Sys2Proof.Machine

/-! ### The staged bank (03 R47 to R51) -/

/-- The staged bank's letter (03 R39). -/
def CueTable.stagedName (t : CueTable) : BankName := t.active.other

/-- The staged bank's records replaced. -/
def State.withStagedCues (s : State) (cues : List Cue) : State :=
  { s with table := s.table.withStaged { s.table.stagedBank with cues } }

/-- BANK_SETUP performed (03 R47, R51). -/
def bankSetupPerform (rate : Byte) (s : State) : State × List Byte :=
  if s.table.switchPending then refuse .switchPending s
  else
    match Rate.ofCode rate.toNat with
    | none => refuse .range s
    | some r =>
      if s.table.stagedBank.cues ≠ [] then refuse .state s
      else
        ({ s with table := s.table.withStaged { s.table.stagedBank with rate := r } },
          ResultCode.ok.item ++ b1 s.table.stagedName.code ++ b1 r.code)

/-- BANK_SETUP (03 R47). -/
def execBankSetup (tag rate : Byte) (s : State) : Result := request (.bankSetup tag rate) (bankSetupPerform rate) s

/-- A refusal of a request that writes a record, which carries the key (03 R44). -/
def refuseKey (c : ResultCode) (key : WireKey) (s : State) : State × List Byte := (s, c.item ++ wireKeyItem key)

/-- LOAD_CUE performed, in the order of 03 R44 (R48). The bank letter of R51 stands last in the reply (DESIGN CHOICE, log
37). -/
def loadCuePerform (key : WireKey) (items : CueItems) (s : State) : State × List Byte :=
  if s.table.switchPending then refuseKey .switchPending key s
  else
    let bank := s.table.stagedBank
    match keyOf key with
    | none => refuseKey .range key s
    | some k =>
      match cueOfItems bank.rate k items with
      | none => refuseKey .range key s
      | some (cue, adjusted) =>
        if (findCue bank.cues k).isNone && decide (512 ≤ bank.cues.length) then refuseKey .full key s
        else
          let cues := placeCue cue bank.cues
          (s.withStagedCues cues,
            (okOr adjusted).item ++ b2 cues.length ++ keyItem k ++ cueItem bank.rate cue
              ++ b1 s.table.stagedName.code)

/-- LOAD_CUE (03 R48). -/
def execLoadCue (tag : Byte) (key : WireKey) (items : CueItems) (s : State) : Result :=
  request (.loadCue tag key items) (loadCuePerform key items) s

/-- DROP_CUE performed (03 R49). The bank letter of R51 stands last in the reply (DESIGN CHOICE, log 37). -/
def dropCuePerform (key : WireKey) (s : State) : State × List Byte :=
  if s.table.switchPending then refuse .switchPending s
  else
    match keyOf key with
    | none => refuse .range s
    | some k =>
      match findCue s.table.stagedBank.cues k with
      | none => refuse .unknownKey s
      | some _ =>
        let cues := dropKey k s.table.stagedBank.cues
        (s.withStagedCues cues, ResultCode.ok.item ++ b2 cues.length ++ b1 s.table.stagedName.code)

/-- DROP_CUE (03 R49). -/
def execDropCue (tag : Byte) (key : WireKey) (s : State) : Result := request (.dropCue tag key) (dropCuePerform key) s

/-- CLEAR_BANK performed (03 R50). The bank letter of R51 stands last in the reply (DESIGN CHOICE, log 37). -/
def clearBankPerform (s : State) : State × List Byte :=
  if s.table.switchPending then refuse .switchPending s
  else (s.withStagedCues [], ResultCode.ok.item ++ b2 0 ++ b1 s.table.stagedName.code)

/-- CLEAR_BANK (03 R50). -/
def execClearBank (tag : Byte) (s : State) : Result := request (.clearBank tag) clearBankPerform s

/-! ### The bank switch (03 R52 to R55) -/

/-- SWITCH_BANK performed: the flag, then the test of the safe point (03 R52). -/
def switchBankPerform (s : State) : State × List Byte :=
  if s.table.switchPending then refuse .busy s
  else
    let s1 := testSafePoint { s with table := { s.table with switchPending := true } }
    if s1.table.switchPending then (s1, ResultCode.deferred.item)
    else (s1, ResultCode.ok.item ++ b1 s1.table.active.code ++ b1 s1.rate.code)

/-- SWITCH_BANK (03 R52). -/
def execSwitchBank (tag : Byte) (s : State) : Result := request (.switchBank tag) switchBankPerform s

/-- CANCEL_SWITCH performed (03 R55). -/
def cancelSwitchPerform (s : State) : State × List Byte :=
  if s.table.switchPending then
    (offer (.bankCancelled s.table.active s.rate s.cues.length)
        { s with table := { s.table with switchPending := false } },
      ResultCode.ok.item)
  else refuse .state s

/-- CANCEL_SWITCH (03 R55). -/
def execCancelSwitch (tag : Byte) (s : State) : Result := request (.cancelSwitch tag) cancelSwitchPerform s

/-! ### UPDATE_CUE (03 R56 to R58) -/

/-- Whether some use of a cue is under way: ACTIVE on a channel, or an OPEN take of it (03 R58). -/
def State.cueInUse (s : State) (k : Key) : Bool :=
  s.channels.any (Channel.isActive k)
    || s.takes.inUse.any fun e => e.opened && decide (e.key = k)

/-- A channel takes the edit of a cue (03 R57, 05 R90). -/
def editChannel (old new : Cue) (s : State) (n : Nat) : State :=
  onChannel n (fun c => (c.takeEdit (s.channelEnv n) s.tracker.head old new, [])) s

/-- The record is replaced and the change handed to the channels and the take controller (03 R56 to R58). -/
def replaceCue (old new : Cue) (s : State) : State :=
  let bank := s.table.activeBank
  let s1 := { s with table := s.table.withActive { bank with cues := placeCue new bank.cues } }
  editTakes new ((List.range 8).foldl (editChannel old new) s1)

/-- A reply that carries a stored record (03 R44). -/
def recordBody (code : ResultCode) (r : Rate) (c : Cue) : List Byte := code.item ++ keyItem c.key ++ cueItem r c

/-- An UPDATE_CUE of a stored record whose fields passed their tests: nothing selected reads the record, the
two-position test follows, then the replacement (03 R44, R56, R58). An edit that selects a field is handed on also when every
value equals the stored one: 03 R56 exempts the empty set alone, and that such an edit changes the record in the sense of
03 R57 is the model's reading (log 48, DEDUCED). -/
def editRecord (key : WireKey) (fields : EditFields) (edit : CueEdit) (old : Cue) (s : State) : State × List Byte :=
  if editSelectsNothing edit then (s, recordBody .ok s.rate old)
  else
    let new := applyEdit fields edit old
    if pointsFit new.1.inPt new.1.outPt then
      (replaceCue old new.1 s,
        recordBody (if s.cueInUse old.key then ResultCode.deferred else okOr new.2) s.rate new.1)
    else refuseKey .range key s

/-- UPDATE_CUE performed: the fields, then the key's record (03 R44, R56). The spec gives UNKNOWN_KEY no place among the
tests; that every field is tested before the key is looked up is the model's choice (log 45, DESIGN CHOICE). -/
def updateCuePerform (key : WireKey) (edit : CueEdit) (s : State) : State × List Byte :=
  match keyOf key, editFields s.rate edit with
  | some k, some fields =>
    match findCue s.cues k with
    | none => refuseKey .unknownKey key s
    | some old => editRecord key fields edit old s
  | _, _ => refuseKey .range key s

/-- UPDATE_CUE (03 R56). -/
def execUpdateCue (tag : Byte) (key : WireKey) (edit : CueEdit) (s : State) : Result :=
  request (.updateCue tag key edit) (updateCuePerform key edit) s

/-! ### Reading (03 R59, R60) -/

/-- READ_CUE performed (03 R59). -/
def readCueBody (selector : Byte) (key : WireKey) (s : State) : List Byte :=
  match selectorIsStaged selector, keyOf key with
  | some staged, some k =>
    let b := s.table.bankOfRole staged
    match findCue b.1.cues k with
    | none => ResultCode.unknownKey.item
    | some cue => recordBody .ok b.1.rate cue ++ b2 (indexOfKey k b.1.cues) ++ b1 b.2.code
  | _, _ => ResultCode.range.item

/-- READ_CUE (03 R59). -/
def execReadCue (tag selector : Byte) (key : WireKey) (s : State) : Result :=
  request (.readCue tag selector key) (fun s => (s, readCueBody selector key s)) s

/-- LIST_CUES performed. The reply carries the keys alone, as 03 R60 lists its items. The table of 01 R13 names in and out
points in LIST_CUES replies; that none is sent is the model's choice (log 43, DESIGN CHOICE). -/
def listCuesBody (selector : Byte) (index : Half) (s : State) : List Byte :=
  match selectorIsStaged selector with
  | none => ResultCode.range.item
  | some staged =>
    if 511 < index.toNat then ResultCode.range.item
    else
      let b := s.table.bankOfRole staged
      ResultCode.ok.item ++ b1 b.2.code ++ b1 b.1.rate.code ++ b2 b.1.cues.length ++ half index
        ++ listOf (fun c : Cue => keyItem c.key) ((b.1.cues.drop index.toNat).take 16)

/-- LIST_CUES (03 R60). -/
def execListCues (tag selector : Byte) (index : Half) (s : State) : Result :=
  request (.listCues tag selector index) (fun s => (s, listCuesBody selector index s)) s

/-! ### CUE_STATE (05 R94) -/

/-- The reason that a PASSED status carries. -/
def CueStatus.reasonItem (st : CueStatus) : List Byte :=
  match st with
  | .passed r => b1 r.code
  | _ => []

/-- A cue's standing on one channel (05 R94; log 15). -/
def standingItem (s : State) (k : Key) (n : Nat) : List Byte :=
  match s.channels[n]? with
  | none => []
  | some c =>
    if !c.settings.enabled then b1 5
    else
      match c.entryOf k with
      | none => b1 6
      | some m =>
        b1 m.status.code ++ m.status.reasonItem ++ posItem s.rate ((c.earliestOf (s.channelEnv n) m).getD 0)
          ++ b1 (c.schedule.countP fun e => decide (e.key = k)) ++ flag (c.acceptsKey s.cues k)
          ++ b1 c.schedule.length

/-- CUE_STATE performed (05 R94). -/
def cueStateBody (key : WireKey) (s : State) : List Byte :=
  match keyOf key with
  | none => ResultCode.range.item
  | some k =>
    match findCue s.cues k with
    | none => ResultCode.unknownKey.item
    | some _ =>
      ResultCode.ok.item ++ keyItem k ++ b1 s.table.active.code ++ (List.range 8).flatMap (standingItem s k)

/-- CUE_STATE (05 R94). -/
def execCueState (tag : Byte) (key : WireKey) (s : State) : Result :=
  request (.cueState tag key) (fun s => (s, cueStateBody key s)) s

end Sys2Proof.Machine
end

