-- ==== Sys2Proof/Machine/DeadlineEvents.lean ====
section
/-! DEFINITION. The deadlines of takes and phases (07 R132, 09 R162). -/

namespace Sys2Proof.Machine

/-- The deadline of an ARMED entry expires and the entry is freed with reason TIME (07 R132). -/
def expireArm (i : Nat) (s : State) : State :=
  match (s.takes.armedAt i).bind TakeEntry.deadline with
  | none => s
  | some d => if reached d s.counter then freeArmed (.lapse .time) i s else s

/-- ARM_DEADLINE_EXPIRY (07 R132). -/
def execArmDeadlineExpiry (entry : Fin 4) (now : Stamp) (s : State) : Result :=
  .next (expireArm entry.val (elapseTo now s))

/-- PHASE_DEADLINE_EXPIRY (09 R162). -/
def execPhaseDeadlineExpiry (now : Stamp) (s : State) : Result := .next (expirePhase (elapseTo now s))

end Sys2Proof.Machine
end

