-- ==== Sys2Proof/Machine/LinkEvents.lean ====
section
/-! DEFINITION. The receiver and the transmitter of the control link (11 R186, R192, R193), and frames the handler
answers MALFORMED (11 R189). -/

namespace Sys2Proof.Machine

/-! ### The transmitter under hold and go on (11 R193) -/

/-- The hold state becomes HELD (11 R193). -/
def holdLink (s : State) : State := { s with link := { s.link with held := true } }

/-- The hold state becomes RUNNING, and a part that waited for the go on is sent (11 R192, R193; log 32). -/
def goOnLink (s : State) : State :=
  { s with
    link := { s.link with
      held := false,
      tx :=
        match s.link.tx with
        | .sending none (p :: ps) => .sending (some p) ps
        | t => t } }

/-! ### The receiver (11 R186) -/

/-- The receiver's state set. -/
def setReceiver (r : Receiver) (s : State) : State := { s with link := { s.link with receiver := r } }

/-- A byte taken in BETWEEN: a lead, a hold, a go on, or discarded (11 R186). -/
def byteBetween (b : Byte) (s : State) : State :=
  if b = 0xB7 then setReceiver (.inFrame [] s.counter) s
  else if b = 0xC3 then holdLink s
  else if b = 0xC5 then goOnLink s
  else s

/-- A length outside 2..242 (11 R186). -/
def badLengthByte (b : Byte) : Bool := decide (b.toNat < 2) || decide (242 < b.toNat)

/-- The frame of the bytes gathered: length, kind, tag, payload, check (11 R185, R186). -/
def frameOfBytes (g : List Byte) : Frame :=
  { kind := (g[1]?).getD 0, tag := (g[2]?).getD 0, payload := (g.drop 3).dropLast }

/-- The last byte of a frame: a good check hands it to the intake, a bad one discards it (11 R186). -/
def endFrame (g : List Byte) (s : State) : State :=
  let s1 := setReceiver .between s
  if sumBytes g = 0 then acceptFrame (frameOfBytes g) s1 else linkError 3 s1

/-- A byte gathered in IN_FRAME (11 R186). -/
def byteInFrame (g : List Byte) (b : Byte) (s : State) : State :=
  match g with
  | [] => if badLengthByte b then linkError 2 (setReceiver .between s) else setReceiver (.inFrame [b] s.counter) s
  | n :: _ =>
    if (g ++ [b]).length = n.toNat + 2 then endFrame (g ++ [b]) s
    else setReceiver (.inFrame (g ++ [b]) s.counter) s

/-- The gap expires: the frame is discarded with cause 1 (11 R186). -/
def gapExpires (s : State) : State := linkError 1 (setReceiver .between s)

/-- One byte from the host. A byte that comes after the 20,000 µs gap finds the frame discarded and is taken in BETWEEN;
one at that very instant goes on with the frame unless the expiry was taken first (11 R186, R198; log 17). -/
def receiveByte (b : Byte) (s : State) : State :=
  match s.link.receiver with
  | .between => byteBetween b s
  | .inFrame g last =>
    if 20000 < elapsed last s.counter then byteBetween b (gapExpires s) else byteInFrame g b s

/-- CONTROL_BYTE_RECEIVED (11 R186). -/
def execControlByteReceived (byte : Byte) (now : Stamp) (s : State) : Result := .next (receiveByte byte (elapseTo now s))

/-- FRAME_RECEIVED: the last byte of a frame (11 R186, R187). -/
def execFrameReceived (last : Byte) (now : Stamp) (s : State) : Result := .next (receiveByte last (elapseTo now s))

/-- BAD_LENGTH: a length byte outside 2..242 (11 R186). -/
def execBadLength (length : Byte) (now : Stamp) (s : State) : Result := .next (receiveByte length (elapseTo now s))

/-- HOLD: the byte 0xC3 (11 R186, R193). -/
def execHold (now : Stamp) (s : State) : Result := .next (receiveByte 0xC3 (elapseTo now s))

/-- GO_ON: the byte 0xC5 (11 R186, R193). -/
def execGoOn (now : Stamp) (s : State) : Result := .next (receiveByte 0xC5 (elapseTo now s))

/-- The gap test of LINK_GAP_EXPIRY (11 R186). -/
def expireGap (s : State) : State :=
  match s.link.receiver with
  | .between => s
  | .inFrame _ last => if 20000 ≤ elapsed last s.counter then gapExpires s else s

/-- LINK_GAP_EXPIRY (11 R186). -/
def execLinkGapExpiry (now : Stamp) (s : State) : Result := .next (expireGap (elapseTo now s))

/-! ### MALFORMED_REQUEST (11 R189) -/

/-- The reply to a frame whose kind or payload spells no request: MALFORMED with its cause; nothing else changes (11
R189). A frame that does spell a request is not this command's: the state stays (log 16). -/
def execMalformedRequest (kind tag : Byte) (payload : List Byte) (s : State) : Result :=
  match malformedCause kind payload with
  | none => .next s
  | some c =>
    request (.malformedRequest kind tag payload) (fun s => (s, ResultCode.malformed.item ++ b1 c)) s

/-! ### The transmitter (11 R192) -/

/-- The transmitter starts the first of some frames. -/
def startFrames (frames : List (List Byte)) (s : State) : State :=
  match frames with
  | [] => s
  | f :: rest => { s with link := { s.link with tx := .sending (some f) rest } }

/-- The choice of a FREE transmitter that is not held: the oldest reply, else the oldest notice, else nothing (11
R192). -/
def chooseFrame (s : State) : State :=
  match s.link.tx with
  | .free =>
    if s.link.held then s
    else
      match s.link.replies with
      | r :: rest => startFrames r.frames { s with link := { s.link with replies := rest } }
      | [] =>
        match s.link.notices with
        | n :: rest => startFrames [n.bytes] { s with link := { s.link with notices := rest } }
        | [] => s
  | .sending _ _ => s

/-- TRANSMIT_CHOOSE (11 R192). -/
def execTransmitChoose (now : Stamp) (s : State) : Result := .next (chooseFrame (elapseTo now s))

/-- The transmitter after a frame ends: FREE after the last one, else the next part, which waits while held (11 R192,
R193). -/
def Transmitter.afterFrame (held : Bool) (t : Transmitter) : Transmitter :=
  match t with
  | .sending (some _) [] => .free
  | .sending (some _) (p :: ps) => if held then .sending none (p :: ps) else .sending (some p) ps
  | .sending none rest => .sending none rest
  | .free => .free

/-- TRANSMIT_FRAME_END (11 R192). -/
def execTransmitFrameEnd (now : Stamp) (s : State) : Result :=
  let s1 := elapseTo now s
  .next { s1 with link := { s1.link with tx := s1.link.tx.afterFrame s1.link.held } }

end Sys2Proof.Machine
end

