-- ==== Sys2Proof/Machine/LinkRequests.lean ====
section
/-! DEFINITION. The requests of the link port itself (11 R195 to R197, 10 R177) and of the fault log (10 R180 to
R182). -/

namespace Sys2Proof.Machine

/-! ### IDENTIFY (11 R195) -/

/-- OK, the vendor code, the part code, the protocol version (11 R195). -/
def identifyBody : List Byte := ResultCode.ok.item ++ b1 0x42 ++ b2 0x4C38 ++ b1 1

/-- IDENTIFY (11 R195). -/
def execIdentify (tag : Byte) (s : State) : Result := request (.identify tag) (fun s => (s, identifyBody)) s

/-! ### GET_STATUS (11 R196) -/

/-- The snapshot, in the order of 11 R196. -/
def statusBody (s : State) : List Byte :=
  ResultCode.ok.item ++ b1 s.tracker.state.code ++ b1 s.tracker.cls.code ++ flag s.tracker.settled
    ++ posItem s.rate s.tracker.head ++ stampBytes s.counter ++ b2 s.tracker.speed ++ b1 s.tracker.heading.code
    ++ b1 s.table.active.code ++ b1 s.rate.code ++ b2 s.table.stagedBank.cues.length ++ flag s.table.switchPending
    ++ b1 s.pass.state.code ++ b2 s.pass.number ++ b1 s.takes.armedCount ++ b1 s.takes.openCount
    ++ b1 s.faults.order.length ++ flag s.faults.overflow ++ b1 s.link.notices.length ++ flag s.video.present

/-- GET_STATUS (11 R196). -/
def execGetStatus (tag : Byte) (s : State) : Result := request (.getStatus tag) (fun s => (s, statusBody s)) s

/-! ### SET_NOTICES (10 R177) -/

/-- The ten items as a mask; none is RANGE (10 R177). -/
def maskOf (m : MaskItems) : Option NoticeMask := do
  let lock ← yesNo m.lock
  let motion ← yesNo m.motion
  let relocate ← yesNo m.relocate
  let line ← yesNo m.line
  let cuePassed ← yesNo m.cuePassed
  let take ← yesNo m.take
  let armLapsed ← yesNo m.armLapsed
  let pass ← yesNo m.pass
  let bank ← yesNo m.bank
  let fault ← yesNo m.fault
  return { lock, motion, relocate, line, cuePassed, take, armLapsed, pass, bank, fault }

/-- A mask as a reply carries it. -/
def NoticeMask.item (m : NoticeMask) : List Byte :=
  flag m.lock ++ flag m.motion ++ flag m.relocate ++ flag m.line ++ flag m.cuePassed ++ flag m.take
    ++ flag m.armLapsed ++ flag m.pass ++ flag m.bank ++ flag m.fault

/-- The owed FAULT notice is delivered at the enabling of FAULT (10 R177). -/
def deliverOwed (s : State) : State :=
  if s.faults.owed then
    let s1 := { s with faults := { s.faults with owed := false } }
    if s.faults.order ≠ [] ∨ s.faults.overflow then offer (s.faults.notice .owed) s1 else s1
  else s

/-- SET_NOTICES performed (10 R177). -/
def setNoticesPerform (items : MaskItems) (s : State) : State × List Byte :=
  match maskOf items with
  | none => refuse .range s
  | some m =>
    let s1 := { s with link := { s.link with mask := m } }
    let s2 := if m.fault && !s.link.mask.fault then deliverOwed s1 else s1
    (s2, ResultCode.ok.item ++ m.item ++ flag s2.faults.owed)

/-- SET_NOTICES (10 R177). -/
def execSetNotices (tag : Byte) (items : MaskItems) (s : State) : Result :=
  request (.setNotices tag items) (setNoticesPerform items) s

/-! ### RESTART (11 R197) -/

/-- RESTART performed: the intake is emptied with no reply and every block performs its own RESTART. The reply joins its
queue at the same instant, which no block reads (11 R197). -/
def restartPerform (s : State) : State × List Byte :=
  (restartBlocks { s with link := { s.link with intake := [] } }, ResultCode.ok.item)

/-- RESTART (11 R197). -/
def execRestart (tag : Byte) (s : State) : Result := request (.restart tag) restartPerform s

/-! ### The fault log (10 R180 to R182) -/

/-- An occupied slot's number and record (10 R180). -/
def FaultLog.slotItem (r : Rate) (l : FaultLog) (i : Nat) : List Byte :=
  match l.at i with
  | none => []
  | some f => b1 i ++ f.items r

/-- The log as READ_FAULTS reports it (10 R180). -/
def faultsBody (s : State) : List Byte :=
  ResultCode.ok.item ++ flag s.faults.overflow ++ flag s.faults.owed ++ opt b1 s.faults.firstPending
    ++ b1 s.faults.order.length ++ s.faults.order.flatMap (s.faults.slotItem s.rate)

/-- READ_FAULTS (10 R180). -/
def execReadFaults (tag : Byte) (s : State) : Result := request (.readFaults tag) (fun s => (s, faultsBody s)) s

/-- A slot freed: it leaves the recording order; the first-pending index becomes absent with the last slot, moves on when
it named the slot, and stays otherwise (10 R175, R181). -/
def FaultLog.clear (i : Nat) (l : FaultLog) : FaultLog :=
  let order := l.order.filter fun j => decide (j ≠ i)
  { l with
    slots := l.slots.set i none, order,
    firstPending :=
      if order = [] then none else if l.firstPending = some i then order.head? else l.firstPending }

/-- CLEAR_FAULT performed (10 R181). -/
def clearFaultPerform (slot : Byte) (s : State) : State × List Byte :=
  if 7 < slot.toNat then refuse .range s
  else
    match s.faults.at slot.toNat with
    | none => refuse .state s
    | some _ =>
      let l := s.faults.clear slot.toNat
      ({ s with faults := l }, ResultCode.ok.item ++ b1 l.order.length ++ opt b1 l.firstPending)

/-- CLEAR_FAULT (10 R181). -/
def execClearFault (tag slot : Byte) (s : State) : Result := request (.clearFault tag slot) (clearFaultPerform slot) s

/-- CLEAR_OVERFLOW performed (10 R182). -/
def clearOverflowPerform (s : State) : State × List Byte :=
  if s.faults.overflow then
    ({ s with faults := { s.faults with overflow := false } }, ResultCode.ok.item ++ b1 s.faults.order.length)
  else refuse .state s

/-- CLEAR_OVERFLOW (10 R182). -/
def execClearOverflow (tag : Byte) (s : State) : Result := request (.clearOverflow tag) clearOverflowPerform s

end Sys2Proof.Machine
end

