-- ==== Sys2Proof/Machine/OutputEvents.lean ====
section
/-! DEFINITION. The tone units' timers and the video input (06). -/

namespace Sys2Proof.Machine

/-- BURST_EXPIRY: the remaining time has reached 0 and the unit returns to IDLE (06 R97, R101). -/
def execBurstExpiry (channel : Fin 8) (now : Stamp) (s : State) : Result :=
  .next (onChannel channel.val (fun c => ({ c with tone := c.tone.expire }, [])) (elapseTo now s))

/-- TONE_PERIOD_START: the next period starts at the channel's present pitch (06 R96, R101). -/
def execTonePeriodStart (channel : Fin 8) (now : Stamp) (s : State) : Result :=
  .next
    (onChannel channel.val (fun c => ({ c with tone := c.tone.startPeriod c.settings now }, [])) (elapseTo now s))

/-- A frame start that no change of P has met is taken now; one that was taken in the course of a change has had its effect
(06 R113; log 49). -/
def takeFrameStart (s : State) : State :=
  if s.video.ahead ∧ s.video.lastStart = s.counter then { s with video := { s.video with ahead := false } }
  else drawFrame s

/-- VIDEO_FRAME_START (06 R110). -/
def execVideoFrameStart (now : Stamp) (s : State) : Result := .next (takeFrameStart (elapseTo now s))

/-- Whether 100,000 µs have passed after the last frame start, with the flag set (06 R106). -/
def Video.overdue (now : Stamp) (v : Video) : Bool := v.present && decide (100000 ≤ elapsed v.lastStart now)

/-- VIDEO_LOST recorded, with whether any channel holds overlay state (06 R106). -/
def recordVideoLost (s : State) : State :=
  recordFault
    { kind := .videoLost, position := s.faultPosition, channel := none, key := none,
      detail := if s.channels.any Channel.holdsOverlay then 1 else 0 } s

/-- The flag clear, nothing drawn, and every punch cleared (06 R106). -/
def clearPicture (s : State) : State :=
  { s with
    video := { s.video with present := false, drawing := [] },
    channels := s.channels.map fun c => { c with overlay := { c.overlay with punch := 0 } } }

/-- The video-present flag changes from set to clear (06 R106). -/
def loseVideo (s : State) : State := clearPicture (recordVideoLost s)

/-- VIDEO_LOST (06 R106). -/
def execVideoLost (now : Stamp) (s : State) : Result :=
  let s1 := elapseTo now s
  .next (if s1.video.overdue now then loseVideo s1 else s1)

end Sys2Proof.Machine
end

