-- ==== Sys2Proof/Machine/PassRequests.lean ====
section
/-! DEFINITION. The requests of the pass controller: START_PASS (09 R154, R155), STOP_CYCLE (R164) and ABANDON_PASS
(R165). -/

namespace Sys2Proof.Machine

/-! ### START_PASS (09 R154, R155) -/

/-- The mode of a mode code; a code beyond the last names none (11 R188). -/
def PassMode.ofCode (n : Nat) : Option PassMode :=
  match n with
  | 0 => some .single
  | 1 => some .cycle
  | 2 => some .run
  | 3 => some .locate
  | _ => none

/-- A START_PASS whose fields are in range: the pass as it would be queued, its queue flag, and whether a value was
clamped or moved. -/
structure PassRequest where
  pass : QueuedPass
  queue : Bool
  adjusted : Bool
  deriving DecidableEq, Repr

/-- Test 1 of 09 R154: mode, keys, target and flags in range; none is RANGE. A cycles count above 99 is stored as 99,
and is read only for CYCLE. -/
def passFields (r : Rate) (x : PassItems) : Option PassRequest := do
  let mode ← PassMode.ofCode x.mode.toNat
  let first ← testField keyOf x.first
  let last ← testField keyOf x.last
  let target ← testField (posField r) x.target
  let record ← yesNo x.record
  let queue ← yesNo x.queue
  return {
    pass := { mode, first, last, target := target.map Prod.fst, cycles := min x.cycles.toNat 99, record },
    queue,
    adjusted := (target.map Prod.snd).getD false || (decide (mode = .cycle) && decide (99 < x.cycles.toNat)) }

/-- Test 2 of 09 R154: a forbidden combination. -/
def QueuedPass.forbidden (q : QueuedPass) : Bool :=
  (q.record && (decide (q.mode = .run) || decide (q.mode = .locate)))
    || (q.last.isSome && decide (q.mode ≠ .run))
    || (q.first.isNone && decide (q.mode ≠ .locate))
    || (q.last.isNone && decide (q.mode = .run))
    || (q.target.isNone && decide (q.mode = .locate))
    || (q.target.isSome && decide (q.mode ≠ .locate))
    || (q.first.isSome && decide (q.mode = .locate))

/-- Tests 2 to 4 of 09 R154, in order; none passes. -/
def State.passRefusal (s : State) (q : QueuedPass) : Option ResultCode :=
  if q.forbidden then some .mode
  else if !s.keyPresent q.first || !s.keyPresent q.last then some .unknownKey
  else if s.runBackward q.mode q.first q.last then some .mode
  else none

/-- A START_PASS in IDLE starts its pass in the course of the request; the reply carries the new number and the pass
points (09 R154; log 13). -/
def startNow (x : PassRequest) (s : State) : State × List Byte :=
  let points := s.passPoints x.pass.mode x.pass.first x.pass.last x.pass.target
  (beginCycle x.pass.inHand s,
    (okOr x.adjusted).item ++ b2 (nextPassNumber s.pass.number) ++ posItem s.rate points.1
      ++ opt (posItem s.rate) points.2)

/-- START_PASS performed (09 R154, R155). -/
def startPassPerform (items : PassItems) (s : State) : State × List Byte :=
  match passFields s.rate items with
  | none => refuse .range s
  | some x =>
    match s.passRefusal x.pass with
    | some c => refuse c s
    | none =>
      if s.pass.state = .idle then startNow x s
      else if x.queue ∧ s.pass.queued = none then
        ({ s with pass := { s.pass with queued := some x.pass } }, (okOr x.adjusted).item ++ flag true)
      else refuse .busy s

/-- START_PASS (09 R154). -/
def execStartPass (tag : Byte) (items : PassItems) (s : State) : Result :=
  request (.startPass tag items) (startPassPerform items) s

/-! ### STOP_CYCLE (09 R164) -/

/-- STOP_CYCLE performed (09 R164). -/
def stopCyclePerform (s : State) : State × List Byte :=
  match s.pass.inHand with
  | none => refuse .state s
  | some h =>
    ({ s with pass := { s.pass with inHand := some { h with lastFlag := true }, queued := none } },
      ResultCode.ok.item ++ b1 s.pass.state.code ++ b2 h.ordinal ++ flag s.pass.queued.isSome)

/-- STOP_CYCLE (09 R164). -/
def execStopCycle (tag : Byte) (s : State) : Result := request (.stopCycle tag) stopCyclePerform s

/-! ### ABANDON_PASS (09 R165) -/

/-- ABANDON_PASS performed (09 R165, R166). -/
def abandonPassPerform (s : State) : State × List Byte :=
  match s.pass.inHand with
  | none => refuse .state s
  | some _ =>
    (abortPass .abandoned none s,
      ResultCode.ok.item ++ b2 s.pass.number ++ b1 s.takes.openCount)

/-- ABANDON_PASS (09 R165). -/
def execAbandonPass (tag : Byte) (s : State) : Result := request (.abandonPass tag) abandonPassPerform s

end Sys2Proof.Machine
end

