-- ==== Sys2Proof/Machine/SettingsRequests.lean ====
section
/-! DEFINITION. The settings requests: SET_TRACKING (02 R36, R37), SET_SCHEDULE (05 R75), SET_CHANNEL (04 R65),
SET_TAKE_TIMING (07 R117), SET_PASS_TIMING (09 R153) and SET_GUARD (07 R126). -/

namespace Sys2Proof.Machine

/-! ### SET_TRACKING (02 R36, R37) -/

/-- The six settings as a reply carries them (02 R36). -/
def TrackSettings.item (t : TrackSettings) : List Byte :=
  signedItem t.offset ++ b1 t.lockCount ++ b1 t.freewheelLimit ++ b2 t.bandLow ++ b2 t.bandHigh ++ b1 t.settleSpan

/-- SET_TRACKING performed: the settings, then their effects, reported as one change (02 R34, R36, R37). -/
def setTrackingPerform (items : TrackingItems) (s : State) : State × List Byte :=
  let u := s.tracker.settings.update items
  let t := s.tracker.setTracking s.rate s.counter u.1
  let s1 := if t.1 = s.tracker ∧ t.2 = false then s else changeTracker t.1 .none t.2 s
  (s1, (okOr u.2).item ++ u.1.item)

/-- SET_TRACKING (02 R36). -/
def execSetTracking (tag : Byte) (items : TrackingItems) (s : State) : Result :=
  request (.setTracking tag items) (setTrackingPerform items) s

/-! ### SET_SCHEDULE (05 R75) -/

/-- An enabled channel runs an expansion pass against the present play head (05 R76). -/
def expandChannel (s : State) (n : Nat) : State :=
  onChannel n
    (fun c => (if c.settings.enabled then c.expand (s.channelEnv n) s.tracker.head else c, [])) s

/-- SET_SCHEDULE performed (05 R75). -/
def setSchedulePerform (window : Option Half) (s : State) : State × List Byte :=
  let w := clampField 50 900 s.window (window.map BitVec.toNat)
  let s1 := { s with window := w.1 }
  let s2 := if w.1 = s.window then s1 else (List.range 8).foldl expandChannel s1
  (s2, (okOr w.2).item ++ b2 w.1)

/-- SET_SCHEDULE (05 R75). -/
def execSetSchedule (tag : Byte) (window : Option Half) (s : State) : Result :=
  request (.setSchedule tag window) (setSchedulePerform window) s

/-! ### SET_CHANNEL (04 R65) -/

/-- The ten settings as a reply carries them (04 R61, R65). -/
def ChannelSettings.item (c : ChannelSettings) : List Byte :=
  flag c.enabled ++ half c.filterTag ++ half c.filterMask ++ b1 c.textLead ++ b1 c.lane ++ b1 c.colour
    ++ flag c.steady ++ b2 c.pitch ++ b1 c.level ++ b2 c.beepLength

/-- SET_CHANNEL performed: the steps of 04 R65, DEFERRED when ACTIVE cues were kept. -/
def setChannelPerform (channel : Byte) (items : ChannelItems) (s : State) : State × List Byte :=
  match s.channels[channel.toNat]? with
  | none => refuse .range s
  | some c =>
    match c.settings.update items with
    | none => refuse .range s
    | some (set', adjusted) =>
      let r := c.changeSettings (s.channelEnv channel.toNat) s.tracker.head set'
      let c' := r.1.1
      (emitAll r.1.2 { s with channels := s.channels.set channel.toNat c' },
        (if 0 < r.2 then ResultCode.deferred else okOr adjusted).item ++ [channel] ++ c'.settings.item
          ++ b2 c'.map.length ++ b1 c'.schedule.length ++ b1 r.2)

/-- SET_CHANNEL (04 R65). -/
def execSetChannel (tag channel : Byte) (items : ChannelItems) (s : State) : Result :=
  request (.setChannel tag channel items) (setChannelPerform channel items) s

/-! ### SET_TAKE_TIMING (07 R117) -/

/-- SET_TAKE_TIMING performed (07 R117). -/
def setTakeTimingPerform (items : TakeTimingItems) (s : State) : State × List Byte :=
  let lead := clampField 0 50 s.takes.punchLead (items.punchLead.map BitVec.toNat)
  let tail := clampField 0 100 s.takes.punchTail (items.punchTail.map BitVec.toNat)
  let window := clampField 5 600 s.takes.armWindow (items.armWindow.map BitVec.toNat)
  ({ s with takes := { s.takes with punchLead := lead.1, punchTail := tail.1, armWindow := window.1 } },
    (okOr (lead.2 || tail.2 || window.2)).item ++ b1 lead.1 ++ b1 tail.1 ++ b2 window.1)

/-- SET_TAKE_TIMING (07 R117). -/
def execSetTakeTiming (tag : Byte) (items : TakeTimingItems) (s : State) : Result :=
  request (.setTakeTiming tag items) (setTakeTimingPerform items) s

/-! ### SET_PASS_TIMING (09 R153) -/

/-- SET_PASS_TIMING performed (09 R153). -/
def setPassTimingPerform (items : PassTimingItems) (s : State) : State × List Byte :=
  let pre := clampField 0 1500 s.pass.preroll (items.preroll.map BitVec.toNat)
  let post := clampField 0 750 s.pass.postroll (items.postroll.map BitVec.toNat)
  let limit := clampField 5 120 s.pass.locateTimeout (items.locateTimeout.map BitVec.toNat)
  ({ s with pass := { s.pass with preroll := pre.1, postroll := post.1, locateTimeout := limit.1 } },
    (okOr (pre.2 || post.2 || limit.2)).item ++ b2 pre.1 ++ b2 post.1 ++ b1 limit.1)

/-- SET_PASS_TIMING (09 R153). -/
def execSetPassTiming (tag : Byte) (items : PassTimingItems) (s : State) : Result :=
  request (.setPassTiming tag items) (setPassTimingPerform items) s

/-! ### SET_GUARD (07 R126) -/

/-- A guard span's four items and its in-force mark (07 R126). -/
def Guard.item (r : Rate) (g : Guard) : List Byte :=
  flag g.enabled ++ half g.tracks ++ posItem r g.base ++ posItem r g.limit ++ flag g.inForce

/-- The span after a SET_GUARD, with whether a label was moved; none is RANGE (07 R126 steps 2 to 4). -/
def Guard.update (r : Rate) (x : GuardItems) (g : Guard) : Option (Guard × Bool) :=
  match testField yesNo x.enabled, testField (posField r) x.base, testField (posField r) x.limit with
  | some enabled, some base, some limit =>
    let b := base.getD (g.base, false)
    let l := limit.getD (g.limit, false)
    some
      ({ enabled := enabled.getD g.enabled, tracks := x.tracks.getD g.tracks, base := b.1, limit := l.1 },
        b.2 || l.2)
  | _, _, _ => none

/-- SET_GUARD performed: the span, then the gates of every OPEN entry (07 R126). -/
def setGuardPerform (span : Byte) (items : GuardItems) (s : State) : State × List Byte :=
  match s.takes.guards[span.toNat]? with
  | none => refuse .range s
  | some g =>
    match g.update s.rate items with
    | none => refuse .range s
    | some (g', moved) =>
      (evalGates s.tracker.cls s.tracker.head
          { s with takes := { s.takes with guards := s.takes.guards.set span.toNat g' } },
        (okOr moved).item ++ [span] ++ g'.item s.rate)

/-- SET_GUARD (07 R126). -/
def execSetGuard (tag span : Byte) (items : GuardItems) (s : State) : Result :=
  request (.setGuard tag span items) (setGuardPerform span items) s

end Sys2Proof.Machine
end

