-- ==== Sys2Proof/Machine/TakeRequests.lean ====
section
/-! DEFINITION. The requests of the take controller (07 R119, R130, R131), of the take log (08 R144, R145) and of the
slot table (08 R148, R149). -/

namespace Sys2Proof.Machine

/-! ### ARM_TAKE (07 R119, R120) -/

/-- A track of an arm as the reply carries it: its window, its slot, its TRUNCATED flag (07 R120). -/
def armedTrackItem (r : Rate) (slots : List Slot) (k : Key) (x : TrackItem) : List Byte :=
  let slot := findSlot slots k x.track
  b1 x.track ++ posItem r x.winStart ++ posItem r x.winEnd ++ posItem r ((slot.map Slot.base).getD x.winStart)
    ++ posItem r ((slot.map Slot.fin).getD x.winEnd) ++ flag ((slot.map fun y => !y.isProvisional).getD false)
    ++ flag x.truncated

/-- The reply of a successful ARM_TAKE (07 R120), from the state after the arm. -/
def armBody (i : Nat) (s : State) : List Byte :=
  match s.takes.entryAt i with
  | none => ResultCode.ok.item
  | some e =>
    ResultCode.ok.item ++ b1 i ++ keyItem e.key ++ posItem s.rate e.winStart ++ posItem s.rate e.winEnd
      ++ listOf (armedTrackItem s.rate s.slots e.key) e.items ++ b2 s.takes.armWindow

/-- ARM_TAKE performed (07 R119, R120). -/
def armTakePerform (key : WireKey) (tracks : Option Half) (s : State) : State × List Byte :=
  match keyOf key with
  | none => refuse .range s
  | some k =>
    match armTest k tracks s with
    | .error c => refuse c s
    | .ok (cue, list, i) =>
      let s1 := armEntry .host cue list i s
      (s1, armBody i s1)

/-- ARM_TAKE (07 R119). -/
def execArmTake (tag : Byte) (key : WireKey) (tracks : Option Half) (s : State) : Result :=
  request (.armTake tag key tracks) (armTakePerform key tracks) s

/-! ### DISARM (07 R131) -/

/-- A key or ALL with its key tested (03 R40); the outer none is RANGE, the inner none is ALL. -/
def keyOrAll (w : KeyOrAll) : Option (Option Key) :=
  match w with
  | .all => some none
  | .key k => (keyOf k).map some

/-- Whether a key is the one asked for, ALL asking for every key. -/
def wanted (k : Option Key) (x : Key) : Bool :=
  match k with
  | none => true
  | some y => decide (x = y)

/-- The numbers of the entries in use that a test picks, in ascending order. -/
def Takes.numbersOf (test : TakeEntry → Bool) (t : Takes) : List Nat :=
  entryNumbers.filter fun i => (t.entryAt i).any test

/-- An OPEN entry's disarm-after-close flag is set (07 R131). -/
def flagEntry (s : State) (i : Nat) : State :=
  match s.takes.openAt i with
  | none => s
  | some e => { s with takes := s.takes.setEntry i (some { e with disarmAfter := true }) }

/-- DISARM performed; the reply lists the numbers of the entries freed, then of those flagged (07 R131; log 14). -/
def disarmPerform (which : KeyOrAll) (s : State) : State × List Byte :=
  match keyOrAll which with
  | none => refuse .range s
  | some k =>
    let armed := s.takes.numbersOf fun e => !e.opened && wanted k e.key
    let opened := s.takes.numbersOf fun e => e.opened && wanted k e.key
    if armed = [] ∧ opened = [] then refuse .state s
    else
      let s1 := armed.foldl (fun s i => freeArmed .disarm i s) s
      (opened.foldl flagEntry s1,
        (if opened = [] then ResultCode.ok else ResultCode.deferred).item ++ listOf b1 armed ++ listOf b1 opened)

/-- DISARM (07 R131). -/
def execDisarm (tag : Byte) (which : KeyOrAll) (s : State) : Result := request (.disarm tag which) (disarmPerform which) s

/-! ### ABORT_TAKE (07 R130) -/

/-- The entries close with status ABORTED and the list of their take numbers grows with each (07 R130, 08 R141). That
several close in ascending number is the model's choice: 07 R129 and 08 R141 state that order for the closes of one report,
and 07 R130 states none (log 46, DESIGN CHOICE). -/
def abortEntries (entries : List Nat) (s : State) : State × List Nat :=
  entries.foldl
    (fun acc i => (closeEntry .aborted acc.1.tracker.head i acc.1, acc.2 ++ [acc.1.log.nextNumber])) (s, [])

/-- ABORT_TAKE performed (07 R130). -/
def abortTakePerform (which : KeyOrAll) (s : State) : State × List Byte :=
  match keyOrAll which with
  | none => refuse .range s
  | some k =>
    let opened := s.takes.numbersOf fun e => e.opened && wanted k e.key
    if opened = [] then refuse .state s
    else
      let r := abortEntries opened s
      (r.1, ResultCode.ok.item ++ listOf b2 r.2)

/-- ABORT_TAKE (07 R130). -/
def execAbortTake (tag : Byte) (which : KeyOrAll) (s : State) : Result :=
  request (.abortTake tag which) (abortTakePerform which) s

/-! ### READ_TAKE (08 R145) -/

/-- A track of a record as a reply carries it (08 R140). -/
def RecordTrack.replyItem (r : Rate) (x : RecordTrack) : List Byte :=
  b1 x.item.track ++ posItem r x.item.winStart ++ posItem r x.item.winEnd ++ posItem r x.slotBase
    ++ posItem r x.slotFin ++ flag x.slotFirm ++ b1 x.item.gate.code ++ opt (posItem r) x.item.firstOpen
    ++ opt (posItem r) x.item.lastClose ++ flag x.item.truncated ++ flag x.item.guarded

/-- A take record as a reply carries it, its positions under its own rate (08 R140, R145). -/
def TakeRecord.replyItem (x : TakeRecord) : List Byte :=
  b2 x.number ++ keyItem x.key ++ b1 x.rate.code ++ b2 x.passNumber ++ b1 x.status.code ++ posItem x.rate x.winStart
    ++ posItem x.rate x.winEnd ++ posItem x.rate x.closePos ++ flag x.disarmAfter
    ++ listOf (RecordTrack.replyItem x.rate) x.tracks ++ flag x.collected

/-- The four counts of every READ_TAKE reply (08 R145). -/
def TakeLog.countsItem (l : TakeLog) : List Byte :=
  b2 l.records.length ++ b2 l.collected ++ b1 l.reservations ++ b2 l.nextNumber

/-- The record of a take number (08 R145). -/
def TakeLog.recordOf (n : Nat) (l : TakeLog) : Option TakeRecord := l.records.find? fun r => decide (r.number = n)

/-- The first record in log order whose collected flag is clear (08 R145). -/
def TakeLog.oldestUncollected (l : TakeLog) : Option TakeRecord := l.records.find? fun r => !r.collected

/-- READ_TAKE performed (08 R145). -/
def readTakeBody (which : TakeSelector) (s : State) : List Byte :=
  let head : List Byte :=
    match which with
    | .number n =>
      if n = 0 then ResultCode.range.item
      else
        match s.log.recordOf n.toNat with
        | none => ResultCode.unknownKey.item
        | some r => ResultCode.ok.item ++ r.replyItem
    | .oldestUncollected =>
      match s.log.oldestUncollected with
      | none => ResultCode.state.item
      | some r => ResultCode.ok.item ++ r.replyItem
  head ++ s.log.countsItem

/-- READ_TAKE (08 R145). -/
def execReadTake (tag : Byte) (which : TakeSelector) (s : State) : Result :=
  request (.readTake tag which) (fun s => (s, readTakeBody which s)) s

/-! ### COLLECT_TAKES (08 R144) -/

/-- The records up to and with a number are collected (08 R144). -/
def collectUpTo (n : Nat) : List TakeRecord → List TakeRecord
  | [] => []
  | r :: rest =>
    { r with collected := true } :: (if r.number = n then rest else collectUpTo n rest)

/-- COLLECT_TAKES performed (08 R144). -/
def collectTakesPerform (number : Half) (s : State) : State × List Byte :=
  if number = 0 then refuse .range s
  else
    match s.log.recordOf number.toNat with
    | none => refuse .unknownKey s
    | some _ =>
      let l := { s.log with records := collectUpTo number.toNat s.log.records }
      ({ s with log := l },
        ResultCode.ok.item ++ half number ++ b2 (l.collected - s.log.collected) ++ b2 l.collected)

/-- COLLECT_TAKES (08 R144). -/
def execCollectTakes (tag : Byte) (number : Half) (s : State) : Result :=
  request (.collectTakes tag number) (collectTakesPerform number) s

/-! ### Slots (08 R148, R149) -/

/-- Whether an entry in use holds a track of an affected slot (08 R148). -/
def State.slotInUse (s : State) (x : Slot) : Bool :=
  s.takes.inUse.any fun e => decide (e.key = x.key) && e.items.any fun y => decide (y.track = x.track)

/-- CLEAR_SLOTS performed (08 R148). -/
def clearSlotsPerform (which : KeyOrAll) (s : State) : State × List Byte :=
  match keyOrAll which with
  | none => refuse .range s
  | some k =>
    let affected := s.slots.filter fun x => wanted k x.key
    if affected.any s.slotInUse then refuse .inProgress s
    else
      ({ s with slots := s.slots.filter fun x => !wanted k x.key }, ResultCode.ok.item ++ b2 affected.length)

/-- CLEAR_SLOTS (08 R148). -/
def execClearSlots (tag : Byte) (which : KeyOrAll) (s : State) : Result :=
  request (.clearSlots tag which) (clearSlotsPerform which) s

/-- A slot as READ_SLOTS carries it; the owner of a PROVISIONAL slot is an optional item (08 R149; log 12). -/
def Slot.replyItem (r : Rate) (x : Slot) : List Byte :=
  b1 x.track ++ posItem r x.base ++ posItem r x.fin ++ flag (!x.isProvisional)
    ++ opt b1 (match x.firmness with | .firm => none | .provisional i => some i)

/-- READ_SLOTS performed (08 R149). -/
def readSlotsBody (key : WireKey) (s : State) : List Byte :=
  match keyOf key with
  | none => ResultCode.range.item
  | some k =>
    ResultCode.ok.item ++ keyItem k ++ b2 s.slots.length
      ++ listOf (Slot.replyItem s.rate)
        (sortBy (fun a b => decide (a.track < b.track)) (s.slots.filter fun x => decide (x.key = k)))

/-- READ_SLOTS (08 R149). -/
def execReadSlots (tag : Byte) (key : WireKey) (s : State) : Result :=
  request (.readSlots tag key) (fun s => (s, readSlotsBody key s)) s

end Sys2Proof.Machine
end

