-- ==== Sys2Proof/Machine/TimeEvents.lean ====
section
/-! DEFINITION. Power-on, timecode words and the tracker's timers (11 R184, 02). Each event moves the counter to the
value it carries; an event whose cause does not hold then changes nothing else (log 2). -/

namespace Sys2Proof.Machine

/-! ### POWER_ON (11 R184) -/

/-- Every block in its power-on state; the queue of commands and the model's own choices go on (11 R184, R197; log
27). -/
def execPowerOn (s : State) : Result :=
  .next { State.reset with pending := s.pending, arbiter := s.arbiter, freeDraws := s.freeDraws }

/-! ### WORD_ARRIVAL (02 R14, R15) -/

/-- Whether a word that completes now after `took` microseconds of decoding was in progress at the last power-on or
RESTART: its decoding began before it (02 R14; log 9). -/
def Reader.cuts (took : Stamp) (r : Reader) : Bool := decide (r.sinceCut < took.toNat)

/-- An invalid word: the run grows, and the eighth records TC_RATE_MISMATCH (02 R15). -/
def countInvalid (s : State) : State :=
  if s.reader.invalidRun + 1 < 8 then { s with reader := { s.reader with invalidRun := s.reader.invalidRun + 1 } }
  else
    recordFault
      { kind := .tcRateMismatch, position := s.faultPosition, channel := none, key := none, detail := s.rate.code }
      { s with reader := { s.reader with invalidRun := 0 } }

/-- A whole word reaches the reader: converted by 01 R8, then counted as invalid or delivered to the tracker (02
R14). -/
def readerTakes (label : WordLabel) (sense : Sense) (stamp : Stamp) (s : State) : State :=
  match readWord s.rate s.tracker.settings.offset label with
  | none => countInvalid s
  | some a =>
    let t := s.tracker.takeWord s.rate { a, sense, stamp }
    changeTracker t.1 t.2 false { s with reader := { s.reader with invalidRun := 0 } }

/-- WORD_ARRIVAL (02 R14): a word cut short is discarded and not counted. -/
def execWordArrival (label : WordLabel) (sense : Sense) (took stamp : Stamp) (s : State) : Result :=
  let s1 := elapseTo stamp s
  if s1.reader.cuts took then .next s1 else .next (readerTakes label sense stamp s1)

/-! ### The tracker's timers (02 R18, R26, R30) -/

/-- A timer's change of the tracker, concluded and reported when it changes anything. -/
def timerChange (r : Tracker × Bool) (s : State) : State :=
  if r.1 = s.tracker ∧ r.2 = false then s else changeTracker r.1 .none r.2 s

/-- WORD_TIMEOUT (02 R18, R19, R28). -/
def execWordTimeout (now : Stamp) (s : State) : Result :=
  let s1 := elapseTo now s
  .next (timerChange (s1.tracker.timeOut s1.rate now) s1)

/-- PLAY_HEAD_ADVANCE (02 R26; log 7). -/
def execPlayHeadAdvance (now : Stamp) (s : State) : Result :=
  let s1 := elapseTo now s
  .next (timerChange (s1.tracker.advance s1.rate now) s1)

/-- FREEWHEEL_LIMIT_REACHED (02 R30). -/
def execFreewheelLimitReached (now : Stamp) (s : State) : Result :=
  let s1 := elapseTo now s
  .next (timerChange (s1.tracker.reachLimit s1.rate now) s1)

end Sys2Proof.Machine
end

