-- ==== Sys2Proof/Machine/TransportEvents.lean ====
section
/-! DEFINITION. The events of the transport link (09 R168, R169). -/

namespace Sys2Proof.Machine

/-- TRANSPORT_REQUEST_SENT: the carriage return of the text at the front of the line has left (09 R169). -/
def execTransportRequestSent (now : Stamp) (s : State) : Result :=
  let s1 := elapseTo now s
  .next { s1 with transport := s1.transport.lineSent now }

/-- TRANSPORT_CHARACTER_RECEIVED: a character of an answer line; a carriage return, which well-formed commands leave to
TRANSPORT_ANSWER, completes the line (09 R168; log 35). -/
def execTransportCharacterReceived (char : Byte) (now : Stamp) (s : State) : Result :=
  let s1 := elapseTo now s
  .next (if char = 0x0D then completeAnswer s1 else { s1 with transport := s1.transport.gather char })

/-- TRANSPORT_ANSWER: the carriage return that completes an answer line (09 R168, R169). -/
def execTransportAnswer (now : Stamp) (s : State) : Result := .next (completeAnswer (elapseTo now s))

/-- TRANSPORT_ANSWER_DEADLINE: the outstanding request's answer is overdue (09 R169). -/
def execTransportAnswerDeadline (now : Stamp) (s : State) : Result := .next (expireAnswer (elapseTo now s))

end Sys2Proof.Machine
end

