-- ==== Sys2Proof/Machine/Dispatch.lean ====
section
/-! DEFINITION. The effect of each command: one arm a row of spec/opcode_table.json. -/

namespace Sys2Proof.Machine

/-- The effect of a command on everything but the queue of commands. -/
def exec (i : Instr) (s : State) : Host.Outcome State Fault Refusal :=
  match i with
  | .powerOn => Sys2Proof.Machine.execPowerOn s
  | .wordArrival label sense took stamp => Sys2Proof.Machine.execWordArrival label sense took stamp s
  | .wordTimeout now => Sys2Proof.Machine.execWordTimeout now s
  | .playHeadAdvance now => Sys2Proof.Machine.execPlayHeadAdvance now s
  | .freewheelLimitReached now => Sys2Proof.Machine.execFreewheelLimitReached now s
  | .burstExpiry channel now => Sys2Proof.Machine.execBurstExpiry channel now s
  | .tonePeriodStart channel now => Sys2Proof.Machine.execTonePeriodStart channel now s
  | .videoFrameStart now => Sys2Proof.Machine.execVideoFrameStart now s
  | .videoLost now => Sys2Proof.Machine.execVideoLost now s
  | .armDeadlineExpiry entry now => Sys2Proof.Machine.execArmDeadlineExpiry entry now s
  | .phaseDeadlineExpiry now => Sys2Proof.Machine.execPhaseDeadlineExpiry now s
  | .transportRequestSent now => Sys2Proof.Machine.execTransportRequestSent now s
  | .transportAnswer now => Sys2Proof.Machine.execTransportAnswer now s
  | .transportAnswerDeadline now => Sys2Proof.Machine.execTransportAnswerDeadline now s
  | .frameReceived last now => Sys2Proof.Machine.execFrameReceived last now s
  | .badLength length now => Sys2Proof.Machine.execBadLength length now s
  | .linkGapExpiry now => Sys2Proof.Machine.execLinkGapExpiry now s
  | .hold now => Sys2Proof.Machine.execHold now s
  | .goOn now => Sys2Proof.Machine.execGoOn now s
  | .malformedRequest kind tag payload => Sys2Proof.Machine.execMalformedRequest kind tag payload s
  | .transmitChoose now => Sys2Proof.Machine.execTransmitChoose now s
  | .transmitFrameEnd now => Sys2Proof.Machine.execTransmitFrameEnd now s
  | .identify tag => Sys2Proof.Machine.execIdentify tag s
  | .getStatus tag => Sys2Proof.Machine.execGetStatus tag s
  | .setNotices tag items => Sys2Proof.Machine.execSetNotices tag items s
  | .restart tag => Sys2Proof.Machine.execRestart tag s
  | .setTracking tag items => Sys2Proof.Machine.execSetTracking tag items s
  | .setSchedule tag window => Sys2Proof.Machine.execSetSchedule tag window s
  | .setChannel tag channel items => Sys2Proof.Machine.execSetChannel tag channel items s
  | .setTakeTiming tag items => Sys2Proof.Machine.execSetTakeTiming tag items s
  | .setPassTiming tag items => Sys2Proof.Machine.execSetPassTiming tag items s
  | .setGuard tag span items => Sys2Proof.Machine.execSetGuard tag span items s
  | .bankSetup tag rate => Sys2Proof.Machine.execBankSetup tag rate s
  | .loadCue tag key items => Sys2Proof.Machine.execLoadCue tag key items s
  | .dropCue tag key => Sys2Proof.Machine.execDropCue tag key s
  | .clearBank tag => Sys2Proof.Machine.execClearBank tag s
  | .switchBank tag => Sys2Proof.Machine.execSwitchBank tag s
  | .cancelSwitch tag => Sys2Proof.Machine.execCancelSwitch tag s
  | .updateCue tag key edit => Sys2Proof.Machine.execUpdateCue tag key edit s
  | .readCue tag selector key => Sys2Proof.Machine.execReadCue tag selector key s
  | .listCues tag selector index => Sys2Proof.Machine.execListCues tag selector index s
  | .cueState tag key => Sys2Proof.Machine.execCueState tag key s
  | .armTake tag key tracks => Sys2Proof.Machine.execArmTake tag key tracks s
  | .disarm tag which => Sys2Proof.Machine.execDisarm tag which s
  | .abortTake tag which => Sys2Proof.Machine.execAbortTake tag which s
  | .readTake tag which => Sys2Proof.Machine.execReadTake tag which s
  | .collectTakes tag number => Sys2Proof.Machine.execCollectTakes tag number s
  | .clearSlots tag which => Sys2Proof.Machine.execClearSlots tag which s
  | .readSlots tag key => Sys2Proof.Machine.execReadSlots tag key s
  | .startPass tag items => Sys2Proof.Machine.execStartPass tag items s
  | .stopCycle tag => Sys2Proof.Machine.execStopCycle tag s
  | .abandonPass tag => Sys2Proof.Machine.execAbandonPass tag s
  | .readFaults tag => Sys2Proof.Machine.execReadFaults tag s
  | .clearFault tag slot => Sys2Proof.Machine.execClearFault tag slot s
  | .clearOverflow tag => Sys2Proof.Machine.execClearOverflow tag s
  | .controlByteReceived byte now => Sys2Proof.Machine.execControlByteReceived byte now s
  | .transportCharacterReceived char now => Sys2Proof.Machine.execTransportCharacterReceived char now s

end Sys2Proof.Machine
end

