-- ==== Sys2Proof/Machine/Step.lean ====
section
/-! DEFINITION. The step: the command at the front of the queue, or one microsecond of the clock when none waits. -/

namespace Sys2Proof.Machine

/-- One microsecond passes (02 R16; log 1). -/
def State.tick (s : State) : State := elapseTo (s.counter + 1) s

/-- The command at the front of the queue is taken and performed with the rest of the queue waiting; on an empty queue
one microsecond passes (log 1). -/
def step (s : State) : Host.Outcome State Fault Refusal :=
  match s.pending with
  | [] => .next s.tick
  | c :: rest => exec c { s with pending := rest }

/-- The state with the command that a word spells at the front of its queue; the table gives no row any bits, so no word
spells one (log 4). -/
def State.withFetchWord (s : State) (nbits w : Nat) : State :=
  match Sys2Proof.decodeTableWord nbits w with
  | none => s
  | some i => { s with pending := i :: s.pending }

end Sys2Proof.Machine
end

