-- ==== Sys2Proof/Safety.lean ====
section
/-! DEFINITION. What the claims are stated in: when a request can be taken, the states its handling passes through, what
an event leaves alone, and the bounds and agreements that every step keeps. The engine has no unsafe run of its own: no
command stops it. -/

namespace Sys2Proof.Machine

/-! ### Requests (11 R189) -/

/-- The handler can take a request now: the reply queue has room, and the frame is the oldest of the intake or arrives at
an empty one (11 R189; log 3). -/
def State.canTake (s : State) (i : Instr) : Bool :=
  match requestFrame i with
  | none => false
  | some f =>
    decide (s.link.replies.length < 8) && (s.link.intake.isEmpty || decide (s.link.intake.head? = some f))

/-- The state once the handler has taken the oldest frame, if one waited. -/
def State.taken (s : State) : State := { s with link := { s.link with intake := s.link.intake.tail } }

/-- The state with a reply at the newest end of the reply queue. -/
def State.answered (s : State) (kind tag : Byte) (body : List Byte) : State :=
  { s with link := { s.link with replies := s.link.replies ++ [{ kind, tag, body }] } }

/-- Whether a reply body begins with a refusal: a result code of 3 or more (11 R190). -/
def isRefusal (body : List Byte) : Bool :=
  match body with
  | [] => false
  | c :: _ => decide (3 ≤ c.toNat)

/-- Whether a command is a request or a frame answered MALFORMED (11 R189, R194). -/
def Instr.isRequest (i : Instr) : Bool := (requestFrame i).isSome

/-! ### What an event leaves alone -/

/-- The settings that only requests change: tracking, window, channels, take timing, guards, pass timing, notice mask
(02 R36, 04 R61, 05 R75, 07 R117, R125, 09 R153, 10 R177). -/
def State.sameSettings (s t : State) : Prop :=
  t.tracker.settings = s.tracker.settings ∧ t.window = s.window
    ∧ t.channels.map Channel.settings = s.channels.map Channel.settings
    ∧ t.takes.punchLead = s.takes.punchLead ∧ t.takes.punchTail = s.takes.punchTail
    ∧ t.takes.armWindow = s.takes.armWindow ∧ t.takes.guards = s.takes.guards ∧ t.pass.preroll = s.pass.preroll
    ∧ t.pass.postroll = s.pass.postroll ∧ t.pass.locateTimeout = s.pass.locateTimeout ∧ t.link.mask = s.link.mask

/-- The link port's state that only bytes from the host, requests and the transmitter change: everything but the notice
queue (11 R184). -/
def State.sameLink (s t : State) : Prop :=
  t.link = { s.link with notices := t.link.notices }

/-! ### Bounds and agreements -/

/-- The link port's queues within their bounds (11 R187). -/
def Link.bounded (l : Link) : Prop := l.intake.length ≤ 4 ∧ l.replies.length ≤ 8 ∧ l.notices.length ≤ 32

/-- The fault log's recording order lists each occupied slot once, and the first-pending index names its first slot (10
R172). -/
def FaultLog.coherent (l : FaultLog) : Prop :=
  l.slots.length = 8 ∧ l.order.Nodup ∧ (∀ i, i ∈ l.order ↔ (l.at i).isSome = true) ∧ l.firstPending = l.order.head?

/-- The tracker's speed, direction and class agree with its state, and settle stands only in PLAY (02 R17, R25, R32,
R33). -/
def Tracker.coherent (t : Tracker) : Prop :=
  t.cls = t.classify
    ∧ (match t.state with
        | .locked | .freewheel => 250 ≤ t.speed ∧ t.speed ≤ 4000 ∧ t.heading ≠ .still
        | _ => t.speed = 0 ∧ t.heading = .still)
    ∧ (t.settleEnd.isSome = true ↔ t.cls = .play) ∧ (t.settled = true → t.cls = .play)

/-- The take log's reservations are the entries in use, and its places are not exceeded (07 R115, 08 R142). -/
def State.booked (s : State) : Prop :=
  s.takes.entries.length = 4 ∧ s.log.reservations = s.takes.inUse.length
    ∧ s.log.records.length + s.log.reservations ≤ 256

/-- The take number after a number (08 R141). -/
def takeNumberAfter (n : Nat) : Nat := if n = 65535 then 1 else n + 1

/-- The take log's numbers: from record to record, and from the last one to the next number, each is one more than the one
before, with 1 after 65535; none stands twice; and the collected records are the oldest (08 R141, R143, R144). -/
def TakeLog.numbered (l : TakeLog) : Prop :=
  1 ≤ l.nextNumber ∧ l.nextNumber ≤ 65535
    ∧ (∀ r ∈ l.records, 1 ≤ r.number ∧ r.number ≤ 65535)
    ∧ (∀ (i : Nat) (a b : TakeRecord), l.records[i]? = some a → l.records[i + 1]? = some b →
        b.number = takeNumberAfter a.number)
    ∧ (∀ a : TakeRecord, l.records.getLast? = some a → l.nextNumber = takeNumberAfter a.number)
    ∧ (l.records.map TakeRecord.number).Nodup
    ∧ l.records.Pairwise fun a b => b.collected = true → a.collected = true

/-- The slot table holds at most 512 slots, no two of one key and track, and the owner of each provisional slot is an entry
in use of the slot's key that holds its track and has not opened it (08 R146, R147). -/
def State.slotsAgree (s : State) : Prop :=
  s.slots.length ≤ 512 ∧ (s.slots.Pairwise fun a b => a.key ≠ b.key ∨ a.track ≠ b.track)
    ∧ ∀ y ∈ s.slots, ∀ i : Nat, y.firmness = .provisional i →
        ∃ e : TakeEntry, s.takes.entryAt i = some e ∧ e.key = y.key
          ∧ ∃ x ∈ e.items, x.track = y.track ∧ x.firstOpen = none

/-- Every track that some entry in use holds, entry by entry. -/
def Takes.heldTracks (t : Takes) : List Nat := t.inUse.flatMap fun e => e.items.map TrackItem.track

/-- No track is held twice, every held track is one of the 16, and a gate line is on exactly for a track whose OPEN entry
has that gate OPEN (07 R115, R123). -/
def Takes.coherent (t : Takes) : Prop :=
  t.entries.length = 4 ∧ t.heldTracks.Nodup ∧ (∀ k ∈ t.heldTracks, k < 16)
    ∧ (∀ k, t.gateLines.getLsbD k = true →
        ∃ e ∈ t.inUse, e.opened = true ∧ ∃ x ∈ e.items, x.track = k ∧ x.gate = .opened)
    ∧ ∀ e ∈ t.inUse, ∀ x ∈ e.items, x.gate = .opened → e.opened = true ∧ t.gateLines.getLsbD x.track = true

/-- A bank holds at most 512 records, in table order, with no key twice (03 R45). -/
def Bank.ordered (b : Bank) : Prop :=
  b.cues.length ≤ 512 ∧ (b.cues.map Cue.key).Nodup ∧ b.cues.Pairwise fun x y => x.before y = true

/-- Both banks in order (03 R45). -/
def CueTable.ordered (t : CueTable) : Prop := t.bankA.ordered ∧ t.bankB.ordered

/-- A channel's schedule holds at most 48 entries, no entry stands behind one that it comes before in schedule order (05
R74), and the status map holds no key twice (04 R62). -/
def Channel.fits (c : Channel) : Prop :=
  c.schedule.length ≤ 48 ∧ (c.schedule.Pairwise fun a b => b.before a = false) ∧ (c.map.map MapEntry.key).Nodup

/-- There are eight channels, and every schedule and status map fits (04 R62, 05 R74). -/
def State.schedulesFit (s : State) : Prop := s.channels.length = 8 ∧ ∀ c ∈ s.channels, c.fits

/-- The pass in hand is present exactly while the pass state is not IDLE, and IDLE has no phase deadline (09 R152,
R162). -/
def PassCtl.coherent (p : PassCtl) : Prop := (p.state = .idle ↔ p.inHand = none) ∧ (p.state = .idle → p.deadline = none)

/-! ### Reports and records -/

/-- The place of a report in the order of 02 R34: the lock event, the relocate event, the class change, the settle event,
the advance. That a lock's own relocate event stands behind its lock event is log 44. -/
def ReportKind.rank (k : ReportKind) : Nat :=
  match k with
  | .lock => 0
  | .relocate _ _ => 1
  | .classChange _ _ => 2
  | .settle => 3
  | .advance _ _ _ => 4

/-- A record that a bank of a rate may hold: every item in its range, and its points in the day and apart as 03 R41
gives (03 R40, R41, R43). -/
def Cue.legal (r : Rate) (c : Cue) : Prop :=
  1 ≤ c.key.num ∧ c.key.num ≤ 9999 ∧ c.inPt + 100 ≤ c.outPt ∧ c.outPt ≤ c.inPt + 600000 ∧ c.outPt ≤ r.lastPos
    ∧ (c.streamer = 0 ∨ (8 ≤ c.streamer ∧ c.streamer ≤ 120)) ∧ c.beeps ≤ 4 ∧ 6 ≤ c.interval ∧ c.interval ≤ 50
    ∧ ∀ t, c.text = some t → t ≠ [] ∧ t.length ≤ 96 ∧ ∀ b ∈ t, 0x20 ≤ b.toNat ∧ b.toNat ≤ 0x7E

end Sys2Proof.Machine
end

