-- ==== Sys2Proof/WellFormed.lean ====
section
/-! DEFINITION. Which commands can be carried by the links they arrive on: a text has at most 255 characters and a
payload at most 240 bytes (11 R185, R188), and the characters of a transport answer line exclude the carriage return
that is a command of its own (09 R168). -/

namespace Sys2Proof

/-- A text is sent as one byte of count and that many characters (11 R188). -/
def textFits (t : Option (List Byte)) : Bool :=
  match t with
  | none => true
  | some chars => decide (chars.length ≤ 255)

/-- The bytes a text takes as an optional item: a presence byte, then a count and the characters (11 R188). -/
def textBytes (t : Option (List Byte)) : Nat :=
  match t with
  | none => 1
  | some chars => 2 + chars.length

/-- The bytes of a LOAD_CUE payload: key 3, tag 2, points 10, four bytes, track set 2, text (03 R41). -/
def CueItems.bytes (c : CueItems) : Nat := 21 + textBytes c.text

/-- The bytes of a selected value: none when the field is not selected (03 R56). -/
def selectedBytes {α : Type} (v : Option α) (size : Nat) : Nat :=
  match v with
  | none => 0
  | some _ => size

/-- The bytes of an UPDATE_CUE payload: key 3, field-select set 2, and the selected values (03 R56). -/
def CueEdit.bytes (e : CueEdit) : Nat :=
  5 + selectedBytes e.tag 2 + selectedBytes e.inPt 5 + selectedBytes e.outPt 5 + selectedBytes e.streamer 1
    + selectedBytes e.beeps 1 + selectedBytes e.interval 1 + selectedBytes e.punch 1 + selectedBytes e.tracks 2
    + (match e.text with | none => 0 | some t => textBytes t)

/-- Whether a command can be carried as the manual lays it out. -/
def Instr.wellFormed (i : Instr) : Bool :=
  match i with
  | .loadCue _ _ c => textFits c.text && decide (c.bytes ≤ 240)
  | .updateCue _ _ e => textFits (e.text.getD none) && decide (e.bytes ≤ 240)
  | .malformedRequest _ _ payload => decide (payload.length ≤ 240)
  | .transportCharacterReceived c _ => c != 0x0D
  | .badLength n _ => decide (n.toNat < 2) || decide (242 < n.toNat)
  | _ => true

end Sys2Proof
end

