-- ==== Sys2Proof/Certificates/Slice0/Obligations.lean ====
section
/-! DEFINITION. The statements for the provers, each a Prop about the model. A completion statement has the form
`exec c s = .next t` with `t` written out, so it is also the command's frame: what `t` does not change stays as it was. -/

open Sys2Proof Sys2Proof.Machine

/-! ### The step, power-on and the clock -/

/-- The command at the front of the queue is performed with the rest of the queue waiting. -/
def Obligations.StepPerformsFrontCommand : Prop :=
  ∀ (c : Instr) (rest : List Instr) (s : State),
    step { s with pending := c :: rest } = exec c { s with pending := rest }

/-- With no command waiting, one microsecond passes: the counter rises by 1 modulo 2^32 (02 R16), the tone units' own
timers (06 R97) and the reader's measure of the time since power-on or RESTART (02 R14; its form is log 9) run on, and
nothing else changes. That an empty queue is a microsecond is the model's choice (log 1). -/
def Obligations.EmptyQueueIsOneMicrosecond : Prop :=
  ∀ s : State, s.pending = [] →
    ∃ t, step s = .next t ∧ t.counter = s.counter + 1
      ∧ { t with counter := s.counter, channels := s.channels, reader := s.reader } = s
      ∧ t.reader = { s.reader with sinceCut := min (s.reader.sinceCut + 1) 4294967296 }
      ∧ t.channels = s.channels.map fun c => { c with tone := c.tone.elapse 1 }

/-- POWER_ON gives every block the value its chapter states for power-on: 01 R1, R9, 02 R15 to R17, R36, 03 R39, 04
R61, R62, 05 R75, 06 R95, R102, R106, R107, 07 R115, 08 R139, R146, 09 R152, R153, R168, 10 R172, R178, R179, 11 R184.
The queue of commands goes on (log 27); that the reader measures the time from there is log 9. -/
def Obligations.PowerOnSetsEveryBlock : Prop :=
  ∀ s : State, ∃ t, exec .powerOn s = .next t
    ∧ t.counter = 0 ∧ t.reader.invalidRun = 0 ∧ t.reader.sinceCut = 0
    ∧ t.tracker.settings =
        { offset := 0, lockCount := 4, freewheelLimit := 10, bandLow := 900, bandHigh := 1100, settleSpan := 12 }
    ∧ t.tracker.state = .silent ∧ t.tracker.accepted = none ∧ t.tracker.reference = none ∧ t.tracker.run = 0
    ∧ t.tracker.acqIntervals = [] ∧ t.tracker.repeatRun = 0 ∧ t.tracker.candidate = none ∧ t.tracker.history = []
    ∧ t.tracker.lastArrival = none ∧ t.tracker.speed = 0 ∧ t.tracker.heading = .still ∧ t.tracker.head = 0
    ∧ t.tracker.cls = .none ∧ t.tracker.settleEnd = none ∧ t.tracker.settled = false
    ∧ t.table =
        { bankA := { cues := [], rate := .pal25 }, bankB := { cues := [], rate := .pal25 }, active := .a,
          switchPending := false }
    ∧ t.window = 300 ∧ t.channels.length = 8
    ∧ (∀ (n : Nat) (c : Channel), t.channels[n]? = some c →
        c.settings =
            { enabled := false, filterTag := 0, filterMask := 0, textLead := 48, lane := n, colour := n,
              steady := false, pitch := 1000, level := 10, beepLength := 120 }
          ∧ c.map = [] ∧ c.schedule = [] ∧ c.tone.state = .idle ∧ c.tone.remaining = 0 ∧ c.tone.holders = []
          ∧ c.tone.period = none ∧ c.lamps = { ready := 0, live := 0 } ∧ c.overlay.streamer = none
          ∧ c.overlay.punch = 0 ∧ c.overlay.shown = none)
    ∧ t.video.present = false ∧ t.takes.entries = [none, none, none, none] ∧ t.takes.gateLines = 0
    ∧ t.takes.guards = List.replicate 8 { enabled := false, tracks := 0, base := 0, limit := 0 }
    ∧ t.takes.punchLead = 12 ∧ t.takes.punchTail = 24 ∧ t.takes.armWindow = 120
    ∧ t.log = { records := [], reservations := 0, nextNumber := 1 } ∧ t.slots = []
    ∧ t.pass =
        { state := .idle, number := 0, inHand := none, queued := none, deadline := none, preroll := 150,
          postroll := 50, locateTimeout := 30 }
    ∧ t.transport.outstanding = none ∧ t.transport.waiting = none ∧ t.transport.gathered = []
    ∧ t.faults =
        { slots := List.replicate 8 none, order := [], firstPending := none, overflow := false, owed := false }
    ∧ t.link =
        { receiver := .between, intake := [], replies := [], notices := [],
          mask :=
            { lock := true, motion := false, relocate := true, line := false, cuePassed := true, take := true,
              armLapsed := true, pass := true, bank := true, fault := true },
          held := false, tx := .free }
    ∧ t.pending = s.pending

/-- The state after reset meets every invariant that the statements below carry over each step. -/
def Obligations.ResetMeetsTheInvariants : Prop :=
  State.reset.link.bounded ∧ State.reset.faults.coherent ∧ State.reset.tracker.coherent ∧ State.reset.booked
    ∧ State.reset.log.numbered ∧ State.reset.slotsAgree ∧ State.reset.takes.coherent ∧ State.reset.table.ordered
    ∧ State.reset.schedulesFit ∧ State.reset.pass.coherent

/-! ### Positions and timecode (01) -/

/-- Every count of the day has a label that is well-formed and not skipped and whose count it is, and every such label
is the label of its count (01 R4 to R6). Positions travel unharmed: a stored position of the day leaves as a label (01
R13) that a request carrying it reads back as the same position, unmoved (01 R10 to R12). -/
def Obligations.LabelsAndCountsAgree : Prop :=
  (∀ (r : Rate) (a : Nat), a < r.dayLen →
      (Label.ofCount r a).wellFormed r = true ∧ (Label.ofCount r a).skipped r = false
        ∧ (Label.ofCount r a).count r = a)
    ∧ (∀ (r : Rate) (l : Label), l.wellFormed r = true → l.skipped r = false →
        l.count r < r.dayLen ∧ Label.ofCount r (l.count r) = l)
    ∧ ∀ (r : Rate) (p : Nat), p ≤ r.lastPos → posField r (wirePos r p) = some (p, false)

/-! ### Frames of the control link (11 R185 to R194) -/

/-- A frame has the layout of 11 R185: the lead, the count n, kind, tag, payload, and the check that makes bytes 1 to n+2
sum to a multiple of 256. -/
def Obligations.FramesCarryTheirCheck : Prop :=
  ∀ (kind tag : Byte) (payload : List Byte), payload.length ≤ 240 →
    ∃ n check : Byte,
      frameBytes kind tag payload = 0xB7 :: n :: kind :: tag :: (payload ++ [check])
        ∧ n.toNat = payload.length + 2
        ∧ ((n :: kind :: tag :: (payload ++ [check])).map BitVec.toNat).sum % 256 = 0

/-- Every request is spelled by one frame, and every frame spells one command: a request that the link can carry is the
command of its frame, and the command of any frame is carried by that frame (11 R188, R189, R194). -/
def Obligations.FramesSpellTheirCommands : Prop :=
  (∀ (i : Instr) (f : Frame), i.wellFormed = true → requestFrame i = some f →
      (∀ k t p, i = .malformedRequest k t p → (malformedCause k p).isSome = true) → frameCommand f = i)
    ∧ ∀ f : Frame, requestFrame (frameCommand f) = some f

/-- A frame whose bytes arrive in BETWEEN, evenly spaced by no more than the gap, joins an intake that has room, and
nothing else of the link changes (11 R185 to R187). -/
def Obligations.FrameBytesReachTheIntake : Prop :=
  ∀ (s : State) (kind tag : Byte) (payload : List Byte) (base : Stamp) (d : Nat), payload.length ≤ 240 →
    d ≤ 20000 → s.link.receiver = .between → s.link.intake.length < 4 →
    ((frameBytes kind tag payload).zipIdx.foldl
        (fun t x => receiveByte x.1 (elapseTo (base + BitVec.ofNat 32 (d * x.2)) t)) s).link
      = { s.link with intake := s.link.intake ++ [{ kind, tag, payload }] }

/-- CONTROL_BYTE_RECEIVED and the receiver: in BETWEEN a lead starts a frame, and any byte but a lead, a hold or a go on
is discarded; in IN_FRAME, within the gap, a byte that does not complete the frame is gathered (11 R186). -/
def Obligations.ReceiverGathersBytes : Prop :=
  ∀ (b : Byte) (now : Stamp) (s : State),
    (s.link.receiver = .between → b = 0xB7 →
        exec (.controlByteReceived b now) s =
          .next { elapseTo now s with link := { s.link with receiver := .inFrame [] now } })
      ∧ (s.link.receiver = .between → b ≠ 0xB7 → b ≠ 0xC3 → b ≠ 0xC5 →
          exec (.controlByteReceived b now) s = .next (elapseTo now s))
      ∧ (∀ last : Stamp, s.link.receiver = .inFrame [] last → elapsed last now ≤ 20000 → 2 ≤ b.toNat → b.toNat ≤ 242 →
          exec (.controlByteReceived b now) s =
            .next { elapseTo now s with link := { s.link with receiver := .inFrame [b] now } })
      ∧ ∀ (n : Byte) (g : List Byte) (last : Stamp), s.link.receiver = .inFrame (n :: g) last → elapsed last now ≤ 20000 →
          g.length + 2 ≠ n.toNat + 2 →
          exec (.controlByteReceived b now) s =
            .next { elapseTo now s with link := { s.link with receiver := .inFrame (n :: (g ++ [b])) now } }

/-- FRAME_RECEIVED: with the last byte, a frame whose bytes sum to a multiple of 256 joins an intake that has room, is
answered INTAKE_FULL when the intake is full and the reply queue is not, and is dropped when both are full; a bad check
is answered LINK_ERROR with cause 3 when the reply queue has room (11 R186, R187). -/
def Obligations.LastByteEndsTheFrame : Prop :=
  ∀ (b n k tag : Byte) (p : List Byte) (last now : Stamp) (s : State),
    s.link.receiver = .inFrame (n :: k :: tag :: p) last → p.length + 2 = n.toNat → elapsed last now ≤ 20000 →
    (sumBytes (n :: k :: tag :: (p ++ [b])) = 0 → s.link.intake.length < 4 →
        exec (.frameReceived b now) s =
          .next
            { elapseTo now s with
              link := { s.link with receiver := .between, intake := s.link.intake ++ [⟨k, tag, p⟩] } })
      ∧ (sumBytes (n :: k :: tag :: (p ++ [b])) = 0 → 4 ≤ s.link.intake.length → s.link.replies.length < 8 →
          exec (.frameReceived b now) s =
            .next
              { elapseTo now s with
                link := { s.link with
                  receiver := .between,
                  replies := s.link.replies ++ [⟨if k.toNat < 0x80 then k + 0x80 else 0xFF, tag, [15]⟩] } })
      ∧ (sumBytes (n :: k :: tag :: (p ++ [b])) ≠ 0 → s.link.replies.length < 8 →
          exec (.frameReceived b now) s =
            .next
              { elapseTo now s with
                link := { s.link with receiver := .between, replies := s.link.replies ++ [⟨0xFF, 0, [14, 3]⟩] } })
      ∧ (8 ≤ s.link.replies.length →
          (sumBytes (n :: k :: tag :: (p ++ [b])) = 0 → 4 ≤ s.link.intake.length) →
          exec (.frameReceived b now) s =
            .next { elapseTo now s with link := { s.link with receiver := .between } })

/-- BAD_LENGTH: a count below 2 or above 242 discards the frame at that byte, with LINK_ERROR and cause 2 when the
reply queue has room. LINK_GAP_EXPIRY: a frame that has waited 20,000 µs since its last byte is discarded with cause 1;
a receiver in BETWEEN, or one whose gap has not passed, is left alone. A byte that comes later than that, by whichever
command, finds the frame discarded with cause 1 and is taken in BETWEEN: a lead starts a new frame, a hold holds, a go on
lets a waiting part go, and any other is discarded too (11 R186). That an early expiry changes nothing else is log 2, and
that a byte at the very 20,000th µs still belongs to its frame is log 17. -/
def Obligations.BrokenFramesAreDiscarded : Prop :=
  ∀ (now : Stamp) (s : State) (discarded : Byte → State),
    (∀ cause : Byte,
        discarded cause =
          { elapseTo now s with
            link := { s.link with
              receiver := .between,
              replies :=
                if s.link.replies.length < 8 then s.link.replies ++ [⟨0xFF, 0, [14, cause]⟩] else s.link.replies } }) →
    (∀ (n : Byte) (last : Stamp), s.link.receiver = .inFrame [] last → elapsed last now ≤ 20000 →
        n.toNat < 2 ∨ 242 < n.toNat → exec (.badLength n now) s = .next (discarded 2))
      ∧ (∀ (g : List Byte) (last : Stamp), s.link.receiver = .inFrame g last → 20000 ≤ elapsed last now →
          exec (.linkGapExpiry now) s = .next (discarded 1))
      ∧ (∀ (g : List Byte) (last : Stamp), s.link.receiver = .inFrame g last → elapsed last now < 20000 →
          exec (.linkGapExpiry now) s = .next (elapseTo now s))
      ∧ (s.link.receiver = .between → exec (.linkGapExpiry now) s = .next (elapseTo now s))
      ∧ ∀ (g : List Byte) (last : Stamp) (b : Byte) (t : State), s.link.receiver = .inFrame g last →
          20000 < elapsed last now →
          (b = 0xB7 → t = { discarded 1 with link := { (discarded 1).link with receiver := .inFrame [] now } }) →
          (b = 0xC3 → t = { discarded 1 with link := { (discarded 1).link with held := true } }) →
          (b = 0xC5 → ∀ tx : Transmitter,
            ((∀ (p : List Byte) (ps : List (List Byte)), s.link.tx = .sending none (p :: ps) →
                tx = .sending (some p) ps)
              ∧ ((∀ (p : List Byte) (ps : List (List Byte)), s.link.tx ≠ .sending none (p :: ps)) → tx = s.link.tx)) →
            t = { discarded 1 with link := { (discarded 1).link with held := false, tx } }) →
          (b ≠ 0xB7 → b ≠ 0xC3 → b ≠ 0xC5 → t = discarded 1) →
          exec (.controlByteReceived b now) s = .next t ∧ exec (.frameReceived b now) s = .next t
            ∧ exec (.badLength b now) s = .next t
            ∧ (b = 0xC3 → exec (.hold now) s = .next t) ∧ (b = 0xC5 → exec (.goOn now) s = .next t)

/-- HOLD and GO_ON between frames: the hold state changes, and a part that waited for the go on is sent (11 R186, R192,
R193). -/
def Obligations.HoldAndGoOn : Prop :=
  ∀ (now : Stamp) (s : State), s.link.receiver = .between →
    exec (.hold now) s = .next { elapseTo now s with link := { s.link with held := true } }
      ∧ ((∀ (p : List Byte) (ps : List (List Byte)), s.link.tx ≠ .sending none (p :: ps)) →
          exec (.goOn now) s = .next { elapseTo now s with link := { s.link with held := false } })
      ∧ ∀ (p : List Byte) (ps : List (List Byte)), s.link.tx = .sending none (p :: ps) →
          exec (.goOn now) s =
            .next { elapseTo now s with link := { s.link with held := false, tx := .sending (some p) ps } }

/-- A body is cut into pieces of 238 bytes, the last holding the rest, and each travels in a frame of the reply's kind
and tag behind its part number and its more flag (11 R191). -/
def Obligations.ReplyPartsRejoin : Prop :=
  ∀ r : Reply, ∃ ps : List (List Byte),
    ps ≠ [] ∧ ps.flatten = r.body ∧ (∀ p ∈ ps, p.length ≤ 238) ∧ (∀ p ∈ ps.dropLast, p.length = 238)
      ∧ (1 < ps.length → ps.getLast? ≠ some [])
      ∧ r.frames.length = ps.length
      ∧ ∀ (k : Nat) (p : List Byte), ps[k]? = some p →
          r.frames[k]? =
            some
              (frameBytes r.kind r.tag
                (BitVec.ofNat 8 k :: (if k + 1 < ps.length then 1 else 0) :: p))

/-- TRANSMIT_CHOOSE: a FREE transmitter that is not held takes the oldest reply, else the oldest notice; it starts the
first frame and keeps the reply's further parts. Held, sending, or with nothing queued, it does nothing (11 R192,
R193). -/
def Obligations.TransmitterChooses : Prop :=
  ∀ (now : Stamp) (s : State),
    (s.link.tx = .free → s.link.held = false →
        ∀ (r : Reply) (rest : List Reply) (f : List Byte) (fs : List (List Byte)), s.link.replies = r :: rest →
        r.frames = f :: fs →
        exec (.transmitChoose now) s =
          .next { elapseTo now s with link := { s.link with replies := rest, tx := .sending (some f) fs } })
      ∧ (s.link.tx = .free → s.link.held = false → s.link.replies = [] →
          ∀ (n : NoticeFrame) (rest : List NoticeFrame), s.link.notices = n :: rest →
          exec (.transmitChoose now) s =
            .next
              { elapseTo now s with
                link := { s.link with notices := rest, tx := .sending (some (frameBytes n.kind 0 n.payload)) [] } })
      ∧ ((s.link.held = true ∨ s.link.tx ≠ .free ∨ (s.link.replies = [] ∧ s.link.notices = [])) →
          exec (.transmitChoose now) s = .next (elapseTo now s))

/-- TRANSMIT_FRAME_END: after the last frame the transmitter is FREE; otherwise the next part is sent, or waits for a go
on while the link is held (11 R192, R193; log 32). -/
def Obligations.TransmitterEndsFrames : Prop :=
  ∀ (now : Stamp) (f : List Byte) (s : State),
    (s.link.tx = .sending (some f) [] →
        exec (.transmitFrameEnd now) s = .next { elapseTo now s with link := { s.link with tx := .free } })
      ∧ ∀ (p : List Byte) (ps : List (List Byte)), s.link.tx = .sending (some f) (p :: ps) →
          exec (.transmitFrameEnd now) s =
            .next
              { elapseTo now s with
                link := { s.link with
                  tx := if s.link.held then .sending none (p :: ps) else .sending (some p) ps } }

/-! ### Handling requests (11 R189, R190) -/

/-- Each request that is handled receives exactly one reply: it joins the newest end of the reply queue with the
request's kind plus 0x80 (0xFF for a kind of 0x80 or above) and the request's tag, and begins with a result code (11
R189, R190). A request that cannot be taken now, with the reply queue full or another frame ahead of it, changes nothing
(that the command then leaves the state as it is is the model's choice, log 3). -/
def Obligations.HandledRequestIsAnsweredOnce : Prop :=
  (∀ (i : Instr) (f : Frame) (s : State), requestFrame i = some f → s.canTake i = true →
      (∀ k t p, i = .malformedRequest k t p → (malformedCause k p).isSome = true) →
      ∃ (t : State) (code : ResultCode) (items : List Byte),
        exec i s = .next t
          ∧ t.link.replies =
              s.link.replies ++
                [⟨if f.kind.toNat < 0x80 then f.kind + 0x80 else 0xFF, f.tag, BitVec.ofNat 8 code.code :: items⟩])
    ∧ ∀ (i : Instr) (s : State), Instr.isRequest i = true → s.canTake i = false → exec i s = .next s

/-- A refused request has no effect: but for its frame leaving the intake and its reply joining the queue, the state
stays as it was (11 R190). -/
def Obligations.RefusedRequestChangesNothing : Prop :=
  ∀ (i : Instr) (s t : State) (r : Reply), s.canTake i = true → exec i s = .next t →
    t.link.replies = s.link.replies ++ [r] → isRefusal r.body = true → t = s.taken.answered r.kind r.tag r.body

/-- MALFORMED_REQUEST: a frame that spells no request is answered MALFORMED and changes nothing else. The cause is 4 for a
kind outside the codes of 11 R194; else 5 for a payload shorter or longer than its items need, whatever its presence and
selector bytes; else 6 for a presence or selector byte above 1 (11 R188, R189). Such a byte leaves the length needed open:
that the cause is 6 when one of its two meanings takes exactly the payload, and that the command changes nothing for a
frame that does spell a request, are the model's choice (log 16). -/
def Obligations.MalformedFrameIsAnswered : Prop :=
  ∀ (k tag : Byte) (answers : List Byte → Byte → Prop)
    (spoilt : List Byte → List (List Byte) → List Byte → Prop),
    (∀ (p : List Byte) (cause : Byte), answers p cause ↔
        ∀ s : State, s.canTake (.malformedRequest k tag p) = true →
          exec (.malformedRequest k tag p) s =
            .next (s.taken.answered (if k.toNat < 0x80 then k + 0x80 else 0xFF) tag [14, cause])) →
    (∀ (head : List Byte) (marked : List (List Byte)) (tail : List Byte), spoilt head marked tail ↔
        ∀ (n : Nat) (mark b : Byte) (item : List Byte), marked[n]? = some (mark :: item) → 1 < b.toNat →
          answers (head ++ (marked.set n (b :: item)).flatten ++ tail) 6) →
    (k.toNat ∉
          [0x01, 0x02, 0x03, 0x04, 0x08, 0x09, 0x0A, 0x0B, 0x0C, 0x0D, 0x10, 0x11, 0x12, 0x13, 0x14, 0x15, 0x16, 0x17,
            0x18, 0x19, 0x20, 0x21, 0x22, 0x23, 0x24, 0x25, 0x26, 0x30, 0x31, 0x32, 0x38, 0x39, 0x3A] →
        ∀ p : List Byte, answers p 4)
      ∧ (∀ (i : Instr) (f : Frame), i.wellFormed = true → requestFrame i = some f → f.kind = k →
          (∀ k' t' p', i ≠ .malformedRequest k' t' p') →
          (∀ (c : Byte) (more : List Byte), answers (f.payload ++ c :: more) 5)
            ∧ (∀ (p more : List Byte) (c : Byte), f.payload = p ++ c :: more → answers p 5)
            ∧ ∀ s : State, exec (.malformedRequest k tag f.payload) s = .next s)
      ∧ (∀ x ∈
            [(0x08, 6, 14), (0x09, 1, 3), (0x0A, 11, 25), (0x0B, 3, 7), (0x0C, 3, 8), (0x0D, 5, 18), (0x20, 4, 6),
              (0x21, 1, 4), (0x22, 1, 4), (0x23, 1, 3), (0x25, 1, 4), (0x30, 7, 18)],
          k.toNat = x.1 → ∀ p : List Byte, p.length < x.2.1 ∨ x.2.2 < p.length → answers p 5)
      ∧ (∀ x ∈ [(0x09, 2), (0x20, 5), (0x21, 2), (0x21, 3), (0x22, 2), (0x22, 3), (0x23, 2), (0x25, 2), (0x25, 3)],
          k.toNat = x.1 → ∀ p : List Byte, p.length = x.2 → answers p 5)
      ∧ (k = 0x08 → ∀ x : TrackingItems,
          spoilt []
            [opt one x.offset, opt one x.lockCount, opt one x.freewheelLimit, opt half x.bandLow, opt half x.bandHigh,
              opt one x.settleSpan]
            [])
      ∧ (k = 0x09 → ∀ w : Option Half, spoilt [] [opt half w] [])
      ∧ (k = 0x0A → ∀ (ch : Byte) (x : ChannelItems),
          spoilt [ch]
            [opt one x.enabled, opt half x.filterTag, opt half x.filterMask, opt one x.textLead, opt one x.lane,
              opt one x.colour, opt one x.toneMode, opt half x.pitch, opt one x.level, opt half x.beepLength]
            [])
      ∧ (k = 0x0B → ∀ x : TakeTimingItems,
          spoilt [] [opt one x.punchLead, opt one x.punchTail, opt half x.armWindow] [])
      ∧ (k = 0x0C → ∀ x : PassTimingItems,
          spoilt [] [opt half x.preroll, opt half x.postroll, opt one x.locateTimeout] [])
      ∧ (k = 0x0D → ∀ (n : Byte) (x : GuardItems),
          spoilt [n] [opt one x.enabled, opt half x.tracks, opt wirePosItem x.base, opt wirePosItem x.limit] [])
      ∧ (k = 0x11 → ∀ (key : WireKey) (x : CueItems), textFits x.text = true →
          spoilt
            (wireKeyItem key ++ half x.tag ++ wirePosItem x.inPt ++ wirePosItem x.outPt
              ++ [x.streamer, x.beeps, x.interval, x.punch] ++ half x.tracks)
            [opt textItem x.text] [])
      ∧ (k = 0x16 → ∀ (key : WireKey) (e : CueEdit) (text : Option (List Byte)) (head : List Byte),
          e.text = some text → textFits text = true → wireKeyItem key ++ editPayload e = head ++ opt textItem text →
          spoilt head [opt textItem text] [])
      ∧ (k = 0x20 → ∀ (key : WireKey) (x : Option Half), spoilt (wireKeyItem key) [opt half x] [])
      ∧ (k = 0x21 ∨ k = 0x22 ∨ k = 0x25 → ∀ which : KeyOrAll, spoilt [] [keyOrAllPayload which] [])
      ∧ (k = 0x23 → ∀ which : TakeSelector, spoilt [] [selectorPayload which] [])
      ∧ (k = 0x30 → ∀ x : PassItems,
          spoilt [x.mode] [opt wireKeyItem x.first, opt wireKeyItem x.last, opt wirePosItem x.target]
            [x.cycles, x.record, x.queue])

/-- IDENTIFY (11 R195): its reply, and the frame of the reply to the IDENTIFY with tag 5, with the check 0xAA. -/
def Obligations.IdentifyNamesThePart : Prop :=
  (∀ (tag : Byte) (s : State), s.canTake (.identify tag) = true →
      exec (.identify tag) s = .next (s.taken.answered 0x81 tag [0, 0x42, 0x4C, 0x38, 1]))
    ∧ (⟨0x81, 5, [0, 0x42, 0x4C, 0x38, 1]⟩ : Reply).frames =
        [[0xB7, 9, 0x81, 5, 0, 0, 0, 0x42, 0x4C, 0x38, 1, 0xAA]]

/-- GET_STATUS: the snapshot of 11 R196, item by item, taken at the instant of the request; nothing changes. Its named values
are carried by the codes of 11 R188, a rate by that of 01 R1, its numbers most significant byte first, a flag as 0 or 1, its
position as the extended label of 01 R13; the counts of takes are those of the entries in use. -/
def Obligations.GetStatusReportsTheSnapshot : Prop :=
  (∀ (tag : Byte) (s : State), s.canTake (.getStatus tag) = true →
      exec (.getStatus tag) s =
        .next
          (s.taken.answered 0x82 tag
            (b1 0 ++ b1 s.tracker.state.code ++ b1 s.tracker.cls.code ++ flag s.tracker.settled
              ++ wirePosItem (wirePos s.rate s.tracker.head) ++ stampBytes s.counter ++ b2 s.tracker.speed
              ++ b1 s.tracker.heading.code ++ b1 s.table.active.code ++ b1 s.table.activeBank.rate.code
              ++ b2 s.table.stagedBank.cues.length ++ flag s.table.switchPending ++ b1 s.pass.state.code
              ++ b2 s.pass.number ++ b1 s.takes.armedCount ++ b1 s.takes.openCount ++ b1 s.faults.order.length
              ++ flag s.faults.overflow ++ b1 s.link.notices.length ++ flag s.video.present)))
    ∧ ([TrackState.silent, .acquiring, .locked, .freewheel, .parked].map TrackState.code = [0, 1, 2, 3, 4]
        ∧ [MotionClass.none, .still, .play, .spool, .reverse].map MotionClass.code = [0, 1, 2, 3, 4]
        ∧ [Heading.forward, .reverse, .still].map Heading.code = [0, 1, 2]
        ∧ [BankName.a, .b].map BankName.code = [0, 1]
        ∧ [Rate.film24, .film2398, .pal25, .drop2997, .nonDrop2997, .ntsc30].map Rate.code = [0, 1, 2, 3, 4, 5]
        ∧ [PassState.idle, .locating, .rollingUp, .rolling, .ending].map PassState.code = [0, 1, 2, 3, 4]
        ∧ [false, true].map flag = [[0], [1]])
    ∧ (∀ (n : Nat) (t : Stamp) (p : WirePos),
        (n < 256 → (b1 n).map BitVec.toNat = [n]) ∧ (n < 65536 → (b2 n).map BitVec.toNat = [n / 256, n % 256])
          ∧ (stampBytes t).map BitVec.toNat =
              [t.toNat / 16777216, t.toNat / 65536 % 256, t.toNat / 256 % 256, t.toNat % 256]
          ∧ wirePosItem p = [p.hours, p.minutes, p.seconds, p.frames, p.sub])
    ∧ ∀ t : Takes,
        t.armedCount = (t.inUse.filter fun e => !e.opened).length
          ∧ t.openCount = (t.inUse.filter TakeEntry.opened).length
          ∧ ∀ e : TakeEntry, e ∈ t.inUse ↔ some e ∈ t.entries

/-- The intake holds at most 4 frames, the reply queue at most 8 replies, and the notice queue at most 32 notices (11
R187): every step keeps the bounds. -/
def Obligations.LinkQueuesStayBounded : Prop :=
  ∀ s t : State, s.link.bounded → step s = .next t → t.link.bounded


/-! ### Faults and notices (10) -/

/-- A handed fault record is kept in the lowest free slot or lost by the three steps of 10 R174; an offered notice is
dropped, queued, or lost and recorded as NOTICE_OVERFLOW with its channel and key (10 R178); and a FAULT notice that
becomes due is offered, or made owed while FAULT is masked, but never offered for a lost notice (10 R176). That the
NOTICE_OVERFLOW of every lost notice, a lost FIRST notice among them, goes through all three steps of R174, where R176 speaks
of steps 1 and 3, is the model's choice (log 41). A queued notice carries the kind and the payload items of 10 R179, its
positions under the active rate and its named values by the codes of 11 R188. A FAULT notice is built from the log as it
stands after the recording: its cause, the count of occupied slots, the first-pending index or absent, the overflow flag, and
the record in the first-pending slot with its number, or absent (10 R176). -/
def Obligations.FaultsAndNoticesAreKeptOrLost : Prop :=
  (∀ (f : FaultRecord) (l : FaultLog),
      (l.overflow = true → l.record f = (l, none))
        ∧ (∀ i : Nat, l.overflow = false → l.slots[i]? = some none → (∀ j : Nat, j < i → l.slots[j]? ≠ some none) →
            (l.order = [] →
                l.record f =
                  ({ l with slots := l.slots.set i (some f), order := [i], firstPending := some i }, some .first))
              ∧ (l.order ≠ [] →
                  l.record f = ({ l with slots := l.slots.set i (some f), order := l.order ++ [i] }, none)))
        ∧ (l.overflow = false → none ∉ l.slots → l.record f = ({ l with overflow := true }, some .overflow)))
    ∧ (∀ (n : Notice) (s : State),
        (s.link.mask.allows n.kind = false → offer n s = s)
          ∧ (s.link.mask.allows n.kind = true → s.link.notices.length < 32 →
              offer n s = { s with link := { s.link with notices := s.link.notices ++ [n.build s.rate] } })
          ∧ (s.link.mask.allows n.kind = true → 32 ≤ s.link.notices.length → ∀ (l : FaultLog) (due : Option FaultCause),
              s.faults.record
                  { kind := .noticeOverflow, position := if s.tracker.cls = .none then none else some s.tracker.head,
                    channel := n.lostChannel, key := n.lostKey, detail := n.kind.code } = (l, due) →
                offer n s =
                  { s with faults := { l with owed := l.owed || (due.isSome && !s.link.mask.fault) } }))
    ∧ (∀ (r : Rate) (pos : Nat → List Byte), (∀ a : Nat, pos a = wirePosItem (wirePos r a)) →
        (∀ (cls : MotionClass) (p old speed : Nat),
            (Notice.lock p cls).build r = ⟨0x40, pos p ++ b1 cls.code⟩
              ∧ (cls ≠ .none → (Notice.motion cls p speed).build r = ⟨0x41, b1 cls.code ++ 1 :: pos p ++ b2 speed⟩)
              ∧ (Notice.motion .none p speed).build r = ⟨0x41, [0, 0] ++ b2 speed⟩
              ∧ (Notice.relocate old p).build r = ⟨0x42, pos old ++ pos p⟩)
          ∧ (∀ (ch p point : Nat) (k : Key) (out : Bool) (why : PassReason),
              (Notice.line ch k out point p).build r = ⟨0x43, b1 ch ++ keyItem k ++ flag out ++ pos point ++ pos p⟩
                ∧ (Notice.cuePassed ch k why p).build r = ⟨0x44, b1 ch ++ keyItem k ++ b1 why.code ++ pos p⟩)
          ∧ (∀ (num p no e : Nat) (k : Key) (st : TakeStatus) (o : Origin) (disarm : Bool) (why : LapseReason),
              (Notice.take num k st p o no disarm).build r =
                  ⟨0x45, b2 num ++ keyItem k ++ b1 st.code ++ pos p ++ b1 o.code ++ b2 no ++ flag disarm⟩
                ∧ (Notice.armLapsed e k o why).build r = ⟨0x46, b1 e ++ keyItem k ++ b1 o.code ++ b1 why.code⟩)
          ∧ (∀ x : PassNotice,
              (Notice.pass x).build r =
                ⟨0x47,
                  b1 x.reason.code ++ b2 x.number ++ b1 x.mode.code ++ opt keyItem x.first ++ b2 x.ordinal ++ flag x.last
                    ++ flag x.recording ++ opt (fun y : Nat × TakeStatus => b2 y.1 ++ b1 y.2.code) x.result
                    ++ opt (fun y : ResultCode => b1 y.code) x.refusal ++ flag x.queuedDiscarded ++ opt pos x.position⟩)
          ∧ (∀ (letter : BankName) (bank : Rate) (count : Nat) (changed : Bool),
              (Notice.bankDone letter bank count changed).build r =
                  ⟨0x48, 0 :: b1 letter.code ++ b1 bank.code ++ b2 count ++ 1 :: flag changed⟩
                ∧ (Notice.bankCancelled letter bank count).build r =
                  ⟨0x48, 1 :: b1 letter.code ++ b1 bank.code ++ b2 count ++ [0]⟩)
          ∧ ∀ x : FaultNotice,
              (Notice.fault x).build r =
                ⟨0x49,
                  b1 x.cause.code ++ b1 x.count ++ opt b1 x.firstPending ++ flag x.overflow
                    ++ opt
                      (fun y : Nat × FaultRecord =>
                        b1 y.1 ++ b1 y.2.kind.code ++ opt pos y.2.position ++ opt b1 y.2.channel ++ opt keyItem y.2.key
                          ++ b1 y.2.detail)
                      x.record⟩)
    ∧ ([MotionClass.none, .still, .play, .spool, .reverse].map MotionClass.code = [0, 1, 2, 3, 4]
        ∧ [PassReason.skipped, .joinedLate, .settle, .scheduleFull, .interrupted].map PassReason.code = [0, 1, 2, 3, 4]
        ∧ [TakeStatus.complete, .broken, .aborted].map TakeStatus.code = [0, 1, 2]
        ∧ [Origin.host, .pass].map Origin.code = [0, 1] ∧ [BankName.a, .b].map BankName.code = [0, 1]
        ∧ [LapseReason.time, .bank, .pass, .restart].map LapseReason.code = [0, 1, 2, 3]
        ∧ [PassMode.single, .cycle, .run, .locate].map PassMode.code = [0, 1, 2, 3]
        ∧ [PassEnd.done, .armRefused, .keys, .motion, .lost, .transportRefused, .transportSilent, .locateTimeout,
              .abandoned, .restart].map PassEnd.code = [0, 1, 2, 3, 4, 5, 6, 7, 8, 9]
        ∧ [FaultCause.first, .overflow, .owed].map FaultCause.code = [0, 1, 2]
        ∧ [FaultKind.tcRateMismatch, .lockLost, .scheduleOverrun, .videoLost, .transportSilent, .transportRefused,
              .locateTimeout, .noticeOverflow].map FaultKind.code = [1, 2, 3, 4, 5, 6, 7, 8]
        ∧ [ResultCode.ok, .adjusted, .deferred, .busy, .state, .range, .mode, .unknownKey, .full, .slotFull, .logFull,
              .trackBusy, .inProgress, .switchPending, .malformed, .intakeFull].map ResultCode.code
            = [0, 1, 2, 3, 4, 5, 6, 7, 8, 9, 10, 11, 12, 13, 14, 15]
        ∧ [NoticeKind.lock, .motion, .relocate, .line, .cuePassed, .take, .armLapsed, .pass, .bank, .fault].map
            NoticeKind.code = [0x40, 0x41, 0x42, 0x43, 0x44, 0x45, 0x46, 0x47, 0x48, 0x49])
    ∧ (∀ (n : Notice) (ch : Option Nat) (k : Option Key),
        (∀ (a x y : Nat) (q : Key) (out : Bool), n = .line a q out x y → ch = some a ∧ k = some q) →
        (∀ (a x : Nat) (q : Key) (why : PassReason), n = .cuePassed a q why x → ch = some a ∧ k = some q) →
        (∀ (a x y : Nat) (q : Key) (st : TakeStatus) (o : Origin) (b : Bool), n = .take a q st x o y b →
          ch = none ∧ k = some q) →
        (∀ (a : Nat) (q : Key) (o : Origin) (why : LapseReason), n = .armLapsed a q o why → ch = none ∧ k = some q) →
        (∀ x : PassNotice, n = .pass x → ch = none ∧ k = x.first) →
        (n.kind = .lock ∨ n.kind = .motion ∨ n.kind = .relocate ∨ n.kind = .bank ∨ n.kind = .fault →
          ch = none ∧ k = none) →
        n.lostChannel = ch ∧ n.lostKey = k)
    ∧ (∀ (cause : FaultCause) (l : FaultLog),
        (l.firstPending = none →
            l.notice cause =
              .fault
                { cause, count := l.order.length, firstPending := none, overflow := l.overflow, record := none })
          ∧ ∀ i : Nat, l.firstPending = some i →
              (∀ f : FaultRecord, l.slots[i]? = some (some f) →
                  l.notice cause =
                    .fault
                      { cause, count := l.order.length, firstPending := some i, overflow := l.overflow,
                        record := some (i, f) })
                ∧ ((∀ f : FaultRecord, l.slots[i]? ≠ some (some f)) →
                    l.notice cause =
                      .fault
                        { cause, count := l.order.length, firstPending := some i, overflow := l.overflow,
                          record := none }))
    ∧ ∀ (f : FaultRecord) (s : State) (l : FaultLog),
        (s.faults.record f = (l, none) → recordFault f s = { s with faults := l })
          ∧ ∀ c : FaultCause, s.faults.record f = (l, some c) →
              (s.link.mask.fault = false → recordFault f s = { s with faults := { l with owed := true } })
                ∧ (s.link.mask.fault = true → recordFault f s = offer (l.notice c) { s with faults := l })

/-- READ_FAULTS reports the log in recording order and changes nothing (10 R180); CLEAR_FAULT frees an occupied slot, the
rest of the order stands, and the first-pending index names its first slot (10 R175, R181), for a log that agrees with
itself (FaultLogStaysCoherent). -/
def Obligations.FaultSlotsAreReadAndCleared : Prop :=
  ∀ (tag n : Byte) (s : State),
    (s.canTake (.readFaults tag) = true →
        exec (.readFaults tag) s =
          .next
            (s.taken.answered 0xB8 tag
              (b1 0 ++ flag s.faults.overflow ++ flag s.faults.owed ++ opt b1 s.faults.firstPending
                ++ b1 s.faults.order.length
                ++ s.faults.order.flatMap fun i =>
                    match s.faults.at i with
                    | none => []
                    | some f => b1 i ++ f.items s.rate)))
      ∧ (s.canTake (.clearFault tag n) = true → 7 < n.toNat →
          exec (.clearFault tag n) s = .next (s.taken.answered 0xB9 tag [5]))
      ∧ (s.canTake (.clearFault tag n) = true → n.toNat ≤ 7 → s.faults.at n.toNat = none →
          exec (.clearFault tag n) s = .next (s.taken.answered 0xB9 tag [4]))
      ∧ (s.canTake (.clearFault tag n) = true → s.faults.coherent → (s.faults.at n.toNat).isSome = true →
          ∀ order : List Nat, order = (s.faults.order.filter fun i => decide (i ≠ n.toNat)) →
            exec (.clearFault tag n) s =
              .next
                ({ s.taken with
                    faults := { s.faults with
                      slots := s.faults.slots.set n.toNat none, order, firstPending := order.head? } }.answered
                  0xB9 tag (b1 0 ++ b1 order.length ++ opt b1 order.head?)))

/-- CLEAR_OVERFLOW (10 R182): a set flag is cleared and nothing else of the log changes, a clear one is refused with
STATE; with all eight slots occupied, the next fault is discarded, sets the flag again, and makes an OVERFLOW notice
due. -/
def Obligations.OverflowIsClearedAndReturns : Prop :=
  (∀ (tag : Byte) (s : State), s.canTake (.clearOverflow tag) = true →
      (s.faults.overflow = true →
          exec (.clearOverflow tag) s =
            .next
              ({ s.taken with faults := { s.faults with overflow := false } }.answered 0xBA tag
                (b1 0 ++ b1 s.faults.order.length)))
        ∧ (s.faults.overflow = false → exec (.clearOverflow tag) s = .next (s.taken.answered 0xBA tag [4])))
    ∧ ∀ (l : FaultLog) (f : FaultRecord), l.slots.length = 8 → none ∉ l.slots → l.overflow = true →
        { l with overflow := false }.record f = (l, some .overflow)

/-- SET_NOTICES (10 R177): ten items of 0 or 1 replace the mask whole and come back in the reply; any other byte gives
RANGE; a request that enables FAULT while a notice is owed clears the flag and, unless the log is empty with no
overflow, offers one OWED notice. -/
def Obligations.SetNoticesReplacesTheMask : Prop :=
  ∀ (tag : Byte) (items : MaskItems) (s : State), s.canTake (.setNotices tag items) = true →
    ((∃ b ∈ maskPayload items, 1 < b.toNat) →
        exec (.setNotices tag items) s = .next (s.taken.answered 0x83 tag [5]))
      ∧ ((∀ b ∈ maskPayload items, b.toNat ≤ 1) →
          ∃ m : NoticeMask,
            m.item = maskPayload items
              ∧ ((m.fault = false ∨ s.link.mask.fault = true ∨ s.faults.owed = false) →
                  exec (.setNotices tag items) s =
                    .next
                      ({ s.taken with link := { s.taken.link with mask := m } }.answered 0x83 tag
                        (b1 0 ++ maskPayload items ++ flag s.faults.owed)))
              ∧ (m.fault = true → s.link.mask.fault = false → s.faults.owed = true →
                  (s.faults.order = [] ∧ s.faults.overflow = false →
                      exec (.setNotices tag items) s =
                        .next
                          ({ s.taken with
                              link := { s.taken.link with mask := m },
                              faults := { s.faults with owed := false } }.answered
                            0x83 tag (b1 0 ++ maskPayload items ++ flag false)))
                    ∧ (s.faults.order ≠ [] ∨ s.faults.overflow = true →
                        exec (.setNotices tag items) s =
                          .next
                            ((offer (s.faults.notice .owed)
                                { s.taken with
                                  link := { s.taken.link with mask := m },
                                  faults := { s.faults with owed := false } }).answered
                              0x83 tag (b1 0 ++ maskPayload items ++ flag false)))))

/-- The recording order lists each occupied slot once and the first-pending index names its first slot (10 R172, R175):
every step keeps it. -/
def Obligations.FaultLogStaysCoherent : Prop :=
  ∀ s t : State, s.faults.coherent → step s = .next t → t.faults.coherent

/-! ### The play head tracker (02) -/

/-- WORD_ARRIVAL: a word whose decoding began before the last power-on or RESTART is discarded and not counted; an invalid
word is counted, and the eighth in a row records TC_RATE_MISMATCH; a valid word ends the run and changes the tracker, which
reports the change (02 R14, R15, R34; 01 R8; that the command carries how long its decoding took is log 9). A word is invalid
exactly when its label is ill-formed or skipped or its count plus the offset lies outside the day; any other reads as that sum
(01 R8). -/
def Obligations.WordsReachTheTracker : Prop :=
  (∀ (label : WordLabel) (sense : Sense) (took stamp : Stamp) (s : State) (reader : Nat → Reader),
    (∀ run : Nat,
        reader run =
          { invalidRun := run, sinceCut := min (s.reader.sinceCut + elapsed s.counter stamp) 4294967296 }) →
    (s.reader.sinceCut + elapsed s.counter stamp < took.toNat →
        exec (.wordArrival label sense took stamp) s = .next (elapseTo stamp s)
          ∧ (elapseTo stamp s).reader = reader s.reader.invalidRun)
      ∧ (took.toNat ≤ s.reader.sinceCut + elapsed s.counter stamp →
          readWord s.rate s.tracker.settings.offset label = none → s.reader.invalidRun + 1 < 8 →
          exec (.wordArrival label sense took stamp) s =
            .next { elapseTo stamp s with reader := reader (s.reader.invalidRun + 1) })
      ∧ (took.toNat ≤ s.reader.sinceCut + elapsed s.counter stamp →
          readWord s.rate s.tracker.settings.offset label = none → 8 ≤ s.reader.invalidRun + 1 →
          exec (.wordArrival label sense took stamp) s =
            .next
              (recordFault
                { kind := .tcRateMismatch,
                  position := if s.tracker.cls = .none then none else some s.tracker.head,
                  channel := none, key := none, detail := s.rate.code }
                { elapseTo stamp s with reader := reader 0 }))
      ∧ (took.toNat ≤ s.reader.sinceCut + elapsed s.counter stamp →
          ∀ a : Nat, readWord s.rate s.tracker.settings.offset label = some a →
            ∀ (t : Tracker) (ev : TrackEvent), s.tracker.takeWord s.rate { a, sense, stamp } = (t, ev) →
              exec (.wordArrival label sense took stamp) s =
                .next (changeTracker t ev false { elapseTo stamp s with reader := reader 0 })))
    ∧ ∀ (r : Rate) (offset : Int) (label : WordLabel) (l : Label),
        l = { h := label.hours.toNat, m := label.minutes.toNat, s := label.seconds.toNat, f := label.frames.toNat } →
        (readWord r offset label = none ↔
            l.wellFormed r = false ∨ l.skipped r = true ∨ (l.count r : Int) + offset < 0
              ∨ (r.dayLen : Int) ≤ (l.count r : Int) + offset)
          ∧ ∀ a : Nat, readWord r offset label = some a → (a : Int) = (l.count r : Int) + offset

/-- From SILENT, as many consecutive words as the lock count lock the tracker on the last of them: words one frame apart
in one direction, forward or reverse, give LOCKED at that word, with the speed of the last four intervals, and words of one
frame in one direction give PARKED there; no earlier word locks. In ACQUIRING an inconsistent word becomes the reference
word with run length 1 and no intervals, and a consistent one against the reference word's direction lengthens the run,
locks at the lock count, and leaves its own interval alone (02 R18 to R20, R25). -/
def Obligations.ConsecutiveWordsLock : Prop :=
  (∀ (r : Rate) (t : Tracker) (a : Nat) (stamps : List Stamp), t.state = .silent →
    2 ≤ t.settings.lockCount → stamps.length ≤ t.settings.lockCount → stamps ≠ [] →
    ∀ run : (Nat → Sense × Nat) → Tracker × TrackEvent,
      (∀ w : Nat → Sense × Nat,
          run w =
            stamps.zipIdx.foldl
              (fun (acc : Tracker × TrackEvent) x =>
                acc.1.takeWord r { a := (w x.2).2, sense := (w x.2).1, stamp := x.1 })
              (t, TrackEvent.none)) →
      (stamps.length < t.settings.lockCount →
          (run fun i => (.forward, a + i)).2 = .none ∧ (run fun i => (.forward, a + i)).1.state = .acquiring
            ∧ (stamps.length ≤ a + 1 →
                (run fun i => (.reverse, a - i)).2 = .none ∧ (run fun i => (.reverse, a - i)).1.state = .acquiring)
            ∧ ∀ sense : Sense,
                (run fun _ => (sense, a)).2 = .none ∧ (run fun _ => (sense, a)).1.state = .acquiring)
        ∧ (stamps.length = t.settings.lockCount →
            ∀ gaps : List Nat, gaps = List.zipWith elapsed stamps stamps.tail →
            ((run fun i => (.forward, a + i)).2 = .lock
                ∧ (run fun i => (.forward, a + i)).1.state = .locked
                ∧ (run fun i => (.forward, a + i)).1.accepted.map Word.a = some (a + (stamps.length - 1))
                ∧ (run fun i => (.forward, a + i)).1.head = (a + (stamps.length - 1)) * 100
                ∧ (run fun i => (.forward, a + i)).1.heading = .forward
                ∧ (run fun i => (.forward, a + i)).1.history = gaps.drop (gaps.length - 4)
                ∧ (run fun i => (.forward, a + i)).1.speed = speedOf r 0 (gaps.drop (gaps.length - 4)))
              ∧ (stamps.length ≤ a + 1 →
                (run fun i => (.reverse, a - i)).2 = .lock
                  ∧ (run fun i => (.reverse, a - i)).1.state = .locked
                  ∧ (run fun i => (.reverse, a - i)).1.accepted.map Word.a = some (a - (stamps.length - 1))
                  ∧ (run fun i => (.reverse, a - i)).1.head = (a - (stamps.length - 1)) * 100
                  ∧ (run fun i => (.reverse, a - i)).1.heading = .reverse
                  ∧ (run fun i => (.reverse, a - i)).1.history = gaps.drop (gaps.length - 4)
                  ∧ (run fun i => (.reverse, a - i)).1.speed = speedOf r 0 (gaps.drop (gaps.length - 4)))
              ∧ ∀ sense : Sense,
                (run fun _ => (sense, a)).2 = .lock
                  ∧ (run fun _ => (sense, a)).1.state = .parked
                  ∧ (run fun _ => (sense, a)).1.head = a * 100
                  ∧ (run fun _ => (sense, a)).1.heading = .still
                  ∧ (run fun _ => (sense, a)).1.speed = 0
                  ∧ (run fun _ => (sense, a)).1.repeatRun = min (stamps.length - 1) 2))
    ∧ ∀ (r : Rate) (t : Tracker) (w : Word) (seen : Tracker → Tracker), t.state = .acquiring →
        (∀ x : Tracker, seen x = { x with lastArrival := some w.stamp, timeoutFrom := none }) →
        (t.reference = none →
            t.takeWord r w = (seen { t with reference := some w, run := 1, acqRepeats := 0 }, .none))
          ∧ ∀ ref : Word, t.reference = some ref →
              (w.consistent ref.a = false →
                  t.takeWord r w =
                    (seen { t with reference := some w, run := 1, acqIntervals := [], acqRepeats := 0 }, .none))
                ∧ (w.consistent ref.a = true → w.sense ≠ ref.sense →
                    (t.run + 1 < t.settings.lockCount →
                        t.takeWord r w =
                          (seen
                              { t with
                                reference := some w, run := t.run + 1, acqIntervals := [elapsed ref.stamp w.stamp],
                                acqRepeats := 0 },
                            .none))
                      ∧ (t.settings.lockCount ≤ t.run + 1 →
                          t.takeWord r w =
                            (seen
                                { t with
                                  state := .locked, accepted := some w, head := w.a * 100, heading := w.heading,
                                  history := [elapsed ref.stamp w.stamp],
                                  speed := speedOf r t.speed [elapsed ref.stamp w.stamp], repeatRun := 0,
                                  reference := none, run := 0, acqIntervals := [], acqRepeats := 0 },
                              .lock)))

/-- A word in LOCKED, FREEWHEEL and PARKED: one frame on in the same direction advances, and while a candidate is held
one or two frames on is accepted with the speed as it was; a second repeat parks; a word against the direction at the
accepted frame or beyond it reverses; any other is held as a candidate, and a word consistent with a candidate and off
the old track relocates. FREEWHEEL snaps back within two frames and else acquires; PARKED stays for its own frame, locks
one frame beyond and else acquires (02 R21 to R24, R29, R31). A word that acquires, and any in SILENT, becomes the
reference word with run length 1; S is 0, the direction STILL, and neither history nor candidate is left (R19, R29,
R31). One and two frames beyond are counted in the word's own direction, and a consistent word is a repeat or one beyond
(R18). An interval joins the last four of the speed history, and S is Tn times their number over their sum, rounded half
up and held to 250..4000, an interval of 0 taken as 1 (02 R16, R25). -/
def Obligations.WordsMoveTheTracker : Prop :=
  (∀ (r : Rate) (w : Word) (t : Tracker) (seen : Tracker → Tracker),
    (∀ x : Tracker, seen x = { x with lastArrival := some w.stamp, timeoutFrom := none }) →
    (t.state = .silent → t.takeWord r w = (seen (t.toAcquiring w), .none)) ∧
    t.toAcquiring w =
      { t with
        state := .acquiring, reference := some w, run := 1, acqIntervals := [], acqRepeats := 0, speed := 0,
        heading := .still, history := [], candidate := none } ∧
    (∀ acc : Word, t.state = .locked → t.accepted = some acc →
        (t.candidate = none → w.heading = t.heading → w.oneBeyond acc.a = true →
            ∀ h : List Nat, h = pushInterval (elapsed acc.stamp w.stamp) t.history →
              t.takeWord r w =
                (seen
                    { t with
                      accepted := some w, head := w.a * 100, repeatRun := 0, history := h,
                      speed := speedOf r t.speed h },
                  .none))
          ∧ (∀ cand : Word, t.candidate = some cand → w.heading = t.heading →
              w.oneBeyond acc.a = true ∨ w.twoBeyond acc.a = true →
              t.takeWord r w =
                (seen { t with accepted := some w, head := w.a * 100, repeatRun := 0, candidate := none }, .none))
          ∧ (w.heading = t.heading → w.a = acc.a →
              (t.repeatRun = 0 →
                  t.takeWord r w = (seen { t with repeatRun := 1, candidate := none }, .none))
                ∧ (1 ≤ t.repeatRun →
                    t.takeWord r w =
                      (seen
                          { t with
                            state := .parked, heading := .still, speed := 0, history := [], candidate := none,
                            repeatRun := t.repeatRun + 1 },
                        .none)))
          ∧ (w.heading ≠ t.heading → w.a = acc.a ∨ w.oneBeyond acc.a = true →
              t.takeWord r w =
                (seen
                    { t with
                      accepted := some w, head := w.a * 100, repeatRun := 0, candidate := none, heading := w.heading,
                      history := [elapsed acc.stamp w.stamp],
                      speed := speedOf r t.speed [elapsed acc.stamp w.stamp] },
                  .none))
          ∧ (w.a ≠ acc.a → w.oneBeyond acc.a = false →
              (t.candidate = none → t.takeWord r w = (seen { t with candidate := some w }, .none))
                ∧ ∀ cand : Word, t.candidate = some cand → (w.heading ≠ t.heading ∨ w.twoBeyond acc.a = false) →
                    (w.consistent cand.a = true →
                        t.takeWord r w =
                          (seen
                              { t with
                                accepted := some w, head := w.a * 100, repeatRun := 0, candidate := none,
                                heading := w.heading, history := [elapsed cand.stamp w.stamp],
                                speed := speedOf r t.speed [elapsed cand.stamp w.stamp] },
                            .relocate))
                      ∧ (w.consistent cand.a = false →
                          t.takeWord r w = (seen { t with candidate := some w }, .none))))
      ∧ (t.state = .freewheel →
          ((w.heading = t.heading ∧ frameOf t.head ≤ w.a + 2 ∧ w.a ≤ frameOf t.head + 2) →
              t.takeWord r w =
                (seen
                    { t with
                      state := .locked, accepted := some w, head := w.a * 100, repeatRun := 0, candidate := none },
                  .none))
            ∧ (¬ (w.heading = t.heading ∧ frameOf t.head ≤ w.a + 2 ∧ w.a ≤ frameOf t.head + 2) →
                t.takeWord r w = (seen (t.toAcquiring w), .none)))
      ∧ (t.state = .parked →
          (w.a = frameOf t.head → t.takeWord r w = (seen t, .none))
            ∧ (w.oneBeyond (frameOf t.head) = true →
                ∀ last : Stamp, t.lastArrival = some last →
                  t.takeWord r w =
                    (seen
                        { t with
                          state := .locked, accepted := some w, head := w.a * 100, repeatRun := 0, candidate := none,
                          heading := w.heading, history := [elapsed last w.stamp],
                          speed := speedOf r t.speed [elapsed last w.stamp] },
                      .none))
            ∧ (w.a ≠ frameOf t.head → w.oneBeyond (frameOf t.head) = false →
                t.takeWord r w = (seen (t.toAcquiring w), .none))))
    ∧ (∀ (w : Word) (a : Nat),
        (w.sense = .forward →
            w.heading = .forward ∧ (w.oneBeyond a = true ↔ w.a = a + 1) ∧ (w.twoBeyond a = true ↔ w.a = a + 2))
          ∧ (w.sense = .reverse →
              w.heading = .reverse ∧ (w.oneBeyond a = true ↔ w.a + 1 = a) ∧ (w.twoBeyond a = true ↔ w.a + 2 = a))
          ∧ (w.consistent a = true ↔ w.a = a ∨ w.oneBeyond a = true) ∧ frameOf a = a / 100)
    ∧ (∀ (r : Rate) (old : Nat) (history : List Nat),
        (history = [] → speedOf r old history = old)
          ∧ (history ≠ [] → ∀ n sum : Nat, n = history.length → sum = (history.map fun d => if d = 0 then 1 else d).sum →
              ∃ q : Nat, 2 * q * sum ≤ 2 * r.tn * n + sum ∧ 2 * r.tn * n < 2 * q * sum + sum
                ∧ speedOf r old history = max 250 (min 4000 q)))
    ∧ (∀ (dt : Nat) (history : List Nat),
        (history.length < 4 → pushInterval dt history = history ++ [dt])
          ∧ (history.length = 4 → pushInterval dt history = history.tail ++ [dt]))
    ∧ [Rate.film24, .film2398, .pal25, .drop2997, .nonDrop2997, .ntsc30].map Rate.tn
        = [41666667, 41708333, 40000000, 33366667, 33366667, 33333333]

/-- A change of the tracker is completed before it is reported: the class follows from the record by the table of 02
R32, every report carries the state after the change, and the reports stand in the order lock, relocate, class change,
settle, advance, each there exactly when its cause holds: a relocate for R24's and for every forward step of more than
500 subframes, and no advance for such a step (02 R24, R27, R33, R34). That a lock with such a step has both events is
log 28, and that its lock event stands first is log 44, both the model's reading. The tracker's new state stands before
any report is taken, a park from FREEWHEEL records its fault first, and then every report reaches the tracker's notices,
the eight channels, the take controller, the pass controller and the cue table, each block its own in their order; the
order between blocks is the arbiter's, which is log 5. Each block acts as its chapter gives, the cue table testing the
safe point at a class change (02 R34; 03 R53). LOCK carries P and the class, RELOCATE both positions, MOTION the new
class, P and S (02 R35). A frame start at the same instant can be taken among these, and draws from the new P what the
events so far have left (06 R113; log 49). -/
def Obligations.ChangesAreReportedInOrder : Prop :=
  (∀ (r : Rate) (t0 t1 t : Tracker) (ev : TrackEvent) (reports : List Report),
    concludeChange r t0 t1 ev = (t, reports) →
    t = { t1 with cls := t1.classify, settleEnd := t.settleEnd, settled := t.settled }
      ∧ (∀ rep ∈ reports, rep.snap = t.snap)
      ∧ (reports.map fun rep => rep.kind.rank).Pairwise (fun a b => a < b)
      ∧ (∀ jump : Bool, jump = decide (t0.head + 500 < t1.head) →
          (.lock ∈ reports.map Report.kind ↔ ev = .lock)
            ∧ (∀ old new : Nat, .relocate old new ∈ reports.map Report.kind ↔
                old = t0.head ∧ new = t1.head ∧ (ev = .relocate ∨ jump = true))
            ∧ (∀ old new : MotionClass, .classChange old new ∈ reports.map Report.kind ↔
                old = t0.cls ∧ new = t.cls ∧ old ≠ new)
            ∧ (∀ (old new : Nat) (step0 : Bool), .advance old new step0 ∈ reports.map Report.kind ↔
                old = t0.head ∧ new = t1.head ∧ old ≠ new ∧ jump = false ∧ step0 = decide (ev ≠ .none))
            ∧ (t.cls = .play → (t0.cls ≠ .play ∨ ev = .relocate ∨ jump = true) →
                t.settleEnd = some (clampDay r (t1.head + t1.settings.settleSpan * 100))
                  ∧ (t.settled = true ↔ clampDay r (t1.head + t1.settings.settleSpan * 100) ≤ t1.head)
                  ∧ (.settle ∈ reports.map Report.kind ↔ t.settled = true))
            ∧ (t.cls = .play → t0.cls = .play → ev ≠ .relocate → jump = false → t0.settled = true →
                t.settled = true ∧ t.settleEnd = t0.settleEnd ∧ .settle ∉ reports.map Report.kind)
            ∧ (t.cls = .play → t0.cls = .play → ev ≠ .relocate → jump = false → t0.settled = false →
                ∀ e : Nat, t0.settleEnd = some e →
                  t.settleEnd = some e ∧ (t.settled = true ↔ t1.head ≠ t0.head ∧ e ≤ t1.head)
                    ∧ (.settle ∈ reports.map Report.kind ↔ t.settled = true))
            ∧ (t.cls ≠ .play → t.settleEnd = none ∧ t.settled = false ∧ .settle ∉ reports.map Report.kind)))
    ∧ (∀ t : Tracker,
        (t.state = .silent ∨ t.state = .acquiring → t.classify = .none)
          ∧ (t.state = .parked → t.classify = .still)
          ∧ (t.state = .locked ∨ t.state = .freewheel →
              (t.heading = .forward →
                  (t.settings.bandLow ≤ t.speed → t.speed ≤ t.settings.bandHigh → t.classify = .play)
                    ∧ (t.speed < t.settings.bandLow ∨ t.settings.bandHigh < t.speed → t.classify = .spool))
                ∧ (t.heading = .reverse → t.classify = .reverse))
          ∧ t.snap =
              { state := t.state, cls := t.cls, head := t.head, speed := t.speed, heading := t.heading,
                settled := t.settled }
          ∧ ∀ (r : Rate) (p : Nat), clampDay r p = min p r.lastPos)
    ∧ (∀ (t new : Tracker) (ev : TrackEvent) (reports : List Report) (s : State),
        concludeChange s.rate s.tracker t ev = (new, reports) →
        changeTracker t ev false s = deliverAll reports { s with tracker := new }
          ∧ changeTracker t ev true s = deliverAll reports (recordLockLost { s with tracker := new })
          ∧ (s.table.switchPending = false → ∀ parked : Bool, (changeTracker t ev parked s).tracker = new))
    ∧ (∀ s : State, deliverAll [] s = s)
    ∧ (∀ (first : Report) (later : List Report) (choices : List Block) (rest : List (List Block)) (s : State),
        (s.arbiter = [] ∧ choices = [] ∧ rest = []) ∨ s.arbiter = choices :: rest →
        ∃ order : List (Block × Report),
          deliverAll (first :: later) s = order.foldl (fun u x => deliver x.1 x.2 u) { s with arbiter := rest }
            ∧ (∀ b : Block,
                b ∈ [Block.tracker, .channel 0, .channel 1, .channel 2, .channel 3, .channel 4, .channel 5, .channel 6,
                    .channel 7, .takes, .pass, .cueTable] →
                ((order.filter fun x => decide (x.1 = b)).map Prod.snd) = first :: later)
            ∧ (order.filter fun x => decide (x.1 = .overlay)).length = (if .overlay ∈ choices then 1 else 0)
            ∧ (∀ x ∈ order, x.1 = .overlay ∨ x.1 ∈ reportBlocks)
            ∧ (choices = [] → order = (first :: later).flatMap fun rep => reportBlocks.map fun b => (b, rep))
            ∧ ∀ (b : Block) (bs : List Block), choices = b :: bs → b ∈ reportBlocks ∨ b = .overlay →
                order.head?.map Prod.fst = some b)
    ∧ (∀ (rep : Report) (s : State),
        deliver .takes rep s = takesReport rep s ∧ deliver .pass rep s = passReport rep s
          ∧ (∀ (n : Nat) (c d : Channel) (es : List Emit), s.channels[n]? = some c →
              c.takeReport
                  { no := n, cues := s.cues, window := s.window, present := s.video.present, now := s.counter,
                    rate := s.rate } rep = (d, es) →
              deliver (.channel n) rep s = emitAll es { s with channels := s.channels.set n d })
          ∧ (∀ old new : MotionClass, rep.kind = .classChange old new →
              deliver .tracker rep s = offer (.motion new rep.snap.head rep.snap.speed) s
                ∧ (s.table.switchPending = true → s.safePoint = true → deliver .cueTable rep s = completeSwitch s)
                ∧ (s.table.switchPending = false ∨ s.safePoint = false → deliver .cueTable rep s = s))
          ∧ ((∀ old new : MotionClass, rep.kind ≠ .classChange old new) → deliver .cueTable rep s = s)
          ∧ (rep.kind = .lock → deliver .tracker rep s = offer (.lock rep.snap.head rep.snap.cls) s)
          ∧ (∀ old new : Nat, rep.kind = .relocate old new → deliver .tracker rep s = offer (.relocate old new) s)
          ∧ (∀ (old new : Nat) (step0 : Bool), rep.kind = .settle ∨ rep.kind = .advance old new step0 →
              deliver .tracker rep s = s)
          ∧ (s.pending.head? = some (.videoFrameStart s.counter) → s.video.ahead = false →
              deliver .overlay rep s =
                { s with
                  video :=
                    { present := true, lastStart := s.counter,
                      drawing := s.channels.flatMap (Channel.draw s.tracker.head), ahead := true },
                  channels := s.channels.map fun c =>
                    { c with overlay := { c.overlay with punch := c.overlay.punch - 1 } } })
          ∧ (s.pending.head? ≠ some (.videoFrameStart s.counter) ∨ s.video.ahead = true → deliver .overlay rep s = s))
    ∧ ∀ (e : Emit) (es : List Emit) (s : State),
        emitAll [] s = s ∧ (∀ n : Notice, e = .notice n → emitAll (e :: es) s = emitAll es (offer n s))
          ∧ ∀ f : FaultRecord, e = .fault f → emitAll (e :: es) s = emitAll es (recordFault f s)

/-- The tracker's timers act when their causes hold and change nothing else otherwise. WORD_TIMEOUT makes ACQUIRING fall
SILENT, with the record of R17's RESTART column, and LOCKED go to FREEWHEEL, or to PARKED at the limit position (02 R18,
R19, R28); PLAY_HEAD_ADVANCE moves P by one subframe toward its place (02 R26; one at a time is log 7), and in FREEWHEEL
the step that reaches the limit position parks; FREEWHEEL_LIMIT_REACHED parks (02 R30). That P moves to the limit
position and parks in one reported change is log 8, and that a command whose cause does not hold changes nothing else is
log 2. A timeout is due when 4·Tn has passed since the last arrival or the stamp that took its place, the whole
microseconds of R18's table; adv is e·S·100 over Tn rounded down, e the elapsed time modulo 2^32; P lies adv beyond the
frame in the direction, held to the day (02 R16, R18, R26; 01 R7). A park from FREEWHEEL records LOCK_LOST with P,
detail 1 for an OPEN take, 2 for a pass in ROLLING, 3 for both, and none for neither (02 R30). -/
def Obligations.TrackerTimersActWhenDue : Prop :=
  (∀ (now : Stamp) (s : State),
    (s.tracker.timeoutDue s.rate now = false → exec (.wordTimeout now) s = .next (elapseTo now s))
      ∧ (s.tracker.timeoutDue s.rate now = true →
          (s.tracker.state = .acquiring →
              exec (.wordTimeout now) s = .next (changeTracker s.tracker.toSilent .none false (elapseTo now s)))
            ∧ (∀ w : Word, s.tracker.state = .locked → s.tracker.accepted = some w →
                (advOf s.rate w.stamp s.tracker.speed now < s.tracker.settings.freewheelLimit * 100 →
                    exec (.wordTimeout now) s =
                      .next
                        (changeTracker
                          { s.tracker with
                            state := .freewheel, candidate := none, repeatRun := 0,
                            head :=
                              headAt s.rate w.a s.tracker.heading (advOf s.rate w.stamp s.tracker.speed now) }
                          .none false (elapseTo now s)))
                  ∧ (s.tracker.settings.freewheelLimit * 100 ≤ advOf s.rate w.stamp s.tracker.speed now →
                      exec (.wordTimeout now) s =
                        .next
                          (changeTracker
                            { s.tracker with
                              state := .parked, candidate := none, repeatRun := 0, heading := .still, speed := 0,
                              history := [],
                              head :=
                                headAt s.rate w.a s.tracker.heading (s.tracker.settings.freewheelLimit * 100) }
                            .none true (elapseTo now s))))
            ∧ (s.tracker.state ≠ .acquiring → s.tracker.state ≠ .locked →
                exec (.wordTimeout now) s = .next (elapseTo now s)))
      ∧ (s.tracker.state = .locked → exec (.freewheelLimitReached now) s = .next (elapseTo now s))
      ∧ (∀ w : Word, s.tracker.accepted = some w →
          (s.tracker.state = .locked →
              ∀ goal : Nat,
                goal = headAt s.rate w.a s.tracker.heading (min (advOf s.rate w.stamp s.tracker.speed now) 99) →
                (goal = s.tracker.head → exec (.playHeadAdvance now) s = .next (elapseTo now s))
                  ∧ (goal ≠ s.tracker.head →
                      exec (.playHeadAdvance now) s =
                        .next
                          (changeTracker { s.tracker with head := oneToward s.tracker.head goal } .none false
                            (elapseTo now s))))
            ∧ (s.tracker.state = .freewheel →
                advOf s.rate w.stamp s.tracker.speed now < s.tracker.settings.freewheelLimit * 100 →
                ∀ goal : Nat, goal = headAt s.rate w.a s.tracker.heading (advOf s.rate w.stamp s.tracker.speed now) →
                (goal = s.tracker.head →
                    exec (.playHeadAdvance now) s = .next (elapseTo now s)
                      ∧ exec (.freewheelLimitReached now) s = .next (elapseTo now s))
                  ∧ (goal ≠ s.tracker.head →
                      exec (.playHeadAdvance now) s =
                          .next
                            (changeTracker { s.tracker with head := oneToward s.tracker.head goal } .none false
                              (elapseTo now s))
                        ∧ exec (.freewheelLimitReached now) s = .next (elapseTo now s)))
            ∧ (s.tracker.state = .freewheel →
                s.tracker.settings.freewheelLimit * 100 ≤ advOf s.rate w.stamp s.tracker.speed now →
                ∀ (goal : Nat) (parks : State),
                goal = headAt s.rate w.a s.tracker.heading (s.tracker.settings.freewheelLimit * 100) →
                parks =
                  changeTracker
                    { s.tracker with
                      state := .parked, heading := .still, speed := 0, history := [], candidate := none, head := goal }
                    .none true (elapseTo now s) →
                exec (.freewheelLimitReached now) s = .next parks
                  ∧ (goal ≤ s.tracker.head + 1 → s.tracker.head ≤ goal + 1 →
                      exec (.playHeadAdvance now) s = .next parks)
                  ∧ (s.tracker.head + 1 < goal ∨ goal + 1 < s.tracker.head →
                      exec (.playHeadAdvance now) s =
                        .next
                          (changeTracker { s.tracker with head := oneToward s.tracker.head goal } .none false
                            (elapseTo now s)))))
      ∧ (s.tracker.state ≠ .locked → s.tracker.state ≠ .freewheel →
          exec (.playHeadAdvance now) s = .next (elapseTo now s)
            ∧ exec (.freewheelLimitReached now) s = .next (elapseTo now s)))
    ∧ (∀ t : Tracker,
        t.toSilent =
          { t with
            state := .silent, accepted := none, reference := none, run := 0, acqIntervals := [], acqRepeats := 0,
            repeatRun := 0, candidate := none, history := [], lastArrival := none, timeoutFrom := none, speed := 0,
            heading := .still, cls := .none, settleEnd := none, settled := false })
    ∧ (∀ p goal : Nat,
        (p < goal → oneToward p goal = p + 1) ∧ (goal < p → oneToward p goal + 1 = p)
          ∧ (goal = p → oneToward p goal = p))
    ∧ (∀ (r : Rate) (now : Stamp) (t : Tracker),
        t.timeoutDue r now = true ↔
          ∃ x : Stamp, (t.timeoutFrom = some x ∨ (t.timeoutFrom = none ∧ t.lastArrival = some x))
            ∧ r.wordTimeout ≤ elapsed x now)
    ∧ [Rate.film24, .film2398, .pal25, .drop2997, .nonDrop2997, .ntsc30].map Rate.wordTimeout
        = [166666, 166833, 160000, 133466, 133466, 133333]
    ∧ (∀ (r : Rate) (x now : Stamp) (speed : Nat),
        (elapsed x now : Int) = ((now.toNat : Int) - x.toNat) % 4294967296
          ∧ advOf r x speed now * r.tn ≤ elapsed x now * speed * 100
          ∧ elapsed x now * speed * 100 < (advOf r x speed now + 1) * r.tn)
    ∧ (∀ (r : Rate) (a adv : Nat),
        headAt r a .forward adv = min (a * 100 + adv) r.lastPos
          ∧ (headAt r a .reverse adv : Int) = max 0 (min ((a * 100 : Nat) - (adv : Int)) r.lastPos))
    ∧ ∀ (s : State) (detail : Nat),
        (s.takes.openCount = 0 → s.pass.state ≠ .rolling → recordLockLost s = s)
          ∧ ((0 < s.takes.openCount ∧ s.pass.state ≠ .rolling ∧ detail = 1)
                ∨ (s.takes.openCount = 0 ∧ s.pass.state = .rolling ∧ detail = 2)
                ∨ (0 < s.takes.openCount ∧ s.pass.state = .rolling ∧ detail = 3) →
              recordLockLost s =
                recordFault
                  { kind := .lockLost, position := some s.tracker.head, channel := none, key := none, detail } s)

/-- SET_TRACKING: a present field replaces its setting, clamped to its range, and an absent one keeps it; the reply is
ADJUSTED exactly when a present value lies outside its range, and carries the six settings (02 R36, 01 R9). A changed
offset acquires anew unless the tracker is SILENT, a freewheel limit that adv has passed parks, anything else leaves the
tracker but for its settings, and the change is reported (02 R34, R37). -/
def Obligations.SetTrackingReplacesAndActs : Prop :=
  ∀ (tag : Byte) (x : TrackingItems) (s : State) (limit : Prop), s.canTake (.setTracking tag x) = true →
    (limit ↔ ∃ (w : Word) (b : Byte), s.tracker.state = .freewheel ∧ s.tracker.accepted = some w
      ∧ x.freewheelLimit = some b ∧ min b.toNat 50 ≠ s.tracker.settings.freewheelLimit
      ∧ min b.toNat 50 * 100 ≤ advOf s.rate w.stamp s.tracker.speed s.counter) →
    ∃ (new : TrackSettings) (adjusted : Bool) (t : Tracker) (parked : Bool),
      exec (.setTracking tag x) s =
          .next
            ((if t = s.tracker ∧ parked = false then s.taken else changeTracker t .none parked s.taken).answered 0x88 tag
              (b1 (if adjusted then 1 else 0) ++ signedItem new.offset ++ b1 new.lockCount ++ b1 new.freewheelLimit
                ++ b2 new.bandLow ++ b2 new.bandHigh ++ b1 new.settleSpan))
        ∧ (x.offset = none → new.offset = s.tracker.settings.offset)
        ∧ (x.lockCount = none → new.lockCount = s.tracker.settings.lockCount)
        ∧ (x.freewheelLimit = none → new.freewheelLimit = s.tracker.settings.freewheelLimit)
        ∧ (x.bandLow = none → new.bandLow = s.tracker.settings.bandLow)
        ∧ (x.bandHigh = none → new.bandHigh = s.tracker.settings.bandHigh)
        ∧ (x.settleSpan = none → new.settleSpan = s.tracker.settings.settleSpan)
        ∧ (∀ b : Byte, x.offset = some b → new.offset = max (-10) (min b.toInt 10))
        ∧ (∀ b : Byte, x.lockCount = some b → new.lockCount = max 2 (min b.toNat 16))
        ∧ (∀ b : Byte, x.freewheelLimit = some b → new.freewheelLimit = min b.toNat 50)
        ∧ (∀ v : Half, x.bandLow = some v → new.bandLow = max 500 (min v.toNat 1000))
        ∧ (∀ v : Half, x.bandHigh = some v → new.bandHigh = max 1000 (min v.toNat 2000))
        ∧ (∀ b : Byte, x.settleSpan = some b → new.settleSpan = min b.toNat 48)
        ∧ (adjusted = true ↔
            (∃ b : Byte, x.offset = some b ∧ (b.toInt < -10 ∨ 10 < b.toInt))
              ∨ (∃ b : Byte, x.lockCount = some b ∧ (b.toNat < 2 ∨ 16 < b.toNat))
              ∨ (∃ b : Byte, x.freewheelLimit = some b ∧ 50 < b.toNat)
              ∨ (∃ v : Half, x.bandLow = some v ∧ (v.toNat < 500 ∨ 1000 < v.toNat))
              ∨ (∃ v : Half, x.bandHigh = some v ∧ (v.toNat < 1000 ∨ 2000 < v.toNat))
              ∨ (∃ b : Byte, x.settleSpan = some b ∧ 48 < b.toNat))
        ∧ t.settings = new
        ∧ (new.offset ≠ s.tracker.settings.offset → s.tracker.state ≠ .silent →
            parked = false
              ∧ t =
                  { s.tracker with
                    settings := new, state := .acquiring, run := 0, reference := none, acqIntervals := [],
                    acqRepeats := 0, history := [], candidate := none, speed := 0, heading := .still,
                    timeoutFrom := some s.counter })
        ∧ (new.offset = s.tracker.settings.offset → limit →
            parked = true
              ∧ t =
                  { s.tracker with
                    settings := new, state := .parked, heading := .still, speed := 0, history := [],
                    candidate := none })
        ∧ (s.tracker.state = .silent ∨ new.offset = s.tracker.settings.offset → ¬ limit →
            parked = false ∧ t = { s.tracker with settings := new })
        ∧ (x = ⟨none, none, none, none, none, none⟩ → new = s.tracker.settings ∧ adjusted = false ∧ t = s.tracker
            ∧ parked = false)

/-- The tracker's class, speed, direction and settle end agree with its state (02 R17, R25, R32, R33): every step keeps
it. -/
def Obligations.TrackerStaysCoherent : Prop :=
  ∀ s t : State, s.tracker.coherent → step s = .next t → t.tracker.coherent

/-! ### Tones, lamps and the picture (06) -/

/-- A burst counts whole milliseconds of its own timer, however the time is cut, from its beep length down to 0 (06 R97;
that the timer starts with the burst is log 11). In BEEP mode a BEEP starts a burst and its first period, or restarts the
burst that runs with its period going on (06 R97). In STEADY mode a BEEP adds the cue to the holder set and an idle unit
enters HELD; LINE_IN removes it, and an empty set returns the unit to IDLE (06 R98). Any other event leaves the unit. A
changed tone mode puts the unit in IDLE, with its output at rest (06 R96, R99). BURST_EXPIRY returns a burst at 0 to IDLE,
TONE_PERIOD_START starts the next period at the channel's present pitch when the one under way is over, and each changes
nothing else (06 R96, R97, R101). That a command whose cause does not hold changes nothing else is log 2. -/
def Obligations.ToneTimersAct : Prop :=
  (∀ (t : Tone) (a b : Nat), (t.elapse a).elapse b = t.elapse (a + b))
    ∧ (∀ (set : ChannelSettings) (now : Stamp) (us : Nat), us ≤ set.beepLength * 1000 →
        ((Tone.idle.beepBurst set now).elapse us).remaining = (set.beepLength * 1000 - us + 999) / 1000)
    ∧ (∀ (set : ChannelSettings) (now : Stamp) (e : FiredEvent) (t : Tone) (idle : Tone),
        idle = { state := .idle, remaining := 0, subMs := 0, holders := [], period := none } →
        (∀ k : Nat, e.kind = .beep k → set.steady = false →
            (t.state = .idle →
                t.take set now e =
                  { t with
                    state := .burst, remaining := set.beepLength, subMs := 0,
                    period := some { pitch := set.pitch, start := now } })
              ∧ (t.state = .burst → t.take set now e = { t with remaining := set.beepLength, subMs := 0 }))
          ∧ (∀ (k : Nat) (holders : List Key), e.kind = .beep k → set.steady = true →
              holders = (if e.key ∈ t.holders then t.holders else t.holders ++ [e.key]) →
              (t.state = .idle →
                  t.take set now e =
                    { t with state := .held, holders, period := some { pitch := set.pitch, start := now } })
                ∧ (t.state = .held → t.take set now e = { t with holders }))
          ∧ (∀ holders : List Key, e.kind = .lineIn → set.steady = true →
              holders = (t.holders.filter fun k => decide (k ≠ e.key)) →
              (e.key ∈ t.holders → holders = [] → t.take set now e = idle)
                ∧ (e.key ∈ t.holders → holders ≠ [] → t.take set now e = { t with holders })
                ∧ (e.key ∉ t.holders → t.take set now e = t))
          ∧ ((∀ k : Nat, e.kind ≠ .beep k) → e.kind ≠ .lineIn ∨ set.steady = false → t.take set now e = t))
    ∧ (∀ (env : ChannelEnv) (p : Nat) (new : ChannelSettings) (c d : Channel) (es : List Emit) (kept : Nat),
        c.changeSettings env p new = ((d, es), kept) → c.settings.steady ≠ new.steady →
        d.tone = { state := .idle, remaining := 0, subMs := 0, holders := [], period := none } ∧ d.toneOutput = none)
    ∧ (∀ c : Channel,
        (c.tone.state = .idle → c.toneOutput = none)
          ∧ ∀ p : TonePeriod, c.tone.state ≠ .idle → c.tone.period = some p →
              c.toneOutput = if c.settings.level = 0 then none else some (p.pitch, c.settings.level))
    ∧ ∀ (n : Fin 8) (now : Stamp) (s : State) (c : Channel), (elapseTo now s).channels[n.val]? = some c →
        (c.tone.state = .burst → c.tone.remaining = 0 →
            exec (.burstExpiry n now) s =
              .next
                { elapseTo now s with
                  channels := (elapseTo now s).channels.set n.val
                    { c with tone := { state := .idle, remaining := 0, subMs := 0, holders := [], period := none } } })
          ∧ (c.tone.state ≠ .burst ∨ c.tone.remaining ≠ 0 →
              exec (.burstExpiry n now) s = .next (elapseTo now s))
          ∧ (∀ p : TonePeriod, c.tone.state ≠ .idle → c.tone.period = some p →
              (1000000 / p.pitch ≤ elapsed p.start now →
                  exec (.tonePeriodStart n now) s =
                    .next
                      { elapseTo now s with
                        channels := (elapseTo now s).channels.set n.val
                          { c with tone := { c.tone with period := some { pitch := c.settings.pitch, start := now } } } })
                ∧ (elapsed p.start now < 1000000 / p.pitch →
                    exec (.tonePeriodStart n now) s = .next (elapseTo now s)))
          ∧ (c.tone.state = .idle → exec (.tonePeriodStart n now) s = .next (elapseTo now s))

/-- VIDEO_FRAME_START sets the flag, draws every channel in ascending number from one sampled P, and lowers each
non-zero punch count by 1 (06 R106, R110, R112). VIDEO_LOST, 100,000 µs after the last frame start with the flag set,
records the fault, with detail 1 exactly when a channel holds a streamer, punch frames or a shown text, clears the flag,
the drawing and the punches, and keeps streamers and texts (06 R106). STREAMER_START sets a lane's streamer, LINE_IN
removes its own cue's and sets two punch frames while video is present, TEXT_SHOW sets the shown text, TEXT_CLEAR
removes its own cue's, and the other kinds leave the lane (06 R108, R109). A channel is drawn punch, bar, text, each in
its lane, the punch white and the others in the colour of the channel's code (04 R70, 06 R105, R110); a later item is
painted over an earlier one. That an early VIDEO_LOST changes nothing else is log 2; the form of the drawing is log 33,
and that a character covers its whole cell is log 36. A frame start that was taken in the course of a change of P at its
instant (06 R113) leaves its own command nothing to do but to clear the mark; that form is log 49. -/
def Obligations.VideoEventsDrawAndClear : Prop :=
  (∀ (now : Stamp) (s : State),
    (s.video.ahead = false ∨ s.video.lastStart ≠ now →
        exec (.videoFrameStart now) s =
          .next
            { elapseTo now s with
              video :=
                { present := true, lastStart := now, drawing := s.channels.flatMap (Channel.draw s.tracker.head),
                  ahead := false },
              channels := (elapseTo now s).channels.map fun c =>
                { c with overlay := { c.overlay with punch := c.overlay.punch - 1 } } })
      ∧ (s.video.ahead = true → s.video.lastStart = now →
          exec (.videoFrameStart now) s = .next { elapseTo now s with video := { s.video with ahead := false } })
      ∧ (s.video.present = true → 100000 ≤ elapsed s.video.lastStart now →
          ∀ x : State,
            x =
              recordFault
                { kind := .videoLost, position := if s.tracker.cls = .none then none else some s.tracker.head,
                  channel := none, key := none, detail := if s.channels.any Channel.holdsOverlay then 1 else 0 }
                (elapseTo now s) →
            exec (.videoLost now) s =
              .next
                { x with
                  video := { s.video with present := false, drawing := [] },
                  channels := (elapseTo now s).channels.map fun c =>
                    { c with overlay := { c.overlay with punch := 0 } } })
      ∧ (s.video.present = false ∨ elapsed s.video.lastStart now < 100000 →
          exec (.videoLost now) s = .next (elapseTo now s)))
    ∧ (∀ (present : Bool) (e : FiredEvent) (o : Overlay) (copy : CueCopy), e.copy = some copy →
        (e.kind = .streamerStart →
            o.take present e = { o with streamer := some { start := e.point, length := copy.streamer, key := e.key } })
          ∧ (e.kind = .lineIn →
              o.take present e =
                { o with
                  streamer := if o.streamer.map Streamer.key = some e.key then none else o.streamer,
                  punch := if copy.punch = true ∧ present = true then 2 else o.punch })
          ∧ (∀ text : List Byte, e.kind = .textShow → copy.text = some text →
              o.take present e = { o with shown := some { text, key := e.key } })
          ∧ (e.kind = .textClear →
              o.take present e =
                { o with shown := if o.shown.map ShownText.key = some e.key then none else o.shown })
          ∧ (∀ k : Nat, e.kind = .lineOut ∨ e.kind = .beep k → o.take present e = o))
    ∧ (∀ c : Channel,
        c.holdsOverlay = true ↔ c.overlay.streamer ≠ none ∨ 0 < c.overlay.punch ∨ c.overlay.shown ≠ none)
    ∧ (∀ (p : Nat) (c : Channel),
        c.draw p =
          (if 0 < c.overlay.punch then [.punch c.settings.lane] else [])
            ++ (c.overlay.streamer.toList.map fun x =>
              DrawItem.bar c.settings.lane (colourOf c.settings.colour) (barEdge p x.start x.length))
            ++ c.overlay.shown.toList.map fun t =>
              DrawItem.text c.settings.lane (colourOf c.settings.colour) (t.text.take 60))
    ∧ (∀ code : Nat, code ≤ 7 →
        [Colour.white, .yellow, .cyan, .green, .magenta, .red, .blue, .orange][code]? = some (colourOf code))
    ∧ (∀ (drawing : List DrawItem) (item : DrawItem) (line pixel : Nat),
        colourAt [] line pixel = none
          ∧ colourAt (drawing ++ [item]) line pixel =
              if item.covers line pixel then some item.colour else colourAt drawing line pixel)
    ∧ ∀ (lane line pixel x : Nat) (colour : Colour) (chars : List Byte),
        (DrawItem.punch lane).colour = .white ∧ (DrawItem.bar lane colour x).colour = colour
          ∧ (DrawItem.text lane colour chars).colour = colour
          ∧ ((DrawItem.punch lane).covers line pixel = true ↔
              135 * lane ≤ line ∧ line < 135 * lane + 135 ∧ pixel < 1920)
          ∧ ((DrawItem.text lane colour chars).covers line pixel = true ↔
              135 * lane + 108 ≤ line ∧ line < 135 * lane + 135 ∧ pixel < 32 * chars.length)

/-- The streamer bar's place (06 R105, R110, R111; the form of the drawing is log 33): its left edge is floor(1896 × e ÷
L) with e = P − start held to 0..L, so it lies within 0..1896, at 0 up to the start point and at 1896 from start point +
L on; it covers 24 pixels of the upper 108 lines of its lane and no others; and the rule's example gives 23. A channel
with a streamer draws it there. -/
def Obligations.BarSweepsTheLane : Prop :=
  (∀ p start len : Nat, 0 < len →
      barEdge p start len = 1896 * (min (p - start) (len * 100)) / (len * 100)
        ∧ barEdge p start len ≤ 1896
        ∧ (p ≤ start → barEdge p start len = 0)
        ∧ (start + len * 100 ≤ p → barEdge p start len = 1896)
        ∧ ∀ q : Nat, p ≤ q → barEdge p start len ≤ barEdge q start len)
    ∧ barEdge 59 0 48 = 23
    ∧ (∀ (lane : Nat) (colour : Colour) (x line pixel : Nat),
        (DrawItem.bar lane colour x).covers line pixel = true ↔
          135 * lane ≤ line ∧ line < 135 * lane + 108 ∧ x ≤ pixel ∧ pixel ≤ x + 23)
    ∧ ∀ (p : Nat) (c : Channel) (x : Streamer), c.overlay.streamer = some x →
        .bar c.settings.lane (colourOf c.settings.colour) (barEdge p x.start x.length) ∈ c.draw p

/-- The lamp driver's four steps for an event (06 R103), the lines that follow its counts, and the cue that fires whole,
which leaves both counts as they were. -/
def Obligations.LampCountsFollowEvents : Prop :=
  (∀ (e : FiredEvent) (l : Lamps) (ready : Nat), l.ready ≤ 48 → l.live ≤ 48 →
      ready = (if e.first then min 48 (l.ready + 1) else l.ready) →
      (e.kind = .lineIn → l.take e = { ready := ready - 1, live := min 48 (l.live + 1) })
        ∧ (e.kind = .lineOut → l.take e = { ready, live := l.live - 1 })
        ∧ (e.kind ≠ .lineIn → e.kind ≠ .lineOut → l.take e = { ready, live := l.live })
        ∧ (l.take e).ready ≤ 48 ∧ (l.take e).live ≤ 48)
    ∧ (∀ c : Channel, (c.readyLamp = true ↔ 0 < c.lamps.ready) ∧ (c.liveLamp = true ↔ 0 < c.lamps.live))
    ∧ (∀ (e f : FiredEvent) (l : Lamps), e.first = true → e.kind = .lineIn → f.first = false → f.kind = .lineOut →
        l.ready < 48 → l.live < 48 → (l.take e).take f = l)
    ∧ ∀ (present : Bool) (now : Stamp) (e : FiredEvent) (c : Channel), (c.present present now e).lamps = c.lamps.take e

/-! ### Settings (05 R75, 07 R117, 09 R153) and channels (04, 05) -/

/-- SET_SCHEDULE, SET_TAKE_TIMING and SET_PASS_TIMING: a present number replaces its setting, held to its range, an
absent one keeps it; the reply is ADJUSTED (1) when a number was out of range and carries the settings; a changed window
runs each enabled channel's expansion against the present P and leaves a disabled one (05 R75, R76, 07 R117, 09 R153).
-/
def Obligations.NumberSettingsAreClamped : Prop :=
  (∀ lo hi old : Nat, clampField lo hi old none = (old, false)
      ∧ ∀ v : Nat, lo ≤ hi →
        clampField lo hi old (some v) =
          if v < lo then (lo, true) else if hi < v then (hi, true) else (v, false))
    ∧ (∀ (tag : Byte) (v : Option Half) (s : State) (w : Nat) (adj : Bool), s.canTake (.setSchedule tag v) = true →
        clampField 50 900 s.window (v.map BitVec.toNat) = (w, adj) →
        (w = s.window →
            exec (.setSchedule tag v) s = .next (s.taken.answered 0x89 tag (b1 (if adj then 1 else 0) ++ b2 w)))
          ∧ (w ≠ s.window →
              exec (.setSchedule tag v) s =
                .next
                  (((List.range 8).foldl expandChannel { s.taken with window := w }).answered 0x89 tag
                    (b1 (if adj then 1 else 0) ++ b2 w))))
    ∧ (∀ (s : State) (n : Nat),
        (s.channels.length ≤ n → expandChannel s n = s)
          ∧ ∀ c : Channel, s.channels[n]? = some c →
              (c.settings.enabled = false → expandChannel s n = s)
                ∧ (c.settings.enabled = true →
                    expandChannel s n =
                      { s with
                        channels :=
                          s.channels.set n
                            (c.expand
                              { no := n, cues := s.cues, window := s.window, present := s.video.present,
                                now := s.counter, rate := s.rate }
                              s.tracker.head) }))
    ∧ (∀ (tag : Byte) (x : TakeTimingItems) (s : State) (a b c : Nat) (i j k : Bool),
        s.canTake (.setTakeTiming tag x) = true →
        clampField 0 50 s.takes.punchLead (x.punchLead.map BitVec.toNat) = (a, i) →
        clampField 0 100 s.takes.punchTail (x.punchTail.map BitVec.toNat) = (b, j) →
        clampField 5 600 s.takes.armWindow (x.armWindow.map BitVec.toNat) = (c, k) →
        exec (.setTakeTiming tag x) s =
          .next
            ({ s.taken with takes := { s.takes with punchLead := a, punchTail := b, armWindow := c } }.answered 0x8B tag
              (b1 (if i || j || k then 1 else 0) ++ b1 a ++ b1 b ++ b2 c)))
    ∧ ∀ (tag : Byte) (x : PassTimingItems) (s : State) (a b c : Nat) (i j k : Bool),
        s.canTake (.setPassTiming tag x) = true →
        clampField 0 1500 s.pass.preroll (x.preroll.map BitVec.toNat) = (a, i) →
        clampField 0 750 s.pass.postroll (x.postroll.map BitVec.toNat) = (b, j) →
        clampField 5 120 s.pass.locateTimeout (x.locateTimeout.map BitVec.toNat) = (c, k) →
        exec (.setPassTiming tag x) s =
          .next
            ({ s.taken with pass := { s.pass with preroll := a, postroll := b, locateTimeout := c } }.answered 0x8C tag
              (b1 (if i || j || k then 1 else 0) ++ b2 a ++ b2 b ++ b1 c))

/-- SET_CHANNEL: a channel outside 0..7 or a flag or mode out of range gives RANGE; otherwise the channel takes its new
settings and the reply names what it kept (04 R65). A present field replaces its setting, a number clamped to its range, an
absent one keeps it, and the reply is ADJUSTED exactly when a present number lies outside its range (R61, R65). A channel
accepts a tag that agrees with its filter tag in the bits of its mask (R63). Enabling gives the channel a status for each cue
it accepts, WAITING exactly when E lies beyond P and else PASSED for SKIPPED, and expands (R68); disabling empties it and
withdraws its outputs (R69); a new filter or text lead keeps each ACTIVE cue with its entries, accepted or not, drops every
other entry, gives every other accepted cue a fresh status, expands, and replies DEFERRED when it kept one (R66); any other
change leaves map and schedule alone (R70). -/
def Obligations.SetChannelReplacesAndRederives : Prop :=
  (∀ (tag ch : Byte) (x : ChannelItems) (s : State), s.canTake (.setChannel tag ch x) = true →
      (s.channels[ch.toNat]? = none → exec (.setChannel tag ch x) s = .next (s.taken.answered 0x8A tag [5]))
        ∧ ∀ c : Channel, s.channels[ch.toNat]? = some c →
            (c.settings.update x = none → exec (.setChannel tag ch x) s = .next (s.taken.answered 0x8A tag [5]))
              ∧ ∀ (new : ChannelSettings) (adj : Bool) (d : Channel) (es : List Emit) (kept : Nat),
                  c.settings.update x = some (new, adj) →
                  c.changeSettings (s.channelEnv ch.toNat) s.tracker.head new = ((d, es), kept) →
                  exec (.setChannel tag ch x) s =
                    .next
                      ((emitAll es { s.taken with channels := s.channels.set ch.toNat d }).answered 0x8A tag
                        (b1 (if 0 < kept then 2 else if adj then 1 else 0) ++ [ch]
                          ++ (flag new.enabled ++ half new.filterTag ++ half new.filterMask ++ b1 new.textLead
                            ++ b1 new.lane ++ b1 new.colour ++ flag new.steady ++ b2 new.pitch ++ b1 new.level
                            ++ b2 new.beepLength)
                          ++ b2 d.map.length ++ b1 d.schedule.length ++ b1 kept)))
    ∧ (∀ (x : ChannelItems) (old : ChannelSettings) (numbers : List (Option Nat × Nat × Nat × Nat)),
        numbers =
          [(x.textLead.map BitVec.toNat, 0, 250, old.textLead), (x.lane.map BitVec.toNat, 0, 7, old.lane),
            (x.colour.map BitVec.toNat, 0, 7, old.colour), (x.pitch.map BitVec.toNat, 300, 3000, old.pitch),
            (x.level.map BitVec.toNat, 0, 15, old.level), (x.beepLength.map BitVec.toNat, 20, 400, old.beepLength)] →
        (old.update x = none ↔ ∃ b : Byte, (x.enabled = some b ∨ x.toneMode = some b) ∧ 1 < b.toNat)
          ∧ ∀ (new : ChannelSettings) (adj : Bool), old.update x = some (new, adj) →
              (x.enabled = none → new.enabled = old.enabled)
                ∧ (∀ b : Byte, x.enabled = some b → (new.enabled = true ↔ b = 1))
                ∧ (x.toneMode = none → new.steady = old.steady)
                ∧ (∀ b : Byte, x.toneMode = some b → (new.steady = true ↔ b = 1))
                ∧ (x.filterTag = none → new.filterTag = old.filterTag)
                ∧ (∀ v : Half, x.filterTag = some v → new.filterTag = v)
                ∧ (x.filterMask = none → new.filterMask = old.filterMask)
                ∧ (∀ v : Half, x.filterMask = some v → new.filterMask = v)
                ∧ (∀ (i lo hi was : Nat) (v : Option Nat), numbers[i]? = some (v, lo, hi, was) →
                    [new.textLead, new.lane, new.colour, new.pitch, new.level, new.beepLength][i]? =
                      some (match v with | none => was | some a => max lo (min a hi)))
                ∧ (adj = true ↔
                    ∃ (a lo hi was : Nat), (some a, lo, hi, was) ∈ numbers ∧ (a < lo ∨ hi < a)))
    ∧ (∀ (tag : Half) (c : Channel) (a b : ChannelSettings),
        (c.acceptsTag tag = true ↔ tag &&& c.settings.filterMask = c.settings.filterTag &&& c.settings.filterMask)
          ∧ (a.rederives b = true ↔
              a.filterTag ≠ b.filterTag ∨ a.filterMask ≠ b.filterMask ∨ a.textLead ≠ b.textLead))
    ∧ ∀ (env : ChannelEnv) (p : Nat) (new : ChannelSettings) (c d : Channel) (es : List Emit) (kept : Nat)
        (toned : Channel → Channel) (fresh : Cue → MapEntry) (accepted : List Cue) (active : List MapEntry),
        c.changeSettings env p new = ((d, es), kept) →
        (∀ u : Channel, toned u = { u with tone := if c.settings.steady = new.steady then u.tone else Tone.idle }) →
        (∀ q : Cue, fresh q =
          { key := q.key, status := if p < earliestPoint q new.textLead then .waiting else .passed .skipped,
            copy := none }) →
        accepted = (env.cues.filter fun q => decide (q.tag &&& new.filterMask = new.filterTag &&& new.filterMask)) →
        active = (c.map.filter fun m => decide (m.status = .active)) →
        d.settings = new
          ∧ (c.settings.enabled = false → new.enabled = true →
              d.map.map MapEntry.key = accepted.map Cue.key ∧ es = [] ∧ kept = 0
                ∧ d =
                    toned
                      (Channel.expand env p { c with settings := new, schedule := [], map := accepted.map fresh }))
          ∧ (c.settings.enabled = true → new.enabled = false →
              d.map = [] ∧ d.schedule = [] ∧ d.tone = Tone.idle ∧ d.lamps = { ready := 0, live := 0 }
                ∧ d.overlay = Overlay.clear ∧ kept = 0
                ∧ es =
                    (keysWhere (fun m => m.status.isActive) c.map).map fun k =>
                      .notice (.cuePassed env.no k .interrupted p))
          ∧ (c.settings.enabled = true → new.enabled = true → c.settings.rederives new = true →
              es = [] ∧ kept = active.length
                ∧ (∀ m ∈ active, m ∈ d.map)
                ∧ (∀ e ∈ c.schedule, e.key ∈ active.map MapEntry.key → e ∈ d.schedule)
                ∧ (∀ m ∈ d.map, m.status = .active → m ∈ active)
                ∧ d =
                    toned
                      (Channel.expand env p
                        { c with
                          settings := new,
                          map :=
                            active
                              ++ (accepted.filter fun q => decide (q.key ∉ active.map MapEntry.key)).map fresh,
                          schedule := c.schedule.filter fun e => decide (e.key ∈ active.map MapEntry.key) })
                ∧ d.lamps = c.lamps ∧ d.overlay = c.overlay)
          ∧ (c.settings.enabled = new.enabled → (new.enabled = true → c.settings.rederives new = false) →
              es = [] ∧ kept = 0 ∧ d = toned { c with settings := new })

/-- What a channel does with its cues. An entry that fires leaves the schedule, is handed to the channel's three
outputs, makes its cue ACTIVE, or DONE on LINE_OUT (a cue no longer accepted then leaves the map), and a LINE event
gives its notice (05 R79, R80, R92; 04 R67). The settled firing fires exactly the entries at or before the new P, in the
order of the schedule, so none of them is left (R80). Cues are passed for SETTLE, for want of room with a fault, for
SKIPPED without a notice, for JOINED_LATE and for INTERRUPTED, each with its entries and in ascending key order (R81 to
R85), and DONE and PASSED cues ahead of P revert (R87). A cue has the events, points and earliest point of R73, the
earliest point of a QUEUED cue that of its held points (log 15), and entries stand in the order of R74, by key in the
order of 03 R40. An expansion pass takes the WAITING cues within the window and ahead of P, in order of earliest point,
in point and key, each whole with all its events and its copy, and ends at the first that does not fit the 48 entries
(R72, R76). An enabled channel takes each report by R88, a disabled one takes none. -/
def Obligations.SettledAdvanceFiresCrossedEntries : Prop :=
  ∀ (env : ChannelEnv) (p : Nat) (c : Channel) (changed : (MapEntry → Prop) → CueStatus → List MapEntry → Prop)
    (left : (MapEntry → Prop) → List Entry → Prop)
    (passed : PassReason → List Key → List Emit),
    (∀ (hit : MapEntry → Prop) (st : CueStatus) (map : List MapEntry), changed hit st map ↔
        map.length = c.map.length
          ∧ ∀ (i : Nat) (m : MapEntry), c.map[i]? = some m →
              (hit m → map[i]? = some { m with status := st, copy := none }) ∧ (¬ hit m → map[i]? = some m)) →
    (∀ (hit : MapEntry → Prop) (schedule : List Entry), left hit schedule ↔
        schedule.Sublist c.schedule
          ∧ ∀ e ∈ c.schedule, (e ∈ schedule ↔ ∀ m ∈ c.map, hit m → m.key ≠ e.key)) →
    (∀ (reason : PassReason) (keys : List Key), passed reason keys =
        keys.map fun k => .notice (.cuePassed env.no k reason p)) →
    (∀ (e : Entry) (m : MapEntry) (d : Channel) (es : List Emit) (ev : FiredEvent), c.entryOf e.key = some m →
        c.fire env p e = (d, es) →
        ev = { kind := e.kind, key := e.key, first := decide (m.status = .queued), point := e.point, copy := m.copy } →
        d.settings = c.settings ∧ d.schedule = c.schedule.erase e
          ∧ d.tone = c.tone.take c.settings env.now ev ∧ d.lamps = c.lamps.take ev
          ∧ d.overlay = c.overlay.take env.present ev
          ∧ (e.kind ≠ .lineOut →
              d.map = c.map.map fun x => if x.key = e.key then { x with status := .active, copy := m.copy } else x)
          ∧ (e.kind = .lineOut → c.acceptsKey env.cues e.key = true →
              d.map = c.map.map fun x => if x.key = e.key then { x with status := .done, copy := none } else x)
          ∧ (e.kind = .lineOut → c.acceptsKey env.cues e.key = false →
              d.map = c.map.filter fun x => decide (x.key ≠ e.key))
          ∧ (e.kind = .lineIn → es = [.notice (.line env.no e.key false e.point p)])
          ∧ (e.kind = .lineOut → es = [.notice (.line env.no e.key true e.point p)])
          ∧ (e.kind ≠ .lineIn → e.kind ≠ .lineOut → es = []))
      ∧ (∀ (e : Entry) (rest : List Entry) (d d' : Channel) (es es' : List Emit), c.schedule = e :: rest →
          e.point ≤ p → c.fire env p e = (d, es) → d.fireCrossed env p = (d', es') →
          c.fireCrossed env p = (d', es ++ es'))
      ∧ ((∀ e ∈ c.schedule, p < e.point) → c.fireCrossed env p = (c, []))
      ∧ (c.fireCrossed env p).1.schedule = (c.schedule.filter fun e => decide (p < e.point))
      ∧ ((c.map.map MapEntry.key).Nodup →
          (∀ (hit : MapEntry → Prop) (d : Channel) (es : List Emit), c.passForSettle env p = (d, es) →
              (∀ m : MapEntry, hit m ↔ m.status = .queued ∧ ∃ e ∈ c.schedule, e.key = m.key ∧ e.point ≤ p) →
              ∃ keys : List Key,
                keys.Pairwise (fun a b => a.before b = true) ∧ (∀ k, k ∈ keys ↔ ∃ m ∈ c.map, m.key = k ∧ hit m)
                  ∧ es = passed .settle keys ∧ changed hit (.passed .settle) d.map ∧ left hit d.schedule
                  ∧ d = { c with map := d.map, schedule := d.schedule })
            ∧ (∀ (hit : MapEntry → Prop) (d : Channel) (es : List Emit), c.passForRoom env p = (d, es) →
                (∀ m : MapEntry, hit m ↔
                  m.status = .waiting
                    ∧ ∃ cue : Cue, findCue env.cues m.key = some cue ∧ earliestPoint cue c.settings.textLead ≤ p) →
                (∀ m ∈ c.map, hit m → ∀ e ∈ c.schedule, e.key ≠ m.key) →
                ∃ cues : List Cue,
                  cues.Pairwise
                      (fun a b =>
                        earliestPoint a c.settings.textLead < earliestPoint b c.settings.textLead
                          ∨ (earliestPoint a c.settings.textLead = earliestPoint b c.settings.textLead
                            ∧ a.key.before b.key = true))
                    ∧ (∀ k, k ∈ cues.map Cue.key ↔ ∃ m ∈ c.map, m.key = k ∧ hit m)
                    ∧ (∀ x ∈ cues, findCue env.cues x.key = some x)
                    ∧ es =
                        (cues.flatMap fun x =>
                          [.fault
                              { kind := .scheduleOverrun, position := some p, channel := some env.no,
                                key := some x.key, detail := c.schedule.length },
                            .notice (.cuePassed env.no x.key .scheduleFull p)])
                    ∧ changed hit (.passed .scheduleFull) d.map
                    ∧ d = { c with map := d.map })
            ∧ (∀ (hit : MapEntry → Prop) (d : Channel), c.passOvertaken env p = d →
                (∀ m : MapEntry, hit m ↔
                  (m.status = .queued ∧ ∃ x : CueCopy, m.copy = some x ∧ x.outPt ≤ p)
                    ∨ (m.status = .waiting ∧ ∃ cue : Cue, findCue env.cues m.key = some cue ∧ cue.outPt ≤ p)) →
                changed hit (.passed .skipped) d.map ∧ left hit d.schedule
                  ∧ d = { c with map := d.map, schedule := d.schedule })
            ∧ (∀ k : Key, c.acceptsKey env.cues k = true ↔
                ∃ q : Cue, findCue env.cues k = some q ∧ c.acceptsTag q.tag = true)
            ∧ (∀ m : MapEntry,
                (m.status = .waiting →
                    outPointOf env m = (findCue env.cues m.key).map Cue.outPt
                      ∧ c.earliestOf env m =
                          (findCue env.cues m.key).map fun q => earliestPoint q c.settings.textLead)
                  ∧ (∀ x : CueCopy, m.status = .queued → m.copy = some x →
                      outPointOf env m = some x.outPt
                        ∧ c.earliestOf env m =
                            some
                              ((((c.schedule.filter fun y => decide (y.key = m.key)).map Entry.point)
                                ++ (if x.text.isSome then [x.inPt - x.textLead * 100] else [])
                                ++ (if 0 < x.streamer then [x.inPt - x.streamer * 100] else [])).foldl min x.inPt))
                  ∧ (m.status ≠ .waiting → m.status ≠ .queued → outPointOf env m = none))
            ∧ (∀ (late behind : MapEntry → Prop) (d : Channel) (es : List Emit), c.joinPlay env p = (d, es) →
                (∀ m : MapEntry, late m ↔
                  (m.status = .waiting ∨ m.status = .queued) ∧ ∃ e : Nat, c.earliestOf env m = some e ∧ e < p) →
                (∀ m : MapEntry, behind m ↔ ∃ o : Nat, outPointOf env m = some o ∧ o ≤ p) →
                ∃ keys : List Key,
                  keys.Pairwise (fun a b => a.before b = true)
                    ∧ (∀ k, k ∈ keys ↔ ∃ m ∈ c.map, m.key = k ∧ late m ∧ ¬ behind m)
                    ∧ es = passed .joinedLate keys ∧ d.map.length = c.map.length
                    ∧ (∀ (i : Nat) (m : MapEntry), c.map[i]? = some m →
                        (late m → ¬ behind m →
                            d.map[i]? = some { m with status := .passed .joinedLate, copy := none })
                          ∧ (late m → behind m → d.map[i]? = some { m with status := .passed .skipped, copy := none })
                          ∧ (¬ late m → d.map[i]? = some m))
                    ∧ left late d.schedule ∧ d = { c with map := d.map, schedule := d.schedule })
            ∧ (∀ (hit : MapEntry → Prop) (d : Channel) (es : List Emit), c.leavePlay env p = (d, es) →
                (∀ m : MapEntry, hit m ↔ m.status = .active) →
                ∃ keys : List Key,
                  keys.Pairwise (fun a b => a.before b = true) ∧ (∀ k, k ∈ keys ↔ ∃ m ∈ c.map, m.key = k ∧ hit m)
                    ∧ es = passed .interrupted keys
                    ∧ (∀ x : MapEntry, x ∈ d.map ↔
                        (x ∈ c.map ∧ ¬ hit x)
                          ∨ ∃ m ∈ c.map, hit m ∧ c.acceptsKey env.cues m.key = true
                            ∧ x = { m with status := .passed .interrupted, copy := none })
                    ∧ left hit d.schedule
                    ∧ d =
                        { c with
                          map := d.map, schedule := d.schedule, tone := Tone.idle, lamps := { ready := 0, live := 0 },
                          overlay := Overlay.clear }))
      ∧ (∀ (hit : MapEntry → Prop),
          (∀ m : MapEntry, hit m ↔
            (m.status = .done ∨ ∃ r : PassReason, m.status = .passed r)
              ∧ ∃ cue : Cue, findCue env.cues m.key = some cue ∧ p < earliestPoint cue c.settings.textLead) →
          changed hit .waiting (c.revert env p).map ∧ c.revert env p = { c with map := (c.revert env p).map })
      ∧ (∀ (q : Cue) (lead : Nat),
          (∀ (kind : EventKind) (point : Nat), (kind, point) ∈ eventPoints q lead ↔
              (kind = .textShow ∧ q.text ≠ none ∧ point = q.inPt - lead * 100)
                ∨ (kind = .streamerStart ∧ 0 < q.streamer ∧ point = q.inPt - q.streamer * 100)
                ∨ (∃ k : Nat, kind = .beep k ∧ 1 ≤ k ∧ k ≤ q.beeps
                  ∧ point = q.inPt - (q.beeps - k + 1) * q.interval * 100)
                ∨ (kind = .lineIn ∧ point = q.inPt) ∨ (kind = .textClear ∧ q.text ≠ none ∧ point = q.outPt)
                ∨ (kind = .lineOut ∧ point = q.outPt))
            ∧ ((eventPoints q lead).map Prod.fst).Nodup
            ∧ earliestPoint q lead ∈ (eventPoints q lead).map Prod.snd
            ∧ ∀ x ∈ eventPoints q lead, earliestPoint q lead ≤ x.2)
      ∧ (∀ a b : Entry,
          (∀ k : Nat,
              [EventKind.textClear, .lineOut, .textShow, .streamerStart, .beep k, .lineIn].map EventKind.rank =
                [1, 2, 3, 4, 5, 6])
            ∧ (a.before b = true ↔
                a.point < b.point
                  ∨ (a.point = b.point
                    ∧ (a.kind.rank < b.kind.rank
                      ∨ (a.kind.rank = b.kind.rank
                        ∧ (a.cueIn < b.cueIn
                          ∨ (a.cueIn = b.cueIn
                            ∧ (a.key.before b.key = true
                              ∨ (a.key = b.key ∧ ∃ i j : Nat, a.kind = .beep i ∧ b.kind = .beep j ∧ i < j))))))))
            ∧ (a.key.before b.key = true ↔
                a.key.num < b.key.num
                  ∨ (a.key.num = b.key.num
                    ∧ ∃ y : Fin 26, b.key.suffix = some y ∧ ∀ x : Fin 26, a.key.suffix = some x → x < y)))
      ∧ ((c.map.map MapEntry.key).Nodup →
          ∀ (d : Channel) (lead : Nat) (due : Cue → Prop), c.expand env p = d → lead = c.settings.textLead →
            (∀ q : Cue, due q ↔
              findCue env.cues q.key = some q ∧ (∃ m ∈ c.map, m.key = q.key ∧ m.status = .waiting)
                ∧ earliestPoint q lead ≤ p + env.window * 100 ∧ p < q.outPt) →
            ∃ taken later : List Cue,
              (taken ++ later).Pairwise
                  (fun a b =>
                    earliestPoint a lead < earliestPoint b lead
                      ∨ (earliestPoint a lead = earliestPoint b lead
                        ∧ (a.inPt < b.inPt ∨ (a.inPt = b.inPt ∧ a.key.before b.key = true))))
                ∧ (∀ q : Cue, q ∈ taken ++ later ↔ due q)
                ∧ d.map.length = c.map.length
                ∧ (∀ (i : Nat) (m : MapEntry), c.map[i]? = some m →
                    (∀ q ∈ taken, q.key = m.key →
                        d.map[i]? =
                          some
                            { m with
                              status := .queued,
                              copy :=
                                some
                                  { inPt := q.inPt, outPt := q.outPt, streamer := q.streamer, punch := q.punch,
                                    text := q.text, textLead := lead } })
                      ∧ ((∀ q ∈ taken, q.key ≠ m.key) → d.map[i]? = some m))
                ∧ d.schedule.Perm
                    (c.schedule
                      ++ taken.flatMap fun q =>
                        (eventPoints q lead).map fun x => { kind := x.1, point := x.2, key := q.key, cueIn := q.inPt })
                ∧ (c.schedule.Pairwise (fun a b => b.before a = false) →
                    d.schedule.Pairwise fun a b => b.before a = false)
                ∧ (taken ≠ [] → d.schedule.length ≤ 48)
                ∧ (∀ (q : Cue) (rest : List Cue), later = q :: rest →
                    48 < d.schedule.length + (eventPoints q lead).length)
                ∧ d = { c with map := d.map, schedule := d.schedule })
      ∧ ∀ (snap : Snap) (old : Nat) (was cls : MotionClass),
          (c.settings.enabled = false → ∀ kind : ReportKind, c.takeReport env { kind, snap } = (c, []))
            ∧ (c.settings.enabled = true →
                c.takeReport env { kind := .lock, snap } = c.rebuild env snap.head
                  ∧ c.takeReport env { kind := .relocate old p, snap } = c.rebuild env p
                  ∧ (cls = .play → c.takeReport env { kind := .classChange was cls, snap } = c.joinPlay env snap.head)
                  ∧ (was = .play → cls ≠ .play →
                      c.takeReport env { kind := .classChange was cls, snap } = c.leavePlay env snap.head)
                  ∧ (was ≠ .play → cls ≠ .play →
                      c.takeReport env { kind := .classChange was cls, snap } = (c, []))
                  ∧ c.takeReport env { kind := .settle, snap } = (c, [])
                  ∧ (∀ step0 : Bool, p ≤ old ∨ step0 = true →
                      c.takeReport env { kind := .advance old p step0, snap } = ((c.revert env p).expand env p, []))
                  ∧ (∀ (d d' : Channel) (es es' : List Emit), old < p → snap.cls = .play →
                      (snap.settled = true → (c.revert env p).fireCrossed env p = (d, es)) →
                      (snap.settled = false → (c.revert env p).passForSettle env p = (d, es)) →
                      d.passForRoom env p = (d', es') →
                      c.takeReport env { kind := .advance old p false, snap } = (d'.expand env p, es ++ es')
                        ∧ (snap.settled = true → ∀ e ∈ (d'.expand env p).schedule, p < e.point))
                  ∧ (old < p → snap.cls ≠ .play →
                      c.takeReport env { kind := .advance old p false, snap } =
                        (((c.revert env p).passOvertaken env p).expand env p, [])))

/-- There are eight channels, no schedule holds more than 48 entries, every schedule stands in schedule order, and no status
map holds a key twice (04 R62, 05 R74): every step keeps it, with banks in which no key stands twice
(BanksStayOrdered). -/
def Obligations.SchedulesStayWithin48 : Prop :=
  ∀ s t : State, s.table.ordered → s.schedulesFit → step s = .next t → t.schedulesFit

/-! ### The cue table (03) -/

/-- BANK_SETUP, DROP_CUE and CLEAR_BANK work on the staged bank alone, which is the one that is not active, and leave
the active bank, the roles and the mark of a pending switch (R39), and with LOAD_CUE they are refused while a switch is
pending, LOAD_CUE with its key behind the refusal (03 R44, R47, R49 to R51). That the letter of the bank stands last in
the replies, behind the count, is log 37, and the widths of their items are log 12. -/
def Obligations.StagedBankRequestsAct : Prop :=
  (∀ (b : Bank) (t : CueTable),
    (t.active = .a →
        t.activeBank = t.bankA ∧ t.stagedBank = t.bankB ∧ t.withStaged b = { t with bankB := b }
          ∧ t.active.other = .b)
      ∧ (t.active = .b →
          t.activeBank = t.bankB ∧ t.stagedBank = t.bankA ∧ t.withStaged b = { t with bankA := b }
            ∧ t.active.other = .a))
  ∧ (∀ (cues : List Cue) (k : Key),
      (findCue cues k = none ↔ ∀ c ∈ cues, c.key ≠ k)
        ∧ ∀ (before after : List Cue) (c : Cue), cues = before ++ c :: after → c.key = k →
            (∀ d ∈ before, d.key ≠ k) → findCue cues k = some c)
  ∧ ∀ (tag rate : Byte) (key : WireKey) (x : CueItems) (s : State),
    (s.table.switchPending = true →
        (s.canTake (.bankSetup tag rate) = true →
            exec (.bankSetup tag rate) s = .next (s.taken.answered 0x90 tag [13]))
          ∧ (s.canTake (.loadCue tag key x) = true →
              exec (.loadCue tag key x) s = .next (s.taken.answered 0x91 tag (13 :: wireKeyItem key)))
          ∧ (s.canTake (.dropCue tag key) = true →
              exec (.dropCue tag key) s = .next (s.taken.answered 0x92 tag [13]))
          ∧ (s.canTake (.clearBank tag) = true →
              exec (.clearBank tag) s = .next (s.taken.answered 0x93 tag [13])))
      ∧ (s.table.switchPending = false → s.canTake (.bankSetup tag rate) = true →
          (5 < rate.toNat → exec (.bankSetup tag rate) s = .next (s.taken.answered 0x90 tag [5]))
            ∧ ∀ r : Rate, r.code = rate.toNat →
                (s.table.stagedBank.cues ≠ [] →
                    exec (.bankSetup tag rate) s = .next (s.taken.answered 0x90 tag [4]))
                  ∧ (s.table.stagedBank.cues = [] →
                      exec (.bankSetup tag rate) s =
                        .next
                          ({ s.taken with
                              table := s.table.withStaged { s.table.stagedBank with rate := r } }.answered
                            0x90 tag (b1 0 ++ b1 s.table.active.other.code ++ [rate]))))
      ∧ (s.table.switchPending = false → s.canTake (.dropCue tag key) = true →
          (keyOf key = none → exec (.dropCue tag key) s = .next (s.taken.answered 0x92 tag [5]))
            ∧ ∀ k : Key, keyOf key = some k →
                (findCue s.table.stagedBank.cues k = none →
                    exec (.dropCue tag key) s = .next (s.taken.answered 0x92 tag [7]))
                  ∧ ∀ old : Cue, findCue s.table.stagedBank.cues k = some old →
                    ∀ rest : List Cue, rest = (s.table.stagedBank.cues.filter fun c => decide (c.key ≠ k)) →
                      exec (.dropCue tag key) s =
                        .next
                          ({ s.taken with
                              table := s.table.withStaged { s.table.stagedBank with cues := rest } }.answered
                            0x92 tag (b1 0 ++ b2 rest.length ++ b1 s.table.active.other.code)))
      ∧ (s.table.switchPending = false → s.canTake (.clearBank tag) = true →
          exec (.clearBank tag) s =
            .next
              ({ s.taken with table := s.table.withStaged { s.table.stagedBank with cues := [] } }.answered
                0x93 tag (b1 0 ++ b2 0 ++ b1 s.table.active.other.code)))

/-- LOAD_CUE with no switch pending: a key, point or flag out of range gives RANGE, a new key in a bank of 512 gives
FULL, both with the key; otherwise a record with every item in its range replaces the key's record in the staged bank
and leaves every other key's record as it was, and the reply carries it (03 R40 to R45, R48, R51). The layout of the reply
is log 12, and that the letter of the bank stands last in it is log 37. Each item in its range is stored as sent and one out of
range as 03 R41 clamps it; a text has its bytes outside 0x20..0x7E replaced and is cut to 96 characters, and one of none is
absent (R43); ADJUSTED is the reply exactly when something was clamped, cut, replaced or moved (R44). A key is out of range by
R40, and a position field that is ill-formed is refused and a skipped label moved to frame 2 of its second (01 R10 to R12). -/
def Obligations.LoadCueStoresALegalRecord : Prop :=
  (∀ (tag : Byte) (key : WireKey) (x : CueItems) (s : State), s.canTake (.loadCue tag key x) = true →
    s.table.switchPending = false →
    (keyOf key = none →
        exec (.loadCue tag key x) s = .next (s.taken.answered 0x91 tag (5 :: wireKeyItem key)))
      ∧ ∀ (k : Key) (bank : Bank), keyOf key = some k → s.table.stagedBank = bank →
          (cueOfItems bank.rate k x = none →
              exec (.loadCue tag key x) s = .next (s.taken.answered 0x91 tag (5 :: wireKeyItem key)))
            ∧ ∀ (cue : Cue) (adj : Bool), cueOfItems bank.rate k x = some (cue, adj) →
                cue.key = k ∧ cue.legal bank.rate
                  ∧ (findCue bank.cues k = none → 512 ≤ bank.cues.length →
                      exec (.loadCue tag key x) s = .next (s.taken.answered 0x91 tag (8 :: wireKeyItem key)))
                  ∧ (findCue bank.cues k ≠ none ∨ bank.cues.length < 512 →
                      ∃ cues : List Cue,
                        findCue cues k = some cue ∧ (∀ q : Key, q ≠ k → findCue cues q = findCue bank.cues q)
                          ∧ exec (.loadCue tag key x) s =
                              .next
                                ({ s.taken with table := s.table.withStaged { bank with cues } }.answered 0x91 tag
                                  (b1 (if adj then 1 else 0) ++ b2 cues.length ++ keyItem k ++ cueItem bank.rate cue
                                    ++ b1 s.table.active.other.code))))
    ∧ (∀ (r : Rate) (k : Key) (x : CueItems),
        (cueOfItems r k x = none ↔
            posField r x.inPt = none ∨ posField r x.outPt = none ∨ 1 < x.punch.toNat
              ∨ ∃ (a b : Nat) (i j : Bool), posField r x.inPt = some (a, i) ∧ posField r x.outPt = some (b, j)
                ∧ (b < a + 100 ∨ a + 600000 < b))
          ∧ ∀ (cue : Cue) (adj : Bool), cueOfItems r k x = some (cue, adj) →
              cue.key = k ∧ cue.tag = x.tag ∧ cue.tracks = x.tracks ∧ (cue.punch = true ↔ x.punch = 1)
                ∧ cue.streamer = (if x.streamer.toNat = 0 then 0 else max 8 (min x.streamer.toNat 120))
                ∧ cue.beeps = min x.beeps.toNat 4 ∧ cue.interval = max 6 (min x.interval.toNat 50)
                ∧ ∃ inMoved outMoved cut : Bool,
                    posField r x.inPt = some (cue.inPt, inMoved) ∧ posField r x.outPt = some (cue.outPt, outMoved)
                      ∧ storeText x.text = (cue.text, cut)
                      ∧ (adj = true ↔
                          inMoved = true ∨ outMoved = true
                            ∨ (0 < x.streamer.toNat ∧ x.streamer.toNat < 8) ∨ 120 < x.streamer.toNat
                            ∨ 4 < x.beeps.toNat ∨ x.interval.toNat < 6 ∨ 50 < x.interval.toNat ∨ cut = true))
    ∧ (storeText none = (none, false) ∧ storeText (some []) = (none, false)
        ∧ ∀ chars : List Byte, chars ≠ [] →
          ∃ (shown : List Byte) (cut : Bool),
            storeText (some chars) = (some shown, cut) ∧ shown.length = min chars.length 96
              ∧ (∀ (i : Nat) (b : Byte), i < 96 → chars[i]? = some b →
                  shown[i]? = some (if 0x20 ≤ b.toNat ∧ b.toNat ≤ 0x7E then b else 0x3F))
              ∧ (cut = true ↔ 96 < chars.length ∨ ∃ b ∈ chars, b.toNat < 0x20 ∨ 0x7E < b.toNat))
    ∧ (∀ w : WireKey,
        (keyOf w = none ↔ w.num.toNat = 0 ∨ 9999 < w.num.toNat ∨ 26 < w.suffix.toNat)
          ∧ ∀ k : Key, keyOf w = some k →
              k.num = w.num.toNat ∧ (k.suffix = none ↔ w.suffix.toNat = 0)
                ∧ ∀ y : Fin 26, k.suffix = some y ↔ w.suffix.toNat = y.val + 1)
    ∧ ∀ (r : Rate) (w : WirePos) (l : Label),
        l = { h := w.hours.toNat, m := w.minutes.toNat, s := w.seconds.toNat, f := w.frames.toNat } →
        (l.wellFormed r = false ∨ 99 < w.sub.toNat → posField r w = none)
          ∧ (l.wellFormed r = true → w.sub.toNat ≤ 99 →
              (l.skipped r = false → posField r w = some (l.count r * 100 + w.sub.toNat, false))
                ∧ (l.skipped r = true →
                    posField r w = some ({ l with f := 2 }.count r * 100 + w.sub.toNat, true)))

/-- SWITCH_BANK is BUSY while a switch is pending, completes at a safe point with OK, and is DEFERRED otherwise; the
safe point holds when the class is not PLAY, no take is OPEN and the pass controller is IDLE, and a test of it completes
a pending switch and changes nothing otherwise; CANCEL_SWITCH clears a pending switch and offers a BANK notice with
outcome CANCELLED, and is refused with STATE when none is pending (03 R52, R53, R55). -/
def Obligations.SwitchWaitsForTheSafePoint : Prop :=
  ∀ (tag : Byte) (s : State),
    ((s.safePoint = true ↔ s.tracker.cls ≠ .play ∧ s.takes.openCount = 0 ∧ s.pass.state = .idle)
      ∧ (s.table.switchPending = true → s.safePoint = true → testSafePoint s = completeSwitch s)
      ∧ (s.table.switchPending = false ∨ s.safePoint = false → testSafePoint s = s))
    ∧ (s.canTake (.switchBank tag) = true →
        (s.table.switchPending = true → exec (.switchBank tag) s = .next (s.taken.answered 0x94 tag [3]))
          ∧ (s.table.switchPending = false →
              (s.tracker.cls = .play ∨ 0 < s.takes.openCount ∨ s.pass.state ≠ .idle →
                  exec (.switchBank tag) s =
                    .next
                      ({ s.taken with table := { s.table with switchPending := true } }.answered 0x94 tag [2]))
                ∧ (s.tracker.cls ≠ .play → s.takes.openCount = 0 → s.pass.state = .idle →
                    ∃ t : State,
                      t = completeSwitch { s.taken with table := { s.table with switchPending := true } }
                        ∧ t.table = { s.table with active := s.table.active.other }
                        ∧ exec (.switchBank tag) s =
                            .next
                              (t.answered 0x94 tag
                                (b1 0 ++ b1 s.table.active.other.code ++ b1 s.table.stagedBank.rate.code)))))
      ∧ (s.canTake (.cancelSwitch tag) = true →
          (s.table.switchPending = true →
              exec (.cancelSwitch tag) s =
                .next
                  ((offer (.bankCancelled s.table.active s.rate s.cues.length)
                      { s.taken with table := { s.table with switchPending := false } }).answered 0x95 tag [0]))
            ∧ (s.table.switchPending = false → exec (.cancelSwitch tag) s = .next (s.taken.answered 0x95 tag [4])))

/-- The completion of a switch (03 R54): the banks change roles, no arm is left, every enabled channel rebuilds against
the new bank and the play head, so that it holds the new bank's cues that it accepts and its outputs are withdrawn, and a
disabled one stays. A rebuild passes the ACTIVE cues for INTERRUPTED, a notice for each in ascending key order, withdraws the
outputs, empties the schedule, builds the map from the accepted cues, WAITING exactly when E lies beyond P and else PASSED for
SKIPPED, and ends with an expansion pass (05 R78). At another rate the tracker is SILENT with its play head kept
and the slot table is empty; at the same rate the tracker stays, and of the slots only the provisional ones of the freed
arms' keys and tracks go (02 R38, 05 R78, R90, 07 R133, 08 R147). Its steps in order are the exchange, the freeing of each
ARMED entry with ARM_LAPSED of reason BANK (in ascending number: log 38), the rebuilds with their notices (in an order of the
arbiter: log 5), at another rate a MOTION notice to NONE unless the class was NONE, and last a BANK notice DONE with the new
active bank's letter, rate and count and whether the rate changed (R54). That the switch moves no other block by the class change
is log 21. -/
def Obligations.SwitchCompletionExchangesTheBanks : Prop :=
  (∀ s t : State, s.takes.entries.length = 4 → s.channels.length = 8 → t = completeSwitch s →
    t.table = { s.table with switchPending := false, active := s.table.active.other }
      ∧ t.cues = s.table.stagedBank.cues
      ∧ t.takes.armedCount = 0 ∧ t.takes.openCount = s.takes.openCount
      ∧ (∀ (n : Nat) (c : Channel), t.channels[n]? = some c → c.settings.enabled = true →
          c.map.map MapEntry.key = (t.cues.filter fun q => c.acceptsTag q.tag).map Cue.key
            ∧ (∀ m ∈ c.map, m.status ≠ .active ∧ m.status ≠ .done)
            ∧ c.tone = Tone.idle ∧ c.lamps = { ready := 0, live := 0 } ∧ c.overlay = Overlay.clear)
      ∧ (∀ (n : Nat) (c : Channel), s.channels[n]? = some c →
          (c.settings.enabled = false → t.channels[n]? = some c)
            ∧ (c.settings.enabled = true →
                t.channels[n]? =
                  some
                    (c.rebuild
                      { no := n, cues := t.cues, window := s.window, present := s.video.present, now := s.counter,
                        rate := t.rate }
                      s.tracker.head).1))
      ∧ (t.rate = s.rate →
          t.tracker = s.tracker ∧ t.slots.Sublist s.slots
            ∧ ∀ y ∈ s.slots,
              (y ∈ t.slots ↔
                y.firmness = .firm
                  ∨ ∀ e ∈ s.takes.inUse, e.opened = false → e.key = y.key → ∀ x ∈ e.items, x.track ≠ y.track))
      ∧ (t.rate ≠ s.rate →
          t.tracker = { Tracker.reset with settings := s.tracker.settings, head := s.tracker.head } ∧ t.slots = []))
    ∧ (∀ (s freed rebuilt last : State) (new : Bank), s.channels.length = 8 → new = s.table.stagedBank →
        freed =
          [0, 1, 2, 3].foldl (fun u i => freeArmed (.lapse .bank) i u)
            { s with table := { s.table with switchPending := false, active := s.table.active.other } } →
        rebuilt = rebuildChannels freed →
        (new.rate = s.rate → last = rebuilt) →
        (new.rate ≠ s.rate →
          ∀ silent : State,
            silent =
              { rebuilt with
                tracker := { Tracker.reset with settings := s.tracker.settings, head := s.tracker.head }, slots := [] } →
            last = if s.tracker.cls = .none then silent else offer (.motion .none s.tracker.head 0) silent) →
        completeSwitch s =
            offer (.bankDone s.table.active.other new.rate new.cues.length (decide (new.rate ≠ s.rate))) last
          ∧ ∃ (order : List Nat) (u : State),
              order.Perm (List.range 8) ∧ (freed.arbiter = [] → order = List.range 8 ∧ u = freed)
                ∧ (∀ (choices : List Block) (rest : List (List Block)), freed.arbiter = choices :: rest →
                    u = { freed with arbiter := rest }
                      ∧ ∀ (n : Nat) (more : List Block), n < 8 → choices = .channel n :: more → order.head? = some n)
                ∧ rebuilt = order.foldl rebuildChannel u)
    ∧ (∀ (s : State) (n : Nat) (c d : Channel) (es : List Emit), s.channels[n]? = some c →
        (c.settings.enabled = false → rebuildChannel s n = s)
          ∧ (c.settings.enabled = true →
              c.rebuild
                  { no := n, cues := s.cues, window := s.window, present := s.video.present, now := s.counter,
                    rate := s.rate }
                  s.tracker.head = (d, es) →
              rebuildChannel s n = emitAll es { s with channels := s.channels.set n d }))
    ∧ ∀ (env : ChannelEnv) (p : Nat) (c d : Channel) (es : List Emit), (c.map.map MapEntry.key).Nodup →
        c.rebuild env p = (d, es) →
        (∃ keys : List Key,
            keys.Pairwise (fun a b => a.before b = true)
              ∧ (∀ k : Key, k ∈ keys ↔ ∃ m ∈ c.map, m.key = k ∧ m.status = .active)
              ∧ es = keys.map fun k => .notice (.cuePassed env.no k .interrupted p))
          ∧ d =
              Channel.expand env p
                { c with
                  map :=
                    (env.cues.filter fun q => c.acceptsTag q.tag).map fun q =>
                      { key := q.key,
                        status := if p < earliestPoint q c.settings.textLead then .waiting else .passed .skipped,
                        copy := none },
                  schedule := [], tone := Tone.idle, lamps := { ready := 0, live := 0 }, overlay := Overlay.clear }

/-- UPDATE_CUE: a key or field out of range gives RANGE and an absent key UNKNOWN_KEY; with no field selected it reads
the record; points that do not fit, out point 1 to 6000 frames after the in point, give RANGE; otherwise the edited
record replaces the old one in the active bank alone, reaches the channels and the armed takes, and the reply carries
it, DEFERRED while a use of the cue is under way, ACTIVE on some channel or an OPEN take of its key (03 R44, R56 to R58;
the layout of the reply is log 12). On an enabled channel the edit acts by the table of 03 R57; an ARMED take of the cue
takes its windows anew, with the spans of its provisional slots, and any other entry stays (07 R134). A selected field
is refused, stored or clamped as LOAD_CUE's is (LoadCueStoresALegalRecord says how a text and a position are), and an
unselected one is kept; ADJUSTED needs a selected field that was clamped, cut, replaced or moved (R44, R56). That the
fields are tested before the key is looked up, so that RANGE comes before UNKNOWN_KEY, is log 45. That an edit with
values equal to the stored ones is handed on is log 48, and that a cue left ACTIVE though not accepted stays as it is
when the new tag is accepted is log 47; the three are the model's choice. -/
def Obligations.UpdateCueEditsTheActiveBank : Prop :=
  (∀ (tag : Byte) (key : WireKey) (x : CueEdit) (s : State), s.canTake (.updateCue tag key x) = true →
    (keyOf key = none ∨ editFields s.rate x = none →
        exec (.updateCue tag key x) s = .next (s.taken.answered 0x96 tag (5 :: wireKeyItem key)))
      ∧ ∀ (k : Key) (f : EditFields), keyOf key = some k → editFields s.rate x = some f →
          (findCue s.cues k = none →
              exec (.updateCue tag key x) s = .next (s.taken.answered 0x96 tag (7 :: wireKeyItem key)))
            ∧ ∀ old : Cue, findCue s.cues k = some old →
                (editSelectsNothing x = true →
                    exec (.updateCue tag key x) s =
                      .next (s.taken.answered 0x96 tag (b1 0 ++ keyItem k ++ cueItem s.rate old)))
                  ∧ ∀ (new : Cue) (adj : Bool), editSelectsNothing x = false → applyEdit f x old = (new, adj) →
                      new.key = k
                        ∧ (pointsFit new.inPt new.outPt = false →
                            exec (.updateCue tag key x) s =
                              .next (s.taken.answered 0x96 tag (5 :: wireKeyItem key)))
                        ∧ (pointsFit new.inPt new.outPt = true →
                            ∃ t : State,
                              t = replaceCue old new s.taken
                                ∧ findCue t.cues k = some new
                                ∧ (∀ q : Key, q ≠ k → findCue t.cues q = findCue s.cues q)
                                ∧ t.table.stagedBank = s.table.stagedBank
                                ∧ (∀ (n : Nat) (c : Channel), n < 8 → s.channels[n]? = some c →
                                    t.channels[n]? =
                                      some
                                        (c.takeEdit
                                          { no := n, cues := t.cues, window := s.window, present := s.video.present,
                                            now := s.counter, rate := s.rate }
                                          s.tracker.head old new))
                                ∧ (∃ u : State,
                                    t = [0, 1, 2, 3].foldl (editEntry new) u ∧ u.takes = s.takes ∧ u.slots = s.slots
                                      ∧ u.rate = s.rate)
                                ∧ exec (.updateCue tag key x) s =
                                    .next
                                      (t.answered 0x96 tag
                                        (b1 (if s.cueInUse k then 2 else if adj then 1 else 0) ++ keyItem k
                                          ++ cueItem s.rate new))))
    ∧ (∀ a b : Nat, pointsFit a b = true ↔ a + 100 ≤ b ∧ b ≤ a + 600000)
    ∧ (∀ (s : State) (k : Key), s.cueInUse k = true ↔
        (∃ c ∈ s.channels, ∃ m : MapEntry,
            c.map.find? (fun x => decide (x.key = k)) = some m ∧ m.status = .active)
          ∨ ∃ e ∈ s.takes.inUse, e.opened = true ∧ e.key = k)
    ∧ (∀ (r : Rate) (x : CueEdit),
        (editFields r x = none ↔
            x.extraFlags ≠ 0 ∨ (∃ w : WirePos, (x.inPt = some w ∨ x.outPt = some w) ∧ posField r w = none)
              ∨ ∃ b : Byte, x.punch = some b ∧ 1 < b.toNat)
          ∧ (editSelectsNothing x = true ↔
              x = { extraFlags := 0, tag := none, inPt := none, outPt := none, streamer := none, beeps := none,
                    interval := none, punch := none, tracks := none, text := none })
          ∧ ∀ (f : EditFields) (old new : Cue) (adj : Bool), editFields r x = some f → applyEdit f x old = (new, adj) →
              new.key = old.key
                ∧ (x.tag = none → new.tag = old.tag) ∧ (∀ v : Half, x.tag = some v → new.tag = v)
                ∧ (x.inPt = none → new.inPt = old.inPt) ∧ (x.outPt = none → new.outPt = old.outPt)
                ∧ (∀ w : WirePos, x.inPt = some w → ∃ moved : Bool, posField r w = some (new.inPt, moved))
                ∧ (∀ w : WirePos, x.outPt = some w → ∃ moved : Bool, posField r w = some (new.outPt, moved))
                ∧ (x.streamer = none → new.streamer = old.streamer)
                ∧ (∀ b : Byte, x.streamer = some b →
                    new.streamer = if b.toNat = 0 then 0 else max 8 (min b.toNat 120))
                ∧ (x.beeps = none → new.beeps = old.beeps)
                ∧ (∀ b : Byte, x.beeps = some b → new.beeps = min b.toNat 4)
                ∧ (x.interval = none → new.interval = old.interval)
                ∧ (∀ b : Byte, x.interval = some b → new.interval = max 6 (min b.toNat 50))
                ∧ (x.punch = none → new.punch = old.punch)
                ∧ (∀ b : Byte, x.punch = some b → (new.punch = true ↔ b = 1))
                ∧ (x.tracks = none → new.tracks = old.tracks) ∧ (∀ v : Half, x.tracks = some v → new.tracks = v)
                ∧ (x.text = none → new.text = old.text)
                ∧ (∀ t : Option (List Byte), x.text = some t → new.text = (storeText t).1)
                ∧ (adj = true ↔
                    (∃ (w : WirePos) (a : Nat), (x.inPt = some w ∨ x.outPt = some w) ∧ posField r w = some (a, true))
                      ∨ (∃ b : Byte, x.streamer = some b ∧ (0 < b.toNat ∧ b.toNat < 8 ∨ 120 < b.toNat))
                      ∨ (∃ b : Byte, x.beeps = some b ∧ 4 < b.toNat)
                      ∨ (∃ b : Byte, x.interval = some b ∧ (b.toNat < 6 ∨ 50 < b.toNat))
                      ∨ ∃ t : Option (List Byte), x.text = some t ∧ (storeText t).2 = true))
    ∧ (∀ (env : ChannelEnv) (p : Nat) (old new : Cue) (c : Channel) (st : CueStatus),
        st = (if p < earliestPoint new c.settings.textLead then .waiting else .passed .skipped) →
        (c.settings.enabled = false → c.takeEdit env p old new = c)
          ∧ (c.settings.enabled = true → c.acceptsTag new.tag = true →
              (c.entryOf new.key = none →
                  c.takeEdit env p old new =
                    Channel.expand env p { c with map := c.map ++ [{ key := new.key, status := st, copy := none }] })
                ∧ ∀ m : MapEntry, c.entryOf new.key = some m →
                    (m.status = .waiting ∨ m.status = .queued →
                        c.takeEdit env p old new =
                          Channel.expand env p
                            { c with
                              map := c.map.map fun x =>
                                if x.key = new.key then { x with status := st, copy := none } else x,
                              schedule := c.schedule.filter fun e => decide (e.key ≠ new.key) })
                      ∧ (m.status ≠ .waiting → m.status ≠ .queued → c.takeEdit env p old new = c))
          ∧ (c.settings.enabled = true → c.acceptsTag new.tag = false →
              ((c.acceptsTag old.tag = false ∨ c.entryOf new.key = none) → c.takeEdit env p old new = c)
                ∧ ∀ m : MapEntry, c.acceptsTag old.tag = true → c.entryOf new.key = some m →
                    (m.status = .active → c.takeEdit env p old new = c)
                      ∧ (m.status ≠ .active →
                          c.takeEdit env p old new =
                            { c with
                              map := c.map.filter fun x => decide (x.key ≠ new.key),
                              schedule := c.schedule.filter fun e => decide (e.key ≠ new.key) })))
    ∧ ∀ (cue : Cue) (s : State) (i : Nat) (e : TakeEntry), s.takes.entries[i]? = some (some e) →
        (e.opened = true ∨ e.key ≠ cue.key → editEntry cue s i = s)
          ∧ (e.opened = false → e.key = cue.key →
              ∀ lo hi : Nat, lo = cue.inPt - e.lead * 100 → hi = min (cue.outPt + e.tail * 100) s.rate.lastPos →
              ∃ (slots : List Slot) (items : List TrackItem),
                editEntry cue s i =
                    { s with
                      slots,
                      takes := { s.takes with
                        entries := s.takes.entries.set i (some { e with winStart := lo, winEnd := hi, items }) } }
                  ∧ slots.length = s.slots.length
                  ∧ (∀ (j : Nat) (y : Slot), s.slots[j]? = some y →
                      (y.firmness ≠ .firm → y.key = e.key → (∃ x ∈ e.items, x.track = y.track) →
                          slots[j]? = some { y with base := lo, fin := hi })
                        ∧ (y.firmness = .firm ∨ y.key ≠ e.key ∨ (∀ x ∈ e.items, x.track ≠ y.track) →
                            slots[j]? = some y))
                  ∧ items.length = e.items.length
                  ∧ ∀ (j : Nat) (x : TrackItem), e.items[j]? = some x →
                      (findSlot slots e.key x.track = none →
                          items[j]? = some { x with winStart := lo, winEnd := hi, truncated := false })
                        ∧ ∀ y : Slot, findSlot slots e.key x.track = some y →
                            items[j]? =
                              some
                                { x with
                                  winStart := max lo y.base, winEnd := min hi y.fin,
                                  truncated := decide (lo < y.base ∨ y.fin < hi) })

/-- READ_CUE, LIST_CUES, CUE_STATE, READ_TAKE and READ_SLOTS report what the bank, the channels, the take log and the
slot table hold and change nothing; each refuses a selector, key or number out of range and, but for READ_SLOTS, an
unknown key (03 R59, R60; 05 R94; 08 R145, R149; layouts: log 12, log 15). READ_TAKE finds the record of its number, or
the oldest one not collected, and READ_SLOTS lists in ascending track order. A cue's standing is 5 on a disabled
channel, 6 where the map lacks it, else its status with the reason of a PASSED one, its E, its entries, whether the
channel accepts it, and the schedule's count; E is that of the record and the text lead, of a QUEUED or ACTIVE cue that
of its held points (05 R73). A record carries its fields in the order of 03 R41, a take record those of 08 R140 under
its own rate, a slot its track, span, firmness and owner; a position stands as its label, an absent item as 0 and a
present one after a 1, a list after its count. That a LIST_CUES reply carries keys alone, where the table of 01 R13
names positions in it, is the model's choice (log 43). -/
def Obligations.ReadingRequestsReport : Prop :=
  (∀ (tag sel : Byte) (key : WireKey) (index : Half) (which : TakeSelector) (s : State),
    (s.canTake (.readCue tag sel key) = true →
        (1 < sel.toNat ∨ keyOf key = none →
            exec (.readCue tag sel key) s = .next (s.taken.answered 0x97 tag [5]))
          ∧ ∀ (k : Key) (b : Bank) (letter : BankName), keyOf key = some k → sel.toNat ≤ 1 →
              (b, letter) =
                (if sel = 0 then (s.table.activeBank, s.table.active)
                  else (s.table.stagedBank, s.table.active.other)) →
              (findCue b.cues k = none → exec (.readCue tag sel key) s = .next (s.taken.answered 0x97 tag [7]))
                ∧ ∀ c : Cue, findCue b.cues k = some c →
                    exec (.readCue tag sel key) s =
                      .next
                        (s.taken.answered 0x97 tag
                          (b1 0 ++ keyItem k ++ cueItem b.rate c ++ b2 (indexOfKey k b.cues) ++ b1 letter.code)))
      ∧ (s.canTake (.listCues tag sel index) = true →
          (1 < sel.toNat ∨ 511 < index.toNat →
              exec (.listCues tag sel index) s = .next (s.taken.answered 0x98 tag [5]))
            ∧ ∀ (b : Bank) (letter : BankName), sel.toNat ≤ 1 → index.toNat ≤ 511 →
                (b, letter) =
                  (if sel = 0 then (s.table.activeBank, s.table.active)
                    else (s.table.stagedBank, s.table.active.other)) →
                exec (.listCues tag sel index) s =
                  .next
                    (s.taken.answered 0x98 tag
                      (b1 0 ++ b1 letter.code ++ b1 b.rate.code ++ b2 b.cues.length ++ half index
                        ++ listOf (fun c : Cue => keyItem c.key) ((b.cues.drop index.toNat).take 16))))
      ∧ (s.canTake (.cueState tag key) = true →
          (keyOf key = none → exec (.cueState tag key) s = .next (s.taken.answered 0x99 tag [5]))
            ∧ ∀ k : Key, keyOf key = some k →
                (findCue s.cues k = none → exec (.cueState tag key) s = .next (s.taken.answered 0x99 tag [7]))
                  ∧ (findCue s.cues k ≠ none →
                      exec (.cueState tag key) s =
                        .next
                          (s.taken.answered 0x99 tag
                            (b1 0 ++ keyItem k ++ b1 s.table.active.code
                              ++ (List.range 8).flatMap (standingItem s k)))))
      ∧ (s.canTake (.readTake tag which) = true →
          ∀ counts : List Byte,
            counts =
              b2 s.log.records.length ++ b2 s.log.collected ++ b1 s.log.reservations ++ b2 s.log.nextNumber →
            (which = .number 0 → exec (.readTake tag which) s = .next (s.taken.answered 0xA3 tag (5 :: counts)))
              ∧ (∀ n : Half, n ≠ 0 → which = .number n →
                  (s.log.recordOf n.toNat = none →
                      exec (.readTake tag which) s = .next (s.taken.answered 0xA3 tag (7 :: counts)))
                    ∧ ∀ r : TakeRecord, s.log.recordOf n.toNat = some r →
                        exec (.readTake tag which) s =
                          .next (s.taken.answered 0xA3 tag (b1 0 ++ r.replyItem ++ counts)))
              ∧ (which = .oldestUncollected →
                  (s.log.oldestUncollected = none →
                      exec (.readTake tag which) s = .next (s.taken.answered 0xA3 tag (4 :: counts)))
                    ∧ ∀ r : TakeRecord, s.log.oldestUncollected = some r →
                        exec (.readTake tag which) s =
                          .next (s.taken.answered 0xA3 tag (b1 0 ++ r.replyItem ++ counts))))
      ∧ (s.canTake (.readSlots tag key) = true →
          (keyOf key = none → exec (.readSlots tag key) s = .next (s.taken.answered 0xA6 tag [5]))
            ∧ ∀ k : Key, keyOf key = some k →
                exec (.readSlots tag key) s =
                  .next
                    (s.taken.answered 0xA6 tag
                      (b1 0 ++ keyItem k ++ b2 s.slots.length
                        ++ listOf (Slot.replyItem s.rate)
                          (sortBy (fun a b => decide (a.track < b.track))
                            (s.slots.filter fun y => decide (y.key = k)))))))
    ∧ (∀ (l : TakeLog) (n : Nat),
        (l.recordOf n = none ↔ ∀ r ∈ l.records, r.number ≠ n)
          ∧ (l.oldestUncollected = none ↔ ∀ r ∈ l.records, r.collected = true)
          ∧ ∀ (older newer : List TakeRecord) (r : TakeRecord), l.records = older ++ r :: newer →
              (r.number = n → (∀ q ∈ older, q.number ≠ n) → l.recordOf n = some r)
                ∧ (r.collected = false → (∀ q ∈ older, q.collected = true) → l.oldestUncollected = some r))
    ∧ (∀ l sorted : List Slot, sorted = sortBy (fun a b => decide (a.track < b.track)) l →
        sorted.Perm l ∧ sorted.Pairwise fun a b => a.track ≤ b.track)
    ∧ (∀ (s : State) (k : Key) (n : Nat) (c : Channel), s.channels[n]? = some c →
        (c.settings.enabled = false → standingItem s k n = [5])
          ∧ (c.settings.enabled = true → (∀ m ∈ c.map, m.key ≠ k) → standingItem s k n = [6])
          ∧ ∀ (m : MapEntry) (cue : Cue) (rest : List Byte) (e : Nat), c.settings.enabled = true →
              c.map.find? (fun x => decide (x.key = k)) = some m → findCue s.cues k = some cue →
              (m.copy = none → e = earliestPoint cue c.settings.textLead) →
              (∀ x : CueCopy, m.copy = some x → (m.status = .queued ∨ m.status = .active) ∧
                e =
                  (((c.schedule.filter fun y => decide (y.key = k)).map Entry.point)
                    ++ (if x.text.isSome then [x.inPt - x.textLead * 100] else [])
                    ++ (if 0 < x.streamer then [x.inPt - x.streamer * 100] else [])).foldl min x.inPt) →
              rest =
                posItem s.rate e ++ b1 (c.schedule.countP fun y => decide (y.key = k))
                  ++ flag (decide (cue.tag &&& c.settings.filterMask = c.settings.filterTag &&& c.settings.filterMask))
                  ++ b1 c.schedule.length →
              (m.status = .waiting → standingItem s k n = 0 :: rest)
                ∧ (m.status = .queued → standingItem s k n = 1 :: rest)
                ∧ (m.status = .active → standingItem s k n = 2 :: rest)
                ∧ (m.status = .done → standingItem s k n = 3 :: rest)
                ∧ ∀ why : PassReason, m.status = .passed why →
                    standingItem s k n = 4 :: (b1 why.code ++ rest))
    ∧ (∀ (r : Rate) (c : Cue) (x : RecordTrack) (y : TakeRecord) (z : Slot),
        cueItem r c =
            half c.tag ++ posItem r c.inPt ++ posItem r c.outPt ++ b1 c.streamer ++ b1 c.beeps ++ b1 c.interval
              ++ flag c.punch ++ half c.tracks ++ opt textItem c.text
          ∧ x.replyItem r =
              b1 x.item.track ++ posItem r x.item.winStart ++ posItem r x.item.winEnd ++ posItem r x.slotBase
                ++ posItem r x.slotFin ++ flag x.slotFirm ++ b1 x.item.gate.code ++ opt (posItem r) x.item.firstOpen
                ++ opt (posItem r) x.item.lastClose ++ flag x.item.truncated ++ flag x.item.guarded
          ∧ y.replyItem =
              b2 y.number ++ keyItem y.key ++ b1 y.rate.code ++ b2 y.passNumber ++ b1 y.status.code
                ++ posItem y.rate y.winStart ++ posItem y.rate y.winEnd ++ posItem y.rate y.closePos
                ++ flag y.disarmAfter ++ listOf (RecordTrack.replyItem y.rate) y.tracks ++ flag y.collected
          ∧ (z.firmness = .firm → z.replyItem r = b1 z.track ++ posItem r z.base ++ posItem r z.fin ++ [1, 0])
          ∧ ∀ i : Nat, z.firmness = .provisional i →
              z.replyItem r = b1 z.track ++ posItem r z.base ++ posItem r z.fin ++ [0, 1] ++ b1 i)
    ∧ ([CueStatus.waiting, .queued, .active, .done].map CueStatus.code = [0, 1, 2, 3]
        ∧ (∀ why : PassReason, (CueStatus.passed why).code = 4)
        ∧ [PassReason.skipped, .joinedLate, .settle, .scheduleFull, .interrupted].map PassReason.code = [0, 1, 2, 3, 4]
        ∧ [GateState.wait, .opened, .shut].map GateState.code = [0, 1, 2]
        ∧ [TakeStatus.complete, .broken, .aborted].map TakeStatus.code = [0, 1, 2]
        ∧ [Rate.film24, .film2398, .pal25, .drop2997, .nonDrop2997, .ntsc30].map Rate.code = [0, 1, 2, 3, 4, 5])
    ∧ ∀ (r : Rate) (p : Nat) (k : Key) (t l : List Byte) (v : Half) (items : List (List Byte)),
        posItem r p = wirePosItem (wirePos r p) ∧ textItem t = b1 t.length ++ t
          ∧ (k.suffix = none → keyItem k = b2 k.num ++ [0])
          ∧ (∀ a : Fin 26, k.suffix = some a → keyItem k = b2 k.num ++ b1 (a.val + 1))
          ∧ (half v).map BitVec.toNat = [v.toNat / 256, v.toNat % 256]
          ∧ opt id (none : Option (List Byte)) = [0] ∧ opt id (some l) = 1 :: l
          ∧ listOf id items = b1 items.length ++ items.flatten

/-- Each bank holds at most 512 records, in table order, with no key twice (03 R45): every step keeps it. -/
def Obligations.BanksStayOrdered : Prop :=
  ∀ s t : State, s.table.ordered → step s = .next t → t.table.ordered

/-! ### Takes, the take log and the slot table (07, 08) -/

/-- ARM_TAKE: the first test that fails names the refusal, in the order key, cue, tracks, busy tracks, a free entry,
slot room, log room; an arm that none of them refuses passes and takes the lowest free entry with its window, origin
HOST and deadline, and holds tracks that no entry held, in ascending order (07 R118 to R120). It proposes for each track
that had no slot of the key a PROVISIONAL one, owned by the entry, with the take window as its span, and no other slot
comes, goes or changes (08 R147). A track's window is the intersection of the take window and its slot, TRUNCATED when
it is shorter; its gate is WAIT, both positions absent, GUARDED clear (07 R118). It reserves a place in the log, whose
full log loses its oldest collected record and no other (08 R142, R143). The layout of the reply is log 12. -/
def Obligations.ArmTakeArms : Prop :=
  ∀ (tag : Byte) (key : WireKey) (sub : Option Half) (s : State), s.canTake (.armTake tag key sub) = true →
    (keyOf key = none → exec (.armTake tag key sub) s = .next (s.taken.answered 0xA0 tag [5]))
      ∧ ∀ k : Key, keyOf key = some k →
          (∀ c : ResultCode, armTest k sub s = .error c →
              exec (.armTake tag key sub) s = .next (s.taken.answered 0xA0 tag [BitVec.ofNat 8 c.code]))
            ∧ (findCue s.cues k = none → armTest k sub s = .error .unknownKey)
            ∧ (∀ (cue : Cue) (set : Half), set = sub.getD cue.tracks →
                (armTracks cue sub = none ↔ set = 0 ∨ ∃ x : Nat, set.getLsbD x = true ∧ cue.tracks.getLsbD x = false)
                  ∧ ∀ ts : List Nat, armTracks cue sub = some ts →
                      ts.Pairwise (fun a b => a < b) ∧ ∀ x : Nat, x ∈ ts ↔ set.getLsbD x = true)
            ∧ (s.log.isFull = true ↔ 256 ≤ s.log.records.length + s.log.reservations)
            ∧ (s.log.collected = 0 ↔ ∀ r ∈ s.log.records, r.collected = false)
            ∧ (∀ cue : Cue, findCue s.cues k = some cue →
                (armTracks cue sub = none → armTest k sub s = .error .range)
                  ∧ ∀ ts : List Nat, armTracks cue sub = some ts →
                      ((∃ x ∈ ts, x ∈ s.takes.heldTracks) → armTest k sub s = .error .trackBusy)
                        ∧ ((∀ x ∈ ts, x ∉ s.takes.heldTracks) →
                            (none ∉ s.takes.entries → armTest k sub s = .error .full)
                              ∧ (none ∈ s.takes.entries → 512 < s.slots.length + slotsNeeded s.slots k ts →
                                  armTest k sub s = .error .slotFull)
                              ∧ (none ∈ s.takes.entries → s.slots.length + slotsNeeded s.slots k ts ≤ 512 →
                                  s.log.isFull = true → s.log.collected = 0 → armTest k sub s = .error .logFull)
                              ∧ ∀ i : Nat, s.takes.entries[i]? = some none →
                                  (∀ j : Nat, j < i → s.takes.entries[j]? ≠ some none) →
                                  s.slots.length + slotsNeeded s.slots k ts ≤ 512 →
                                  s.log.isFull = false ∨ s.log.collected ≠ 0 → armTest k sub s = .ok (cue, ts, i)))
            ∧ (∀ x : Nat, x ∈ s.takes.heldTracks ↔ ∃ e ∈ s.takes.inUse, ∃ y ∈ e.items, y.track = x)
            ∧ (∀ (slots : List Slot) (ts : List Nat),
                slotsNeeded slots k ts =
                    (ts.filter fun x => decide (∀ y ∈ slots, y.key = k → y.track ≠ x)).length
                  ∧ ∀ x : Nat,
                      (findSlot slots k x = none ↔ ∀ y ∈ slots, y.key = k → y.track ≠ x)
                        ∧ ∀ y : Slot, findSlot slots k x = some y → y ∈ slots ∧ y.key = k ∧ y.track = x)
            ∧ ∀ (cue : Cue) (ts : List Nat) (i : Nat), armTest k sub s = .ok (cue, ts, i) →
                findCue s.cues k = some cue ∧ armTracks cue sub = some ts ∧ s.takes.entries[i]? = some none
                  ∧ (∀ j : Nat, j < i → s.takes.entries[j]? ≠ some none)
                  ∧ (∀ x ∈ ts, x ∉ s.takes.heldTracks)
                  ∧ ∃ (t : State) (e : TakeEntry),
                      t = { s.taken with
                            takes := { s.takes with entries := s.takes.entries.set i (some e) },
                            slots := t.slots, log := t.log }
                        ∧ e.key = k ∧ e.opened = false ∧ e.origin = .host ∧ e.passNumber = 0
                        ∧ e.winStart = cue.inPt - s.takes.punchLead * 100
                        ∧ e.winEnd = min (cue.outPt + s.takes.punchTail * 100) s.rate.lastPos
                        ∧ e.lead = s.takes.punchLead ∧ e.tail = s.takes.punchTail
                        ∧ e.deadline = some (s.counter + BitVec.ofNat 32 (s.takes.armWindow * 1000000))
                        ∧ e.disarmAfter = false
                        ∧ e.items.map TrackItem.track = ts
                        ∧ t.slots =
                            s.slots
                              ++ (ts.filter fun x => decide (∀ y ∈ s.slots, y.key = k → y.track ≠ x)).map
                                  (fun x =>
                                    { key := k, track := x, base := e.winStart, fin := e.winEnd,
                                      firmness := .provisional i })
                        ∧ (∀ (j x : Nat), ts[j]? = some x →
                            ∃ y : Slot, findSlot t.slots k x = some y
                              ∧ e.items[j]? =
                                  some
                                    { track := x, winStart := max e.winStart y.base, winEnd := min e.winEnd y.fin,
                                      gate := .wait, firstOpen := none, lastClose := none,
                                      truncated := decide (e.winStart < y.base ∨ y.fin < e.winEnd),
                                      guarded := false })
                        ∧ (s.log.isFull = false →
                            t.log = { s.log with reservations := s.log.reservations + 1 })
                        ∧ (∀ (older newer : List TakeRecord) (r : TakeRecord), s.log.isFull = true →
                            s.log.records = older ++ r :: newer → r.collected = true →
                            (∀ q ∈ older, q.collected = false) →
                            t.log =
                              { s.log with records := older ++ newer, reservations := s.log.reservations + 1 })
                        ∧ exec (.armTake tag key sub) s =
                            .next
                              (t.answered 0xA0 tag
                                (b1 0 ++ b1 i ++ keyItem k ++ posItem s.rate e.winStart ++ posItem s.rate e.winEnd
                                  ++ listOf
                                      (fun x : TrackItem =>
                                        b1 x.track ++ posItem s.rate x.winStart ++ posItem s.rate x.winEnd
                                          ++ (findSlot t.slots k x.track).toList.flatMap fun y =>
                                              posItem s.rate y.base ++ posItem s.rate y.fin
                                                ++ flag (decide (y.firmness = .firm)) ++ flag x.truncated)
                                      e.items
                                  ++ b2 s.takes.armWindow))

/-- DISARM and ABORT_TAKE: ALL names every entry and a key those of that key, in ascending entry number; a key out of
range gives RANGE, no entry to act on gives STATE; DISARM frees the ARMED entries it names with no notice and marks the
OPEN ones, DEFERRED when it marked any; ABORT_TAKE closes the OPEN ones ABORTED at P and lists their take numbers, each
one more than the one before, 1 after 65535; ARM_DEADLINE_EXPIRY frees an ARMED entry whose deadline is reached, with
reason TIME, and leaves any other as it is (07 R130 to R133; that DISARM's reply carries the two lists is log 14). A
settled forward advance in PLAY opens the ARMED entries whose window start it crosses, a forward one in PLAY then closes
COMPLETE the OPEN ones whose window end it reaches, and the gates are evaluated (07 R122, R127, R135). To free an ARMED
entry is to release it, offer ARM_LAPSED for every cause but DISARM, and tell the pass controller of a pass arm (R133;
09 R163). A relocate, at the P before it, and a class change out of PLAY close every OPEN take BROKEN, in ascending
entry number; a close writes its record, offers its notice and is told to the pass controller and the cue table (07
R128, R129). That a deadline is reached within half a wrap is log 10, and that a command whose cause does not hold
changes nothing else is log 2. That one ABORT_TAKE closes in ascending entry number is log 46. These three are the
model's choice. -/
def Obligations.EntriesAreFreedAndClosed : Prop :=
  (∀ w : WireKey,
        keyOrAll .all = some none ∧ (keyOf w = none → keyOrAll (.key w) = none)
          ∧ ∀ k : Key, keyOf w = some k → keyOrAll (.key w) = some (some k))
    ∧ (∀ x y : Key, wanted none x = true ∧ (wanted (some y) x = true ↔ x = y))
    ∧ (∀ (test : TakeEntry → Bool) (t : Takes),
        (t.numbersOf test).Pairwise (fun a b => a < b)
          ∧ ∀ i : Nat, i ∈ t.numbersOf test ↔
              i < 4 ∧ ∃ e : TakeEntry, t.entries[i]? = some (some e) ∧ test e = true)
    ∧ (∀ (tag : Byte) (which : KeyOrAll) (s : State),
      (s.canTake (.disarm tag which) = true →
          (keyOrAll which = none → exec (.disarm tag which) s = .next (s.taken.answered 0xA1 tag [5]))
            ∧ ∀ (k : Option Key) (armed opened : List Nat), keyOrAll which = some k →
                armed = s.takes.numbersOf (fun e => !e.opened && wanted k e.key) →
                opened = s.takes.numbersOf (fun e => e.opened && wanted k e.key) →
                (armed = [] → opened = [] → exec (.disarm tag which) s = .next (s.taken.answered 0xA1 tag [4]))
                  ∧ (armed ≠ [] ∨ opened ≠ [] →
                      exec (.disarm tag which) s =
                        .next
                          ((opened.foldl flagEntry
                              (armed.foldl (fun u i => freeArmed .disarm i u) s.taken)).answered
                            0xA1 tag (b1 (if opened = [] then 0 else 2) ++ listOf b1 armed ++ listOf b1 opened))))
        ∧ (s.canTake (.abortTake tag which) = true →
            (keyOrAll which = none → exec (.abortTake tag which) s = .next (s.taken.answered 0xA2 tag [5]))
              ∧ ∀ (k : Option Key) (opened : List Nat), keyOrAll which = some k →
                  opened = s.takes.numbersOf (fun e => e.opened && wanted k e.key) →
                  (opened = [] → exec (.abortTake tag which) s = .next (s.taken.answered 0xA2 tag [4]))
                    ∧ (opened ≠ [] →
                        ∃ numbers : List Nat,
                          numbers.length = opened.length ∧ numbers.head? = some s.log.nextNumber
                            ∧ (∀ j a b : Nat, numbers[j]? = some a → numbers[j + 1]? = some b →
                                b = if a = 65535 then 1 else a + 1)
                            ∧ exec (.abortTake tag which) s =
                                .next
                                  ((opened.foldl (fun u i => closeEntry .aborted u.tracker.head i u) s.taken).answered
                                    0xA2 tag (b1 0 ++ listOf b2 numbers)))))
    ∧ (∀ (i : Nat) (e : TakeEntry) (cause : FreeCause) (s freed : State), s.takes.entries[i]? = some (some e) →
        (e.opened = true →
            freeArmed cause i s = s
              ∧ flagEntry s i =
                  { s with
                    takes := { s.takes with entries := s.takes.entries.set i (some { e with disarmAfter := true }) } })
          ∧ (e.opened = false → flagEntry s i = s)
          ∧ (e.opened = false → cause = .disarm → freed = releaseEntry i e s →
              (e.origin = .host → freeArmed cause i s = freed)
                ∧ (e.origin = .pass → freeArmed cause i s = passArmFreed i cause freed))
          ∧ ∀ why : LapseReason, e.opened = false → cause = .lapse why →
              freed = offer (.armLapsed i e.key e.origin why) (releaseEntry i e s) →
              (e.origin = .host → freeArmed cause i s = freed)
                ∧ (e.origin = .pass → freeArmed cause i s = passArmFreed i cause freed))
    ∧ (∀ (n : Fin 4) (now : Stamp) (s : State),
        (∀ (e : TakeEntry) (d : Stamp), s.takes.entryAt n.val = some e → e.opened = false → e.deadline = some d →
            elapsed d now < 2147483648 →
            exec (.armDeadlineExpiry n now) s = .next (freeArmed (.lapse .time) n.val (elapseTo now s)))
          ∧ ((∀ (e : TakeEntry) (d : Stamp), s.takes.entryAt n.val = some e → e.opened = false →
                e.deadline = some d → 2147483648 ≤ elapsed d now) →
              exec (.armDeadlineExpiry n now) s = .next (elapseTo now s)))
    ∧ (∀ (snap : Snap) (old new : Nat) (s : State),
        takesReport { kind := .relocate old new, snap } s = closeAllOpen .broken old s
          ∧ takesReport { kind := .lock, snap } s = s ∧ takesReport { kind := .settle, snap } s = s
          ∧ (∀ cls : MotionClass, cls ≠ .play →
              takesReport { kind := .classChange .play cls, snap } s = closeAllOpen .broken snap.head s)
          ∧ (∀ a b : MotionClass, a ≠ .play ∨ b = .play → takesReport { kind := .classChange a b, snap } s = s)
          ∧ (∀ step0 : Bool, new ≤ old ∨ step0 = true ∨ snap.cls ≠ .play →
              takesReport { kind := .advance old new step0, snap } s = evalGates snap.cls new s)
          ∧ (old < new → snap.cls = .play →
              takesReport { kind := .advance old new false, snap } s =
                evalGates .play new
                  ([0, 1, 2, 3].foldl (completeReached new)
                    (if snap.settled then [0, 1, 2, 3].foldl (openCrossed old new) s else s))))
    ∧ (∀ (st : TakeStatus) (pos : Nat) (s t : State), s.takes.entries.length = 4 → t = closeAllOpen st pos s →
        t.takes.openCount = 0
          ∧ (∃ records : List TakeRecord,
              t.log.records = s.log.records ++ records
                ∧ records.map TakeRecord.key = (s.takes.inUse.filter TakeEntry.opened).map TakeEntry.key
                ∧ ∀ r ∈ records, r.status = st ∧ r.closePos = pos ∧ r.collected = false)
          ∧ (s.table.switchPending = false →
              ∀ (i : Nat) (e : TakeEntry), s.takes.entries[i]? = some (some e) →
                t.takes.entries[i]? = some (if e.opened then none else some e)))
    ∧ ∀ (old new : Nat) (s : State) (i : Nat) (e : TakeEntry), s.takes.entries[i]? = some (some e) →
        (e.opened = false → old < e.winStart → e.winStart ≤ new →
            openCrossed old new s i =
              { s with
                takes := { s.takes with
                  entries := s.takes.entries.set i (some { e with opened := true, deadline := none }) } })
          ∧ (e.opened = true ∨ e.winStart ≤ old ∨ new < e.winStart → openCrossed old new s i = s)
          ∧ (e.opened = true → e.winEnd ≤ new → completeReached new s i = closeEntry .complete new i s)
          ∧ (e.opened = false ∨ new < e.winEnd → completeReached new s i = s)
          ∧ ∀ (st : TakeStatus) (pos : Nat) (told : State), e.opened = true →
              told =
                offer (.take s.log.nextNumber e.key st pos e.origin e.passNumber e.disarmAfter)
                  (writeClose st pos i e s) →
              (e.origin = .host → closeEntry st pos i s = testSafePoint told)
                ∧ (e.origin = .pass →
                    closeEntry st pos i s =
                      testSafePoint (passTakeClosed i s.log.nextNumber st e.disarmAfter told))

/-- Freeing an ARMED entry releases its reservation and discards the provisional slots of its tracks; closing an OPEN one
turns its gate lines off, writes the record with the log's next number, every item of the entry, its disarm flag and each
track's slot as it then stands among them, and discards the provisional slots of the tracks
that never opened; both leave every other entry and every FIRM slot as it was (07 R129, R133; 08 R140 to R142, R147). -/
def Obligations.FreedAndClosedEntriesLeaveTheTable : Prop :=
  ∀ (s : State) (i : Nat) (e : TakeEntry), s.takes.entries[i]? = some (some e) →
    (∀ t : State, t = releaseEntry i e s →
        t.takes = { s.takes with entries := s.takes.entries.set i none }
          ∧ t.log = { s.log with reservations := s.log.reservations - 1 }
          ∧ (∀ x : Slot, x ∈ t.slots ↔
              x ∈ s.slots ∧ (x.firmness = .firm ∨ x.key ≠ e.key ∨ ∀ y ∈ e.items, y.track ≠ x.track)))
      ∧ ∀ (st : TakeStatus) (pos : Nat) (t : State), t = writeClose st pos i e s →
          t.takes.entries = s.takes.entries.set i none
            ∧ (∀ k : Nat, k < 16 →
                t.takes.gateLines.getLsbD k =
                  if ∃ y ∈ e.items, y.track = k then false else s.takes.gateLines.getLsbD k)
            ∧ t.log.reservations = s.log.reservations - 1
            ∧ (∃ r : TakeRecord,
                t.log.records = s.log.records ++ [r] ∧ r.number = s.log.nextNumber ∧ r.key = e.key ∧ r.status = st
                  ∧ r.closePos = pos ∧ r.rate = s.rate ∧ r.winStart = e.winStart ∧ r.winEnd = e.winEnd
                  ∧ r.passNumber = e.passNumber ∧ r.collected = false
                  ∧ r.tracks.map (fun x => x.item) =
                      e.items.map
                        (fun y => if y.gate = .opened then { y with gate := .shut, lastClose := some pos } else y)
                  ∧ r.disarmAfter = e.disarmAfter
                  ∧ ∀ x ∈ r.tracks, ∀ y : Slot, findSlot s.slots e.key x.item.track = some y →
                      x.slotBase = y.base ∧ x.slotFin = y.fin ∧ (x.slotFirm = true ↔ y.firmness = .firm))
            ∧ t.log.nextNumber = (if s.log.nextNumber = 65535 then 1 else s.log.nextNumber + 1)
            ∧ (∀ x : Slot, x ∈ t.slots ↔
                x ∈ s.slots
                  ∧ (x.firmness = .firm ∨ x.key ≠ e.key
                      ∨ ∀ y ∈ e.items, y.track = x.track → y.firstOpen.isSome = true))

/-- COLLECT_TAKES marks the records up to and with its number and no other; CLEAR_SLOTS removes every slot it names,
those of its key or with ALL every one, unless an entry in use holds one of their tracks (08 R144, R148). -/
def Obligations.RecordsAreCollectedAndSlotsCleared : Prop :=
  (∀ w : WireKey,
        keyOrAll .all = some none ∧ (keyOf w = none → keyOrAll (.key w) = none)
          ∧ ∀ k : Key, keyOf w = some k → keyOrAll (.key w) = some (some k))
    ∧ (∀ x y : Key, wanted none x = true ∧ (wanted (some y) x = true ↔ x = y))
    ∧ (∀ (tag : Byte) (n : Half) (s : State), s.canTake (.collectTakes tag n) = true →
      (n = 0 → exec (.collectTakes tag n) s = .next (s.taken.answered 0xA4 tag [5]))
        ∧ (n ≠ 0 → (∀ r ∈ s.log.records, r.number ≠ n.toNat) →
            exec (.collectTakes tag n) s = .next (s.taken.answered 0xA4 tag [7]))
        ∧ (∀ (before after : List TakeRecord) (r : TakeRecord), n ≠ 0 → s.log.records = before ++ r :: after →
            r.number = n.toNat → (∀ q ∈ before, q.number ≠ n.toNat) →
            ∀ records : List TakeRecord,
              records = (before ++ [r]).map (fun q => { q with collected := true }) ++ after →
              exec (.collectTakes tag n) s =
                .next
                  ({ s.taken with log := { s.log with records } }.answered 0xA4 tag
                    (b1 0 ++ half n ++ b2 ((before ++ [r]).countP fun (q : TakeRecord) => !q.collected)
                      ++ b2 (records.countP fun (q : TakeRecord) => q.collected)))))
    ∧ ∀ (tag : Byte) (which : KeyOrAll) (s : State), s.canTake (.clearSlots tag which) = true →
        (keyOrAll which = none → exec (.clearSlots tag which) s = .next (s.taken.answered 0xA5 tag [5]))
          ∧ ∀ k : Option Key, keyOrAll which = some k →
              ((∃ x ∈ s.slots, wanted k x.key = true ∧ ∃ e ∈ s.takes.inUse, e.key = x.key
                    ∧ ∃ y ∈ e.items, y.track = x.track) →
                  exec (.clearSlots tag which) s = .next (s.taken.answered 0xA5 tag [12]))
                ∧ ((∀ x ∈ s.slots, wanted k x.key = true → ∀ e ∈ s.takes.inUse, e.key = x.key →
                      ∀ y ∈ e.items, y.track ≠ x.track) →
                    exec (.clearSlots tag which) s =
                      .next
                        ({ s.taken with slots := s.slots.filter fun x => !wanted k x.key }.answered 0xA5 tag
                          (b1 0 ++ b2 (s.slots.countP fun (x : Slot) => wanted k x.key))))

/-- SET_GUARD: a span outside 0..7 or a field out of range gives RANGE; otherwise the present fields replace the span's,
the gates of every OPEN entry are evaluated, and the reply carries the span with its in-force mark (07 R124 to R126). An
absent field keeps its item, the flag is yes or no, a position is read under the active rate, and the reply is ADJUSTED
exactly when a skipped label was moved (R126). An evaluated track of an OPEN entry has its gate OPEN exactly while the class
is PLAY, P lies in its window, and no span in force that covers it contains P (07 R123). A gate that turns on becomes OPEN,
with first-open P if that was absent, which makes the track's provisional slot firm with its span kept (08 R147); one that
turns off becomes SHUT with last-close P; GUARDED is set, and never cleared, while P lies in the window under a span; every
other item, entry and slot stays (07 R124). -/
def Obligations.GuardsShutGates : Prop :=
  (∀ (tag n : Byte) (x : GuardItems) (s : State), s.canTake (.setGuard tag n x) = true →
      (s.takes.guards[n.toNat]? = none → exec (.setGuard tag n x) s = .next (s.taken.answered 0x8D tag [5]))
        ∧ ∀ g : Guard, s.takes.guards[n.toNat]? = some g →
            (g.update s.rate x = none → exec (.setGuard tag n x) s = .next (s.taken.answered 0x8D tag [5]))
              ∧ ∀ (g' : Guard) (moved : Bool), g.update s.rate x = some (g', moved) →
                  exec (.setGuard tag n x) s =
                    .next
                      ((evalGates s.tracker.cls s.tracker.head
                          { s.taken with
                            takes := { s.takes with guards := s.takes.guards.set n.toNat g' } }).answered
                        0x8D tag
                        (b1 (if moved then 1 else 0) ++ [n] ++ flag g'.enabled ++ half g'.tracks
                          ++ posItem s.rate g'.base ++ posItem s.rate g'.limit
                          ++ flag (g'.enabled && decide (g'.base ≤ g'.limit)))))
    ∧ (∀ (r : Rate) (x : GuardItems) (g : Guard),
        (g.update r x = none ↔
            (∃ b : Byte, x.enabled = some b ∧ 1 < b.toNat)
              ∨ ∃ w : WirePos, (x.base = some w ∨ x.limit = some w) ∧ posField r w = none)
          ∧ ∀ (g' : Guard) (moved : Bool), g.update r x = some (g', moved) →
              (x.enabled = none → g'.enabled = g.enabled)
                ∧ (∀ b : Byte, x.enabled = some b → (g'.enabled = true ↔ b = 1))
                ∧ (x.tracks = none → g'.tracks = g.tracks) ∧ (∀ v : Half, x.tracks = some v → g'.tracks = v)
                ∧ (x.base = none → g'.base = g.base) ∧ (x.limit = none → g'.limit = g.limit)
                ∧ (∀ w : WirePos, x.base = some w → ∃ m : Bool, posField r w = some (g'.base, m))
                ∧ (∀ w : WirePos, x.limit = some w → ∃ m : Bool, posField r w = some (g'.limit, m))
                ∧ (moved = true ↔
                    ∃ (w : WirePos) (a : Nat), (x.base = some w ∨ x.limit = some w) ∧ posField r w = some (a, true)))
    ∧ (∀ (cls : MotionClass) (p : Nat) (s t : State) (shut on : TrackItem → Prop), t = evalGates cls p s →
        (∀ x : TrackItem, shut x ↔
          ∃ g ∈ s.takes.guards,
            g.enabled = true ∧ g.tracks.getLsbD x.track = true ∧ g.base ≤ p ∧ p ≤ g.limit) →
        (∀ x : TrackItem, on x ↔ cls = .play ∧ x.winStart ≤ p ∧ p < x.winEnd ∧ ¬ shut x) →
        s.takes.entries.length = 4 →
        t =
            { s with
              takes := { s.takes with entries := t.takes.entries, gateLines := t.takes.gateLines },
              slots := t.slots }
          ∧ (∀ i : Nat, s.takes.entries[i]? = some none → t.takes.entries[i]? = some none)
          ∧ (∀ (i : Nat) (e : TakeEntry), s.takes.entries[i]? = some (some e) →
              (e.opened = false → t.takes.entries[i]? = some (some e))
                ∧ (e.opened = true →
                    ∃ items : List TrackItem,
                      t.takes.entries[i]? = some (some { e with items }) ∧ items.length = e.items.length
                        ∧ ∀ (j : Nat) (x : TrackItem), e.items[j]? = some x →
                            ∃ y : TrackItem, items[j]? = some y
                              ∧ (on x → x.gate ≠ .opened →
                                  y = { x with gate := .opened, firstOpen := some (x.firstOpen.getD p) })
                              ∧ (¬ on x → x.gate = .opened →
                                  y = { x with gate := .shut, lastClose := some p, guarded := y.guarded })
                              ∧ ((on x ↔ x.gate = .opened) → y = { x with guarded := y.guarded })
                              ∧ (y.guarded = true ↔
                                  x.guarded = true ∨ x.winStart ≤ p ∧ p < x.winEnd ∧ shut x)))
          ∧ t.slots.length = s.slots.length
          ∧ (∀ (k : Nat) (z : Slot) (opens : Prop), s.slots[k]? = some z →
              (opens ↔
                ∃ e ∈ s.takes.inUse, e.opened = true ∧ e.key = z.key
                  ∧ ∃ x ∈ e.items, x.track = z.track ∧ on x ∧ x.gate ≠ .opened ∧ x.firstOpen = none) →
              (opens → t.slots[k]? = some { z with firmness := .firm }) ∧ (¬ opens → t.slots[k]? = some z))
          ∧ ∀ k : Nat,
              ((∀ e ∈ s.takes.inUse, e.opened = true → ∀ x ∈ e.items, x.track ≠ k) →
                  t.takes.gateLines.getLsbD k = s.takes.gateLines.getLsbD k)
                ∧ (s.takes.coherent → ∀ e ∈ s.takes.inUse, e.opened = true → ∀ x ∈ e.items, x.track = k →
                    (t.takes.gateLines.getLsbD k = true ↔ on x)))
    ∧ ∀ (cls : MotionClass) (p : Nat) (s : State) (i : Nat) (e : TakeEntry), s.takes.entries.length = 4 →
        (evalGates cls p s).takes.entryAt i = some e → e.opened = true →
        ∀ x ∈ e.items,
          (x.gate = .opened ↔
            cls = .play ∧ x.winStart ≤ p ∧ p < x.winEnd
              ∧ ∀ g ∈ s.takes.guards, ¬ (g.enabled = true ∧ g.tracks.getLsbD x.track = true ∧ g.base ≤ p
                ∧ p ≤ g.limit))

/-- Every step keeps these agreements. The log's reservations are the entries in use and its places are not exceeded (07
R115, 08 R142); its take numbers run on from record to record with 1 after 65535, none stands twice, and the collected
records are the oldest (08 R141, R143, R144). No track is held by two entries, and a gate line is on exactly for a track of
an OPEN entry whose gate is OPEN (07 R115, R123). The slot table holds at most 512 slots, one for a key and a track, and a
provisional slot has its owner in use with that track not yet opened (08 R146, R147). -/
def Obligations.TakesAndLogStayCoherent : Prop :=
  (∀ s t : State, s.booked → step s = .next t → t.booked)
    ∧ (∀ s t : State, s.booked → s.log.numbered → step s = .next t → t.log.numbered)
    ∧ (∀ s t : State, s.takes.coherent → step s = .next t → t.takes.coherent)
    ∧ ∀ s t : State, s.slotsAgree → step s = .next t → t.slotsAgree

/-! ### Passes and the transport link (09) -/

/-- START_PASS: a mode, key, target or flag out of range gives RANGE, a forbidden combination MODE, an unknown key
UNKNOWN_KEY, a RUN backward MODE, the first test that fails naming the refusal; a cycles count above 99 is 99 (09 R154);
in IDLE the pass starts, with ordinal 1, the last flag clear and the items of the request; with a pass in hand it is
queued when asked and none is queued, and BUSY otherwise. STOP_CYCLE sets the last flag and discards the queued pass;
ABANDON_PASS closes every OPEN take, discards the passes in hand and queued, and wants a STOP; in IDLE both are refused
with STATE (09 R154, R155, R164 to R166; the reply forms of START_PASS are log 13). The pass points are those of 09
R157, from the in and out points of the keys' cues, the preroll and the postroll, held to the day; that a LOCATE's
target is not held to it again is log 40. -/
def Obligations.PassRequestsAct : Prop :=
  (∀ (tag : Byte) (x : PassItems) (s : State),
    (s.canTake (.startPass tag x) = true →
        (passFields s.rate x = none → exec (.startPass tag x) s = .next (s.taken.answered 0xB0 tag [5]))
          ∧ ∀ q : PassRequest, passFields s.rate x = some q →
              (∀ c : ResultCode, s.passRefusal q.pass = some c →
                  (c = .mode ∨ c = .unknownKey)
                    ∧ exec (.startPass tag x) s = .next (s.taken.answered 0xB0 tag [BitVec.ofNat 8 c.code]))
                ∧ (s.passRefusal q.pass = none →
                    (s.pass.state = .idle →
                        ∀ (start : Nat) (stop : Option Nat),
                          s.passPoints q.pass.mode q.pass.first q.pass.last q.pass.target = (start, stop) →
                          exec (.startPass tag x) s =
                            .next
                              ((beginCycle q.pass.inHand s.taken).answered 0xB0 tag
                                (b1 (if q.adjusted then 1 else 0)
                                  ++ b2 (if s.pass.number = 65535 then 1 else s.pass.number + 1)
                                  ++ posItem s.rate start ++ opt (posItem s.rate) stop)))
                      ∧ (s.pass.state ≠ .idle → q.queue = true → s.pass.queued = none →
                          exec (.startPass tag x) s =
                            .next
                              ({ s.taken with pass := { s.pass with queued := some q.pass } }.answered 0xB0 tag
                                (b1 (if q.adjusted then 1 else 0) ++ flag true)))
                      ∧ (s.pass.state ≠ .idle → q.queue = false ∨ s.pass.queued ≠ none →
                          exec (.startPass tag x) s = .next (s.taken.answered 0xB0 tag [3]))))
      ∧ (s.pass.inHand = none →
          (s.canTake (.stopCycle tag) = true →
              exec (.stopCycle tag) s = .next (s.taken.answered 0xB1 tag [4]))
            ∧ (s.canTake (.abandonPass tag) = true →
                exec (.abandonPass tag) s = .next (s.taken.answered 0xB2 tag [4])))
      ∧ ∀ h : PassInHand, s.pass.inHand = some h →
          (s.canTake (.stopCycle tag) = true →
              exec (.stopCycle tag) s =
                .next
                  ({ s.taken with
                      pass := { s.pass with inHand := some { h with lastFlag := true }, queued := none } }.answered
                    0xB1 tag (b1 0 ++ b1 s.pass.state.code ++ b2 h.ordinal ++ flag s.pass.queued.isSome)))
            ∧ (s.canTake (.abandonPass tag) = true → s.takes.entries.length = 4 →
                ∃ t : State,
                  t.pass.state = .idle ∧ t.pass.inHand = none ∧ t.pass.queued = none ∧ t.pass.deadline = none
                    ∧ t.pass.number = s.pass.number ∧ t.takes.openCount = 0
                    ∧ t.transport =
                        s.transport.send { kind := .stop, text := [0x53, 0x54, 0x4F, 0x50], owner := none }
                    ∧ t = abortPass .abandoned none s.taken
                    ∧ exec (.abandonPass tag) s =
                        .next
                          (t.answered 0xB2 tag (b1 0 ++ b2 s.pass.number ++ b1 s.takes.openCount))))
    ∧ (∀ (r : Rate) (x : PassItems),
        (passFields r x = none ↔
            3 < x.mode.toNat ∨ (∃ w : WireKey, (x.first = some w ∨ x.last = some w) ∧ keyOf w = none)
              ∨ (∃ w : WirePos, x.target = some w ∧ posField r w = none) ∨ 1 < x.record.toNat ∨ 1 < x.queue.toNat)
          ∧ ∀ q : PassRequest, passFields r x = some q →
              [PassMode.single, .cycle, .run, .locate][x.mode.toNat]? = some q.pass.mode
                ∧ q.pass.first = x.first.bind keyOf ∧ q.pass.last = x.last.bind keyOf
                ∧ q.pass.target = (x.target.bind (posField r)).map Prod.fst
                ∧ q.pass.cycles = min x.cycles.toNat 99
                ∧ (q.pass.record = true ↔ x.record = 1) ∧ (q.queue = true ↔ x.queue = 1)
                ∧ (q.adjusted = true ↔
                    (∃ (w : WirePos) (a : Nat), x.target = some w ∧ posField r w = some (a, true))
                      ∨ (q.pass.mode = .cycle ∧ 99 < x.cycles.toNat)))
    ∧ (∀ (s : State) (q : QueuedPass) (forbidden absent backward : Prop),
        (forbidden ↔
          (q.record = true ∧ (q.mode = .run ∨ q.mode = .locate)) ∨ (q.last ≠ none ∧ q.mode ≠ .run)
            ∨ (q.first = none ∧ q.mode ≠ .locate) ∨ (q.last = none ∧ q.mode = .run)
            ∨ (q.target = none ∧ q.mode = .locate) ∨ (q.target ≠ none ∧ q.mode ≠ .locate)
            ∨ (q.first ≠ none ∧ q.mode = .locate)) →
        (absent ↔ ∃ k : Key, (q.first = some k ∨ q.last = some k) ∧ findCue s.cues k = none) →
        (backward ↔
          q.mode = .run ∧ ∃ a b : Key, q.first = some a ∧ q.last = some b
            ∧ indexOfKey b s.cues < indexOfKey a s.cues) →
        (forbidden → s.passRefusal q = some .mode)
          ∧ (¬ forbidden → absent → s.passRefusal q = some .unknownKey)
          ∧ (¬ forbidden → ¬ absent → backward → s.passRefusal q = some .mode)
          ∧ (¬ forbidden → ¬ absent → ¬ backward → s.passRefusal q = none))
    ∧ (∀ q : QueuedPass,
        q.inHand.mode = q.mode ∧ q.inHand.first = q.first ∧ q.inHand.last = q.last ∧ q.inHand.target = q.target
          ∧ q.inHand.cycles = q.cycles ∧ q.inHand.record = q.record ∧ q.inHand.ordinal = 1
          ∧ q.inHand.lastFlag = false ∧ q.inHand.playReached = false ∧ q.inHand.arm = none ∧ q.inHand.result = none)
    ∧ (∀ (cues : List Cue) (k : Key) (before after : List Cue) (c : Cue), cues = before ++ c :: after → c.key = k →
        (∀ d ∈ before, d.key ≠ k) → indexOfKey k cues = before.length)
    ∧ ∀ (s : State) (first last : Option Key) (target : Option Nat),
        (∀ (k : Key) (c : Cue), first = some k → findCue s.cues k = some c →
            (∀ mode : PassMode, mode = .single ∨ mode = .cycle →
                s.passPoints mode first last target =
                  (c.inPt - s.pass.preroll * 100, some (min (c.outPt + s.pass.postroll * 100) s.rate.lastPos)))
              ∧ ∀ (j : Key) (d : Cue), last = some j → findCue s.cues j = some d →
                  s.passPoints .run first last target =
                    (c.inPt - s.pass.preroll * 100, some (min (d.outPt + s.pass.postroll * 100) s.rate.lastPos)))
          ∧ ∀ a : Nat, target = some a → s.passPoints .locate first last target = (a, none)

/-- A pass starts in LOCATING with the next number, its points and deadline, and a LOC for its start point; a recording
SINGLE or CYCLE arms its take first, and a refused arm aborts it (09 R156, R157; 07 R121). An OK answer to a request of
the pass in hand, and the motion of the phase, move it on: PARKED within two frames of the start point to ROLLING_UP, or
to the completion of a LOCATE; settled PLAY to ROLLING, or on to ENDING at the end point; STILL in ENDING to completion
(R158 to R161, R169). A completed CYCLE goes on; any other completion starts a queued pass, or fails it for its keys
(R161; log 19). Any other report is tested against the phase, and changes nothing in ROLLING but at the end point (R158
to R161). In and after ROLLING_UP a class of NONE aborts LOST and one that leaves PLAY aborts MOTION, but ENDING closes
the take; an abort closes takes, discards both passes, and STOPs by its reason (R163, R165, R166). A PASS notice carries
the items of R167, with the record flag of the cycle's start and P, absent when the class is NONE; an abort offers it
marked last, after the ARM_LAPSED of its arm. An arm's entry, slots and log are those of ARM_TAKE (ArmTakeArms) but for
origin, number and deadline. That the text of a LOC is built when it is wanted is log 23, and that an owner is told by
its pass number, with a flag for its OK answer, is log 31. These too are the model's choice: a class change into PLAY in
LOCATING sets no PLAY-reached flag (log 39), a relocate that enters ENDING or is taken in it, with another class than
PLAY, closes the takes at the P before it (log 5), the cycle after ordinal 65535 has a free ordinal (log 6), the pass
arm is absent after its close or freeing (log 24), and an abort closes several takes in ascending entry number (log 46).
-/
def Obligations.PassPhasesFollowAnswersAndMotion : Prop :=
  (∀ (h h1 : PassInHand) (s s1 : State) (start : Nat) (stop : Option Nat) (number : Nat) (located : PassInHand → State),
      s.passPoints h.mode h.first h.last h.target = (start, stop) →
      number = (if s.pass.number = 65535 then 1 else s.pass.number + 1) →
      h1 =
        { h with
          playReached := false, arm := none, result := none, startPt := start, endPt := stop, answered := false,
          recordAtStart := h.record } →
      s1 = { s with pass := { s.pass with number, state := .locating, inHand := some h1 } } →
      (∀ x : PassInHand, located x =
        { s1 with
          pass := { s1.pass with
            inHand := some x,
            deadline := some (s.counter + BitVec.ofNat 32 (s.pass.locateTimeout * 1000000)) },
          transport :=
            s.transport.send
              { kind := .loc,
                text := [0x4C, 0x4F, 0x43, 0x20] ++ locLabel s.rate s.tracker.settings.offset start,
                owner := some { number, first := h.first } } }) →
      (h.record = false ∨ h.mode = .run ∨ h.mode = .locate → beginCycle h s = located h1)
        ∧ (h.record = true → h.mode = .single ∨ h.mode = .cycle → ∀ k : Key, h.first = some k →
            (∀ c : ResultCode, armTest k none s1 = .error c → beginCycle h s = abortPass .armRefused (some c) s1)
              ∧ ∀ (cue : Cue) (ts : List Nat) (i : Nat), armTest k none s1 = .ok (cue, ts, i) →
                  ∃ (e : TakeEntry) (slots : List Slot) (log : TakeLog),
                    beginCycle h s =
                        { located { h1 with arm := some i } with
                          takes := { s.takes with entries := s.takes.entries.set i (some e) }, slots, log }
                      ∧ e.key = cue.key ∧ e.opened = false ∧ e.origin = .pass ∧ e.passNumber = number
                      ∧ e.winStart = cue.inPt - s.takes.punchLead * 100
                      ∧ e.winEnd = min (cue.outPt + s.takes.punchTail * 100) s.rate.lastPos
                      ∧ e.lead = s.takes.punchLead ∧ e.tail = s.takes.punchTail ∧ e.disarmAfter = false
                      ∧ e.deadline = none ∧ e.items.map TrackItem.track = ts
                      ∧ slots =
                          s.slots
                            ++ (ts.filter fun x => decide (∀ y ∈ s.slots, y.key = cue.key → y.track ≠ x)).map
                                (fun x =>
                                  { key := cue.key, track := x, base := e.winStart, fin := e.winEnd,
                                    firmness := .provisional i })
                      ∧ (∀ (j x : Nat), ts[j]? = some x →
                          ∃ y : Slot, findSlot slots cue.key x = some y
                            ∧ e.items[j]? =
                                some
                                  { track := x, winStart := max e.winStart y.base, winEnd := min e.winEnd y.fin,
                                    gate := .wait, firstOpen := none, lastClose := none,
                                    truncated := decide (e.winStart < y.base ∨ y.fin < e.winEnd), guarded := false })
                      ∧ (s.log.isFull = false → log = { s.log with reservations := s.log.reservations + 1 })
                      ∧ ∀ (older newer : List TakeRecord) (r : TakeRecord), s.log.isFull = true →
                          s.log.records = older ++ r :: newer → r.collected = true →
                          (∀ q ∈ older, q.collected = false) →
                          log = { s.log with records := older ++ newer, reservations := s.log.reservations + 1 }))
    ∧ (∀ (snap : Snap) (h : PassInHand) (s : State) (ending : State), s.pass.inHand = some h →
        ending =
          { s with
            pass := { s.pass with
              state := .ending, inHand := some { h with answered := false },
              deadline := some (s.counter + BitVec.ofNat 32 (s.pass.locateTimeout * 1000000)) },
            transport :=
              s.transport.send
                { kind := .stop, text := [0x53, 0x54, 0x4F, 0x50],
                  owner := some { number := s.pass.number, first := h.first } } } →
        (h.answered = false → phaseTest snap s = s)
          ∧ (s.pass.state = .locating → h.answered = true →
              (snap.state = .parked → frameOf h.startPt ≤ frameOf snap.head + 2 →
                  frameOf snap.head ≤ frameOf h.startPt + 2 →
                  (h.mode = .locate → phaseTest snap s = completeCycle s)
                    ∧ (h.mode ≠ .locate →
                        phaseTest snap s =
                          { s with
                            pass := { s.pass with
                              state := .rollingUp, inHand := some { h with answered := false },
                              deadline := some (s.counter + BitVec.ofNat 32 (s.pass.locateTimeout * 1000000)) },
                            transport :=
                              s.transport.send
                                { kind := .play, text := [0x50, 0x4C, 0x41, 0x59],
                                  owner := some { number := s.pass.number, first := h.first } } }))
                ∧ (snap.state ≠ .parked ∨ frameOf snap.head + 2 < frameOf h.startPt
                      ∨ frameOf h.startPt + 2 < frameOf snap.head →
                    phaseTest snap s = s))
          ∧ (s.pass.state = .rollingUp → h.answered = true →
              (snap.cls = .play → snap.settled = true → h.atEnd snap.head = false →
                  phaseTest snap s = { s with pass := { s.pass with state := .rolling, deadline := none } })
                ∧ (snap.cls = .play → snap.settled = true → h.atEnd snap.head = true → phaseTest snap s = ending)
                ∧ (snap.cls ≠ .play ∨ snap.settled = false → phaseTest snap s = s))
          ∧ (s.pass.state = .ending → h.answered = true →
              (snap.cls = .still → phaseTest snap s = completeCycle s)
                ∧ (snap.cls ≠ .still → phaseTest snap s = s))
          ∧ (∀ kind : ReportKind, s.pass.state = .locating → passReport { kind, snap } s = phaseTest snap s)
          ∧ (∀ kind : ReportKind, s.pass.state = .rollingUp ∨ s.pass.state = .ending →
              (∀ old new : MotionClass, kind ≠ .classChange old new) →
              (s.pass.state = .ending → ∀ old new : Nat, kind ≠ .relocate old new) →
              passReport { kind, snap } s = phaseTest snap s)
          ∧ (s.pass.state = .rolling →
              passReport { kind := .lock, snap } s = s ∧ passReport { kind := .settle, snap } s = s)
          ∧ (∀ (old new : Nat) (step0 : Bool), s.pass.state = .rolling →
              (h.atEnd new = false →
                  passReport { kind := .advance old new step0, snap } s = s
                    ∧ passReport { kind := .relocate old new, snap } s = s)
                ∧ (h.atEnd new = true →
                    passReport { kind := .advance old new step0, snap } s = ending
                      ∧ (snap.cls = .play → passReport { kind := .relocate old new, snap } s = ending)
                      ∧ (snap.cls ≠ .play →
                          passReport { kind := .relocate old new, snap } s = closeAllOpen .broken old ending)))
          ∧ (∀ old new : MotionClass,
              (s.pass.state = .rollingUp ∨ s.pass.state = .rolling ∨ s.pass.state = .ending → new = .none →
                  passReport { kind := .classChange old new, snap } s = abortPass .lost none s)
                ∧ (s.pass.state = .rollingUp ∧ h.playReached = true ∨ s.pass.state = .rolling → old = .play →
                    new ≠ .none →
                    passReport { kind := .classChange old new, snap } s = abortPass .motion none s)
                ∧ (s.pass.state = .rollingUp → h.playReached = false ∨ old ≠ .play → new = .play →
                    passReport { kind := .classChange old new, snap } s =
                      phaseTest snap
                        { s with pass := { s.pass with inHand := some { h with playReached := true } } })
                ∧ (s.pass.state = .rollingUp → h.playReached = false ∨ old ≠ .play → new ≠ .play → new ≠ .none →
                    passReport { kind := .classChange old new, snap } s = phaseTest snap s)
                ∧ (s.pass.state = .rolling → old ≠ .play → new ≠ .none →
                    passReport { kind := .classChange old new, snap } s = s)
                ∧ (s.pass.state = .ending → new ≠ .none →
                    (old = .play →
                        passReport { kind := .classChange old new, snap } s =
                          phaseTest snap (closeAllOpen .broken snap.head s))
                      ∧ (old ≠ .play → passReport { kind := .classChange old new, snap } s = phaseTest snap s)))
          ∧ ∀ old new : Nat, s.pass.state = .ending →
              (snap.cls ≠ .play →
                  passReport { kind := .relocate old new, snap } s = phaseTest snap (closeAllOpen .broken old s))
                ∧ (snap.cls = .play → passReport { kind := .relocate old new, snap } s = phaseTest snap s))
    ∧ (∀ (s : State) (why : PassEnd) (last discarded : Bool) (refusal : Option ResultCode) (h : PassInHand)
        (pos : Option Nat), (s.tracker.cls = .none → pos = none) → (s.tracker.cls ≠ .none → pos = some s.tracker.head) →
        s.passNotice why last refusal discarded h =
          .pass
            { reason := why, number := s.pass.number, mode := h.mode, first := h.first, ordinal := h.ordinal, last,
              recording := h.recordAtStart, result := h.result, refusal, queuedDiscarded := discarded,
              position := pos })
    ∧ (∀ (h : PassInHand) (s : State) (next : Bool), s.pass.inHand = some h →
        (next = true ↔ h.mode = .cycle ∧ h.lastFlag = false ∧ (h.cycles = 0 ∨ h.ordinal < h.cycles)) →
        (∀ (i : Nat) (e : TakeEntry), h.arm = some i → s.takes.entries[i]? = some (some e) → e.opened = false →
            e.origin = .pass → completeCycle s = completeCycle (freeArmed (.lapse .pass) i s))
          ∧ (h.arm = none → next = true → h.ordinal < 65535 →
              completeCycle s =
                beginCycle { h with ordinal := h.ordinal + 1 } (offer (s.passNotice .done false none false h) s))
          ∧ (h.arm = none → next = true → 65535 ≤ h.ordinal →
              ∃ n : Nat, 1 ≤ n ∧ n ≤ 65535
                ∧ ∀ told : State, told = offer (s.passNotice .done false none false h) s →
                    completeCycle s = beginCycle { h with ordinal := n } { told with freeDraws := s.freeDraws + 1 })
          ∧ (h.arm = none → next = false → ∀ t : State, t = offer (s.passNotice .done true none false h) s →
              completeCycle s =
                startQueued
                  (testSafePoint
                    { t with pass := { t.pass with state := .idle, inHand := none, deadline := none } }))
          ∧ (∀ (i number : Nat) (st : TakeStatus) (disarm : Bool) (cause : FreeCause),
              (h.arm = some i →
                  passTakeClosed i number st disarm s =
                      { s with
                        pass := { s.pass with
                          inHand := some { h with
                            arm := none, result := some (number, st),
                            record := if disarm then false else h.record } } }
                    ∧ passArmFreed i cause s =
                        { s with
                          pass := { s.pass with
                            inHand := some { h with
                              arm := none, record := if cause = .disarm then false else h.record } } })
                ∧ (h.arm ≠ some i → passTakeClosed i number st disarm s = s ∧ passArmFreed i cause s = s))
          ∧ ∀ (reason : PassEnd) (refusal : Option ResultCode) (t : State), s.takes.entries.length = 4 →
              t = abortPass reason refusal s →
              t.pass.state = .idle ∧ t.pass.inHand = none ∧ t.pass.queued = none ∧ t.pass.deadline = none
                ∧ t.pass.number = s.pass.number ∧ t.takes.openCount = 0
                ∧ (∃ records : List TakeRecord,
                    t.log.records = s.log.records ++ records ∧ records.length = s.takes.openCount
                      ∧ ∀ r ∈ records, r.status = (if reason = .abandoned then .aborted else .broken)
                        ∧ r.closePos = s.tracker.head)
                ∧ (reason = .motion ∨ reason = .lost ∨ reason = .locateTimeout ∨ reason = .abandoned →
                    t.transport =
                      s.transport.send { kind := .stop, text := [0x53, 0x54, 0x4F, 0x50], owner := none })
                ∧ (reason = .armRefused ∨ reason = .transportRefused ∨ reason = .transportSilent →
                    t.transport = s.transport)
                ∧ ∀ (closed freed told : State) (g f : PassInHand),
                    closed =
                      closeAllOpen (if reason = .abandoned then .aborted else .broken) s.tracker.head s →
                    closed.pass.inHand = some g → (g.arm = none → freed = closed) →
                    (∀ i : Nat, g.arm = some i → freed = freeArmed (.lapse .pass) i closed) →
                    freed.pass.inHand = some f →
                    told =
                      offer (freed.passNotice reason true refusal s.pass.queued.isSome f)
                        { freed with pass := { freed.pass with queued := none } } →
                    ∃ u : State,
                      u =
                          testSafePoint
                            { told with
                              pass := { told.pass with state := .idle, inHand := none, deadline := none } }
                        ∧ t = { u with transport := t.transport })
    ∧ (∀ (s s1 : State) (q : QueuedPass), s1 = { s with pass := { s.pass with queued := none } } →
        (s.pass.queued = none → startQueued s = s)
          ∧ (s.pass.queued = some q →
              ((∀ k : Key, q.first = some k ∨ q.last = some k → findCue s.cues k ≠ none) →
                  (∀ a b : Key, q.mode = .run → q.first = some a → q.last = some b →
                    indexOfKey a s.cues ≤ indexOfKey b s.cues) →
                  startQueued s = beginCycle q.inHand s1)
                ∧ ((∃ k : Key, (q.first = some k ∨ q.last = some k) ∧ findCue s.cues k = none)
                      ∨ (∃ a b : Key, q.mode = .run ∧ q.first = some a ∧ q.last = some b
                        ∧ indexOfKey b s.cues < indexOfKey a s.cues) →
                  ∀ t : State,
                    t =
                      { s1 with
                        pass := { s1.pass with
                          number := if s.pass.number = 65535 then 1 else s.pass.number + 1 } } →
                    startQueued s = offer (t.passNotice .keys true none false q.inHand) t)))
    ∧ ∀ (req : TransportRequest) (s s1 : State) (kind : FaultKind) (reason : PassEnd) (owned : Prop),
        s1 = { s with transport := s.transport.finish } →
        (owned ↔ s.pass.inHand ≠ none ∧ ∃ o : RequestOwner, req.owner = some o ∧ o.number = s.pass.number) →
        (¬ owned →
            requestGranted req s = s1
              ∧ requestFailed kind reason req s = recordFault (s.transportFault kind req) s1)
          ∧ (owned →
              (∀ h : PassInHand, s.pass.inHand = some h →
                  requestGranted req s =
                    phaseTest s.tracker.snap
                      { s1 with pass := { s1.pass with inHand := some { h with answered := true } } })
                ∧ requestFailed kind reason req s =
                    abortPass reason none (recordFault (s.transportFault kind req) s1))

/-- The transport link's events and the phase deadline: a carriage return that leaves starts the answer deadline of the
outstanding request, 250,000 µs on, and of no other; a request wanted in IDLE becomes the outstanding one and joins the
line, and one wanted in WAITING becomes the waiting request in place of an older one; at an answer or expiry the waiting
request is sent at once, or the state is IDLE; characters other than line feeds are gathered, up to nine; a whole line
of OK or NO answers a request that awaits one and any other line is discarded; a reached answer deadline fails the
request with TRANSPORT_SILENT; a reached phase deadline records LOCATE_TIMEOUT, its detail the phase, and aborts (09
R162, R168, R169). A transport fault carries P, absent when the class is NONE, the owner's first key and the request's
code; a LOC's label is that of the frame with the offset removed, held to the day, with a semicolon under rate 3 (R168).
That a deadline is reached within half a wrap is log 10, and that a command whose cause does not hold changes nothing
else is log 2. -/
def Obligations.TransportAndPhaseEventsAct : Prop :=
  (∀ (t : Transport) (req : TransportRequest),
    (t.outstanding = none →
        t.send req =
          { t with
            outstanding := some { request := req, deadline := none }, line := t.line ++ [req.text ++ [0x0D]] })
      ∧ (t.outstanding ≠ none → t.send req = { t with waiting := some req })
      ∧ (t.waiting = none → t.finish = { t with outstanding := none })
      ∧ (t.waiting = some req →
          t.finish =
            { t with
              outstanding := some { request := req, deadline := none }, waiting := none,
              line := t.line ++ [req.text ++ [0x0D]] }))
  ∧ (∀ (s : State) (kind : FaultKind) (req : TransportRequest) (pos : Option Nat) (key : Option Key) (detail : Nat),
      (s.tracker.cls = .none → pos = none) → (s.tracker.cls ≠ .none → pos = some s.tracker.head) →
      (req.owner = none → key = none) → (∀ o : RequestOwner, req.owner = some o → key = o.first) →
      (req.kind = .loc ∧ detail = 1) ∨ (req.kind = .play ∧ detail = 2) ∨ (req.kind = .stop ∧ detail = 3) →
      s.transportFault kind req = { kind, position := pos, channel := none, key, detail })
  ∧ [PassState.locating, .rollingUp, .ending].map PassState.phaseCode = [1, 2, 3]
  ∧ (∀ (r : Rate) (offset : Int) (p n : Nat) (l : Label) (two : Nat → List Byte) (sep : Byte),
      (n : Int) = max 0 (min ((p / 100 : Nat) - offset) (r.dayLen - 1)) → l = Label.ofCount r n →
      (∀ v : Nat, two v = [BitVec.ofNat 8 (0x30 + v / 10 % 10), BitVec.ofNat 8 (0x30 + v % 10)]) →
      (r = .drop2997 → sep = 0x3B) → (r ≠ .drop2997 → sep = 0x3A) →
      locLabel r offset p = two l.h ++ [0x3A] ++ two l.m ++ [0x3A] ++ two l.s ++ [sep] ++ two l.f)
  ∧ ∀ (now : Stamp) (s : State),
    (s.transport.line = [] → exec (.transportRequestSent now) s = .next (elapseTo now s))
      ∧ (∀ (x : List Byte) (req : TransportRequest), s.transport.line = [x] →
          s.transport.outstanding = some { request := req, deadline := none } →
          exec (.transportRequestSent now) s =
            .next
              { elapseTo now s with
                transport := { s.transport with
                  line := [], outstanding := some { request := req, deadline := some (now + 250000) } } })
      ∧ (∀ x : List Byte, s.transport.line = [x] →
          (∀ req : TransportRequest, s.transport.outstanding ≠ some { request := req, deadline := none }) →
          exec (.transportRequestSent now) s =
            .next { elapseTo now s with transport := { s.transport with line := [] } })
      ∧ (∀ (x y : List Byte) (rest : List (List Byte)), s.transport.line = x :: y :: rest →
          exec (.transportRequestSent now) s =
            .next { elapseTo now s with transport := { s.transport with line := y :: rest } })
      ∧ (∀ c : Byte, c ≠ 0x0D →
          (c = 0x0A ∨ 9 ≤ s.transport.gathered.length →
              exec (.transportCharacterReceived c now) s = .next (elapseTo now s))
            ∧ (c ≠ 0x0A → s.transport.gathered.length ≤ 8 →
                exec (.transportCharacterReceived c now) s =
                  .next
                    { elapseTo now s with
                      transport := { s.transport with gathered := s.transport.gathered ++ [c] } }))
      ∧ (∀ (req : TransportRequest) (d : Stamp) (s1 : State),
          s.transport.outstanding = some { request := req, deadline := some d } →
          s1 = { elapseTo now s with transport := { s.transport with gathered := [] } } →
          (s.transport.gathered = [0x4F, 0x4B] → exec (.transportAnswer now) s = .next (requestGranted req s1))
            ∧ (s.transport.gathered = [0x4E, 0x4F] →
                exec (.transportAnswer now) s =
                  .next (requestFailed .transportRefused .transportRefused req s1))
            ∧ (s.transport.gathered ≠ [0x4F, 0x4B] → s.transport.gathered ≠ [0x4E, 0x4F] →
                exec (.transportAnswer now) s = .next s1)
            ∧ (elapsed d now < 2147483648 →
                exec (.transportAnswerDeadline now) s =
                  .next (requestFailed .transportSilent .transportSilent req (elapseTo now s)))
            ∧ (2147483648 ≤ elapsed d now → exec (.transportAnswerDeadline now) s = .next (elapseTo now s)))
      ∧ ((∀ (req : TransportRequest) (d : Stamp),
            s.transport.outstanding ≠ some { request := req, deadline := some d }) →
          exec (.transportAnswer now) s =
              .next { elapseTo now s with transport := { s.transport with gathered := [] } }
            ∧ exec (.transportAnswerDeadline now) s = .next (elapseTo now s))
      ∧ (s.pass.deadline = none → exec (.phaseDeadlineExpiry now) s = .next (elapseTo now s))
      ∧ ∀ d : Stamp, s.pass.deadline = some d →
          (2147483648 ≤ elapsed d now → exec (.phaseDeadlineExpiry now) s = .next (elapseTo now s))
            ∧ (elapsed d now < 2147483648 →
                exec (.phaseDeadlineExpiry now) s =
                  .next
                    (abortPass .locateTimeout none
                      (recordFault
                        { kind := .locateTimeout,
                          position := if s.tracker.cls = .none then none else some s.tracker.head,
                          channel := none, key := s.pass.inHand.bind PassInHand.first,
                          detail := s.pass.state.phaseCode }
                        (elapseTo now s))))

/-- A pass is in hand exactly while the pass state is not IDLE, and IDLE has no phase deadline (09 R152, R162): every step
keeps it. -/
def Obligations.PassStaysCoherent : Prop :=
  ∀ s t : State, s.pass.coherent → step s = .next t → t.pass.coherent

/-! ### The whole engine -/

/-- RESTART answers OK and leaves the tracker SILENT with its play head and settings kept, no take armed or open, no
pass in hand or queued, no transport request outstanding or waiting, the intake empty, no switch pending, the banks
with their roles, every enabled channel with the map, schedule and outputs of a rebuild against P, every other one as it was,
and every setting as it was (11 R197; 02 R17, 03 R39, 05 R78, R89, 07 R137, 09 R171). The replies, the receiver's progress, the
hold state, the mask and the frame being sent are kept, the queued notices and the characters leaving the transport's line
stand ahead of new ones (R197). The take log keeps its records, ahead of one BROKEN record at P for each OPEN entry, and loses
the reservations of the entries; every FIRM slot stays and the slots of tracks never opened go (08 R139, R146). The fault log
keeps every item but for NOTICE_OVERFLOW faults newly recorded (10 R172). The gate lines are off. How a word cut short is told
is log 9. -/
def Obligations.RestartReturnsEveryBlock : Prop :=
  ∀ (tag : Byte) (s : State), s.canTake (.restart tag) = true → s.takes.entries.length = 4 → s.channels.length = 8 →
    ∃ t : State,
      exec (.restart tag) s = .next (t.answered 0x84 tag [0])
        ∧ t.tracker = { Tracker.reset with settings := s.tracker.settings, head := s.tracker.head }
        ∧ t.reader = { invalidRun := 0, sinceCut := 0 }
        ∧ t.takes.inUse = [] ∧ (s.takes.coherent → t.takes.gateLines = 0)
        ∧ t.pass.state = .idle ∧ t.pass.inHand = none ∧ t.pass.queued = none ∧ t.pass.deadline = none
        ∧ t.pass.number = s.pass.number
        ∧ t.transport.outstanding = none ∧ t.transport.waiting = none ∧ t.transport.gathered = []
        ∧ s.transport.line <+: t.transport.line
        ∧ t.link = { s.link with intake := [], notices := t.link.notices } ∧ s.link.notices <+: t.link.notices
        ∧ t.table = { s.table with switchPending := false }
        ∧ t.counter = s.counter ∧ t.window = s.window ∧ t.video = s.video
        ∧ (∀ (n : Nat) (c : Channel), s.channels[n]? = some c →
            (c.settings.enabled = false → t.channels[n]? = some c)
              ∧ (c.settings.enabled = true →
                  t.channels[n]? =
                    some
                      (c.rebuild
                        { no := n, cues := s.cues, window := s.window, present := s.video.present, now := s.counter,
                          rate := s.rate }
                        s.tracker.head).1))
        ∧ (∀ (n : Nat) (c : Channel), t.channels[n]? = some c → c.settings.enabled = true →
            c.tone = Tone.idle ∧ c.lamps = { ready := 0, live := 0 } ∧ c.overlay = Overlay.clear)
        ∧ (∃ records : List TakeRecord,
            t.log.records = s.log.records ++ records
              ∧ records.map TakeRecord.key = (s.takes.inUse.filter TakeEntry.opened).map TakeEntry.key
              ∧ ∀ r ∈ records, r.status = .broken ∧ r.closePos = s.tracker.head ∧ r.collected = false)
        ∧ t.log.reservations = s.log.reservations - s.takes.inUse.length
        ∧ (∀ y : Slot, y ∈ t.slots ↔
            y ∈ s.slots
              ∧ (y.firmness = .firm
                  ∨ ∀ e ∈ s.takes.inUse, e.key = y.key → ∀ x ∈ e.items, x.track = y.track →
                      e.opened = true ∧ x.firstOpen.isSome = true))
        ∧ t.faults.slots.length = s.faults.slots.length ∧ s.faults.order <+: t.faults.order
        ∧ (∀ (i : Nat) (f : FaultRecord), s.faults.slots[i]? = some (some f) → t.faults.slots[i]? = some (some f))
        ∧ (∀ (i : Nat) (f : FaultRecord), t.faults.slots[i]? = some (some f) →
            s.faults.slots[i]? = some (some f) ∨ f.kind = .noticeOverflow)
        ∧ (s.faults.order ≠ [] → t.faults.firstPending = s.faults.firstPending)
        ∧ (s.faults.overflow = true → t.faults = { s.faults with owed := t.faults.owed })
        ∧ (s.faults.owed = true → t.faults.owed = true)
        ∧ (t.faults.order = s.faults.order → t.faults.overflow = s.faults.overflow → t.faults = s.faults)
        ∧ s.sameSettings t

/-- Only requests and POWER_ON change settings: no word, timer, character or byte changes a tracking, window, channel,
take, guard, pass or notice setting (02 R36, 04 R61, 05 R75, 07 R117, R125, 09 R153, 10 R177). -/
def Obligations.EventsKeepSettings : Prop :=
  ∀ (c : Instr) (s t : State), Instr.isRequest c = false → c ≠ .powerOn → exec c s = .next t → s.sameSettings t
end

