-- ==== Sys2Proof/Laws/Banks.lean ====
section
/-! SUPPORT. A bank stays in table order, without a key twice and within its bound, under every change of its records
(03 R45, R48, R49, R56). -/

namespace Sys2Proof.Machine

/-! ### Table order is a strict order on keys and records -/

theorem Key.before_trans {a b c : Key} (h : a.before b = true) (k : b.before c = true) : a.before c = true := by
  simp only [Key.before, Bool.or_eq_true, Bool.and_eq_true, decide_eq_true_eq] at *
  omega

theorem Key.before_total {a b : Key} (h : a.before b = false) (n : a ≠ b) : b.before a = true := by
  obtain ⟨an, as⟩ := a
  obtain ⟨bn, bs⟩ := b
  simp only [Key.before, Bool.or_eq_true, Bool.and_eq_true, decide_eq_true_eq, Bool.or_eq_false_iff,
    Bool.and_eq_false_iff, decide_eq_false_iff_not] at *
  by_cases e : an = bn
  · subst e
    have hs : as ≠ bs := fun e => n (by rw [e])
    cases as with
    | none => cases bs with
      | none => exact absurd rfl hs
      | some y => simp_all [Key.suffixCode]
    | some x => cases bs with
      | none => simp_all [Key.suffixCode]
      | some y =>
        have : x.val ≠ y.val := fun e => hs (by rw [Fin.ext e])
        simp_all [Key.suffixCode]
        omega
  · omega

theorem Cue.before_trans {a b c : Cue} (h : a.before b = true) (k : b.before c = true) : a.before c = true := by
  simp only [Cue.before, Bool.or_eq_true, Bool.and_eq_true, decide_eq_true_eq] at *
  rcases h with h | h <;> rcases k with k | k
  · exact .inl (by omega)
  · exact .inl (by omega)
  · exact .inl (by omega)
  · exact .inr ⟨by omega, Key.before_trans h.2 k.2⟩

theorem Cue.before_total {a b : Cue} (h : a.before b = false) (n : a.key ≠ b.key) : b.before a = true := by
  simp only [Cue.before, Bool.or_eq_true, Bool.and_eq_true, decide_eq_true_eq, Bool.or_eq_false_iff,
    Bool.and_eq_false_iff, decide_eq_false_iff_not] at *
  by_cases e : a.inPt = b.inPt
  · exact .inr ⟨e.symm, Key.before_total (by simpa [e] using h.2) n⟩
  · exact .inl (by omega)

/-! ### Placing and dropping records -/

theorem mem_insertBy {α : Type} (lt : α → α → Bool) (x y : α) (l : List α) :
    y ∈ insertBy lt x l ↔ y = x ∨ y ∈ l := by
  induction l with
  | nil => simp [insertBy]
  | cons z l ih =>
    unfold insertBy
    split
    · simp
    · simp only [List.mem_cons, ih]
      tauto

theorem insertBy_cue_pairwise (c : Cue) (l : List Cue) (h : l.Pairwise fun x y => x.before y = true)
    (n : ∀ d ∈ l, d.key ≠ c.key) : (insertBy Cue.before c l).Pairwise fun x y => x.before y = true := by
  induction l with
  | nil => simp [insertBy]
  | cons d l ih =>
    have hd := List.pairwise_cons.mp h
    unfold insertBy
    split
    · rename_i hb
      refine List.pairwise_cons.mpr ⟨fun e he => ?_, h⟩
      rcases List.mem_cons.mp he with rfl | he
      · exact hb
      · exact Cue.before_trans hb (hd.1 e he)
    · rename_i hb
      refine List.pairwise_cons.mpr ⟨fun e he => ?_, ih hd.2 fun e he => n e (List.mem_cons_of_mem d he)⟩
      rcases (mem_insertBy _ _ _ _).mp he with rfl | he
      · exact Cue.before_total (by simpa using hb) (fun e => n d (by simp) e.symm)
      · exact hd.1 e he

theorem insertBy_perm {α : Type} (lt : α → α → Bool) (x : α) (l : List α) : (insertBy lt x l).Perm (x :: l) := by
  induction l with
  | nil => exact .refl _
  | cons y l ih =>
    unfold insertBy
    split
    · exact .refl _
    · exact (ih.cons y).trans (.swap x y l)

theorem dropKey_length_lt (k : Key) (cues : List Cue) (h : (findCue cues k).isSome = true) :
    (dropKey k cues).length + 1 ≤ cues.length := by
  have : (dropKey k cues).length < cues.length := by
    rw [dropKey, List.length_filter_lt_length_iff_exists]
    obtain ⟨c, hc⟩ := Option.isSome_iff_exists.mp h
    exact ⟨c, List.mem_of_find?_eq_some hc, by simpa using List.find?_some hc⟩
  omega

theorem dropKey_ordered (k : Key) (b : Bank) (h : b.ordered) : { b with cues := dropKey k b.cues }.ordered :=
  ⟨(List.length_filter_le _ _).trans h.1, h.2.1.sublist (List.filter_sublist.map _),
    h.2.2.sublist List.filter_sublist⟩

/-- A record placed within the bank's bound leaves the bank in order. -/
theorem placeCue_ordered (c : Cue) (b : Bank) (h : b.ordered)
    (room : (findCue b.cues c.key).isSome = true ∨ b.cues.length < 512) :
    { b with cues := placeCue c b.cues }.ordered := by
  have hd := dropKey_ordered c.key b h
  have hn : ∀ d ∈ dropKey c.key b.cues, d.key ≠ c.key := by
    intro d hd
    simpa [dropKey] using (List.mem_filter.mp hd).2
  have hp := insertBy_perm Cue.before c (dropKey c.key b.cues)
  refine ⟨?_, ?_, insertBy_cue_pairwise c _ hd.2.2 hn⟩
  · show (insertBy Cue.before c (dropKey c.key b.cues)).length ≤ 512
    rw [hp.length_eq, List.length_cons]
    rcases room with r | r
    · have := dropKey_length_lt _ _ r
      have := h.1
      omega
    · have : (dropKey c.key b.cues).length ≤ b.cues.length := List.length_filter_le _ _
      omega
  · refine (hp.map Cue.key).nodup_iff.mpr ?_
    rw [List.map_cons, List.nodup_cons]
    refine ⟨fun m => ?_, hd.2.1⟩
    obtain ⟨d, hd, e⟩ := List.mem_map.mp m
    exact hn d hd e

theorem CueTable.withStaged_ordered (t : CueTable) (b : Bank) (h : t.ordered) (k : b.ordered) :
    (t.withStaged b).ordered := by
  unfold CueTable.withStaged
  split
  · exact ⟨h.1, k⟩
  · exact ⟨k, h.2⟩

theorem CueTable.withActive_ordered (t : CueTable) (b : Bank) (h : t.ordered) (k : b.ordered) :
    (t.withActive b).ordered := by
  unfold CueTable.withActive
  split
  · exact ⟨k, h.2⟩
  · exact ⟨h.1, k⟩

theorem CueTable.stagedBank_ordered (t : CueTable) (h : t.ordered) : t.stagedBank.ordered := by
  unfold CueTable.stagedBank
  split
  · exact h.2
  · exact h.1

theorem CueTable.activeBank_ordered (t : CueTable) (h : t.ordered) : t.activeBank.ordered := by
  unfold CueTable.activeBank
  split
  · exact h.1
  · exact h.2

end Sys2Proof.Machine
end

