-- ==== Sys2Proof/Laws/Schedules.lean ====
section
/-! SUPPORT. Schedule order (05 R74) is a strict order, and every entry placed keeps a schedule in it. -/

namespace Sys2Proof.Machine

/-- Two keys of one number and one suffix code are one key. -/
theorem Key.eq_of_codes {a b : Key} (h : a.num = b.num) (k : a.suffixCode = b.suffixCode) : a = b := by
  by_contra n
  rcases hb : a.before b with _ | _
  · have := Key.before_total hb n
    simp [Key.before, h, k] at this
  · simp [Key.before, h, k] at hb

/-- Schedule order spelled out: point, kind, in point, key number, key suffix, beep index (05 R74). -/
theorem Entry.before_iff (a b : Entry) : a.before b = true ↔
    a.point < b.point ∨ a.point = b.point ∧ (a.kind.rank < b.kind.rank ∨ a.kind.rank = b.kind.rank
      ∧ (a.cueIn < b.cueIn ∨ a.cueIn = b.cueIn ∧ (a.key.num < b.key.num ∨ a.key.num = b.key.num
        ∧ (a.key.suffixCode < b.key.suffixCode ∨ a.key.suffixCode = b.key.suffixCode
          ∧ a.kind.beepIndex < b.kind.beepIndex)))) := by
  unfold Entry.before
  split
  · simp only [decide_eq_true_eq]; omega
  · split
    · simp only [decide_eq_true_eq]; omega
    · split
      · simp only [decide_eq_true_eq]; omega
      · split
        · rename_i n
          have : ¬ (a.key.num = b.key.num ∧ a.key.suffixCode = b.key.suffixCode) :=
            fun h => n (Key.eq_of_codes h.1 h.2)
          simp only [Key.before, Bool.or_eq_true, Bool.and_eq_true, decide_eq_true_eq]
          omega
        · rename_i n
          have e : a.key = b.key := not_not.mp n
          have e1 : a.key.num = b.key.num := by rw [e]
          have e2 : a.key.suffixCode = b.key.suffixCode := by rw [e]
          simp only [decide_eq_true_eq]
          omega

theorem Entry.before_trans {a b c : Entry} (h : a.before b = true) (k : b.before c = true) : a.before c = true := by
  rw [Entry.before_iff] at *
  omega

theorem Entry.before_asymm {a b : Entry} (h : a.before b = true) : b.before a = false := by
  rcases e : b.before a with _ | _
  · rfl
  · rw [Entry.before_iff] at *
    omega

/-- An entry placed in a schedule in order leaves it in order. -/
theorem insertBy_inOrder (e : Entry) (l : List Entry) (h : l.Pairwise fun a b => b.before a = false) :
    (insertBy Entry.before e l).Pairwise fun a b => b.before a = false := by
  induction l with
  | nil => simp [insertBy]
  | cons d l ih =>
    have hd := List.pairwise_cons.mp h
    unfold insertBy
    split
    · rename_i hb
      refine List.pairwise_cons.mpr ⟨fun f hf => ?_, h⟩
      rcases List.mem_cons.mp hf with rfl | hf
      · exact Entry.before_asymm hb
      · rcases k : f.before e with _ | _
        · rfl
        · exact absurd (Entry.before_trans k hb) (by simp [hd.1 f hf])
    · rename_i hb
      refine List.pairwise_cons.mpr ⟨fun f hf => ?_, ih hd.2⟩
      rcases (mem_insertBy _ _ _ _).mp hf with rfl | hf
      · simpa using hb
      · exact hd.1 f hf

theorem placeEntries_inOrder (es sch : List Entry) (h : sch.Pairwise fun a b => b.before a = false) :
    (placeEntries es sch).Pairwise fun a b => b.before a = false := by
  unfold placeEntries
  induction es generalizing sch with
  | nil => exact h
  | cons e es ih => exact ih _ (insertBy_inOrder e sch h)

end Sys2Proof.Machine
end

