-- ==== Sys2Proof/Laws/Channels.lean ====
section
/-! SUPPORT. What every operation on one channel keeps: its settings, a schedule in
order within 48 entries, and a status map with no key twice (04 R62, 05 R74, R76). -/

namespace Sys2Proof.Machine

/-- A channel operation under an active bank with no key twice keeps the settings, and keeps a channel that fits. -/
def Channel.keeps (cues : List Cue) (c c' : Channel) : Prop :=
  c'.settings = c.settings ∧ ((cues.map Cue.key).Nodup → c.fits → c'.fits)

variable {cues : List Cue}

theorem Channel.keeps_refl (c : Channel) : Channel.keeps cues c c := ⟨rfl, fun _ => id⟩

theorem Channel.keeps.trans {a b c : Channel} (h : Channel.keeps cues a b) (k : Channel.keeps cues b c) :
    Channel.keeps cues a c := ⟨k.1.trans h.1, fun n x => k.2 n (h.2 n x)⟩

/-- A channel with some of the schedule's entries and some of the map's keys left fits as before. -/
theorem Channel.fits_of_sublist {c c' : Channel} (k : c'.schedule.Sublist c.schedule)
    (m : (c'.map.map MapEntry.key).Sublist (c.map.map MapEntry.key)) (h : c.fits) : c'.fits :=
  ⟨k.length_le.trans h.1, h.2.1.sublist k, h.2.2.sublist m⟩

/-- An operation that leaves the settings and only takes entries out of the schedule and keys out of the map. -/
theorem Channel.keeps_of_sublist {c c' : Channel} (h : c'.settings = c.settings)
    (k : c'.schedule.Sublist c.schedule) (m : (c'.map.map MapEntry.key).Sublist (c.map.map MapEntry.key)) :
    Channel.keeps cues c c' := ⟨h, fun _ => Channel.fits_of_sublist k m⟩

/-- A status changed leaves the map's keys. -/
@[simp] theorem setStatus_keys (k : Key) (st : CueStatus) (copy : Option CueCopy) (map : List MapEntry) :
    (setStatus k st copy map).map MapEntry.key = map.map MapEntry.key := by
  unfold setStatus
  rw [List.map_map]
  refine List.map_congr_left fun m _ => ?_
  simp only [Function.comp]
  split <;> rfl

/-- The map built from the active bank has the keys of the cues accepted (05 R78 step 4). -/
theorem Channel.freshMap_keys (env : ChannelEnv) (p : Nat) (c : Channel) :
    (c.freshMap env p).map MapEntry.key = (env.cues.filter fun q => c.acceptsTag q.tag).map Cue.key := by
  unfold Channel.freshMap
  rw [List.map_map]
  rfl

theorem Channel.freshMap_nodup (env : ChannelEnv) (p : Nat) (c : Channel) (h : (env.cues.map Cue.key).Nodup) :
    ((c.freshMap env p).map MapEntry.key).Nodup := by
  rw [Channel.freshMap_keys]
  exact h.sublist (List.filter_sublist.map _)

/-- A channel with an empty schedule and a map built anew fits. -/
theorem Channel.fits_fresh (env : ChannelEnv) (p : Nat) (c d : Channel) (n : (env.cues.map Cue.key).Nodup)
    (h : d.schedule = []) (m : d.map = c.freshMap env p) : d.fits :=
  ⟨by simp [h], by simp [h], by rw [m]; exact c.freshMap_nodup env p n⟩

/-- A channel with nothing in its schedule and its map fits. -/
theorem Channel.fits_of_nil {c : Channel} (h : c.schedule = []) (m : c.map = []) : c.fits := by
  unfold Channel.fits
  simp [h, m]

/-- A fold of operations that keep a channel keeps it; `f` reads the channel out of the accumulator. -/
theorem Channel.keeps_foldl {α β : Type} (get : β → Channel) (f : β → α → β)
    (h : ∀ b x, Channel.keeps cues (get b) (get (f b x))) (l : List α) (b : β) :
    Channel.keeps cues (get b) (get (l.foldl f b)) := by
  induction l generalizing b with
  | nil => exact Channel.keeps_refl _
  | cons x l ih => exact (h b x).trans (ih (f b x))

theorem Channel.pass_keeps (k : Key) (r : PassReason) (c : Channel) : Channel.keeps cues c (c.pass k r) :=
  Channel.keeps_of_sublist rfl List.filter_sublist (by simp [Channel.pass])

theorem Channel.settleMembership_keeps (bank : List Cue) (k : Key) (c : Channel) :
    Channel.keeps cues c (c.settleMembership bank k) := by
  unfold Channel.settleMembership
  split
  · exact Channel.keeps_refl c
  · exact Channel.keeps_of_sublist rfl (List.Sublist.refl _) (List.filter_sublist.map _)

theorem Channel.passReported_keeps (env : ChannelEnv) (p : Nat) (r : PassReason) (ks : List Key) (c : Channel) :
    Channel.keeps env.cues c (c.passReported env p r ks).1 :=
  Channel.keeps_foldl Prod.fst _ (fun b k => b.1.pass_keeps k r) ks (c, [])

theorem Channel.passSkipped_keeps (ks : List Key) (c : Channel) : Channel.keeps cues c (c.passSkipped ks) :=
  Channel.keeps_foldl id _ (fun b k => b.pass_keeps k .skipped) ks c

theorem Channel.interrupt_keeps (env : ChannelEnv) (p : Nat) (c : Channel) :
    Channel.keeps env.cues c (c.interrupt env p).1 :=
  Channel.keeps_foldl Prod.fst _
    (fun b k => (b.1.pass_keeps k .interrupted).trans (Channel.settleMembership_keeps _ _ _)) _ (c, [])

theorem Channel.withdraw_keeps (c : Channel) : Channel.keeps cues c c.withdraw :=
  Channel.keeps_of_sublist rfl (List.Sublist.refl _) (List.Sublist.refl _)

theorem Channel.present_keeps (v : Bool) (now : Stamp) (e : FiredEvent) (c : Channel) :
    Channel.keeps cues c (c.present v now e) :=
  Channel.keeps_of_sublist rfl (List.Sublist.refl _) (List.Sublist.refl _)

/-! ### Expansion (05 R76) -/

theorem insertBy_length {α : Type} (lt : α → α → Bool) (x : α) (l : List α) :
    (insertBy lt x l).length = l.length + 1 := by
  induction l with
  | nil => rfl
  | cons y ys ih =>
    unfold insertBy
    split
    · rfl
    · simp [ih]

theorem placeEntries_length (es sch : List Entry) : (placeEntries es sch).length = sch.length + es.length := by
  unfold placeEntries
  induction es generalizing sch with
  | nil => rfl
  | cons e es ih => simp only [List.foldl_cons, ih, insertBy_length, List.length_cons]; omega

/-- A cue is taken in whole, and only where its events fit (05 R76). -/
theorem Channel.takeIn_keeps (xs : List Candidate) (c : Channel) : Channel.keeps cues c (Channel.takeIn xs c) := by
  induction xs generalizing c with
  | nil => exact Channel.keeps_refl c
  | cons x xs ih =>
    unfold Channel.takeIn
    split
    · rename_i h
      refine Channel.keeps.trans (b := c.queueCue x.cue) ⟨rfl, fun _ f => ⟨?_, placeEntries_inOrder _ _ f.2.1, ?_⟩⟩
        (ih _)
      · simpa [Channel.queueCue, placeEntries_length, entriesOf] using h
      · simpa [Channel.queueCue] using f.2.2
    · exact Channel.keeps_refl c

theorem Channel.expand_keeps (env : ChannelEnv) (p : Nat) (c : Channel) :
    Channel.keeps env.cues c (c.expand env p) :=
  Channel.takeIn_keeps _ c

/-! ### Firing and passing -/

theorem Channel.fire_keeps (env : ChannelEnv) (p : Nat) (e : Entry) (c : Channel) :
    Channel.keeps env.cues c (c.fire env p e).1 := by
  have h : Channel.keeps env.cues c { c with schedule := c.schedule.erase e } :=
    Channel.keeps_of_sublist rfl List.erase_sublist (by simp)
  unfold Channel.fire
  split
  · exact h
  · dsimp only
    split
    · refine h.trans (Channel.keeps.trans ?_ (Channel.settleMembership_keeps _ _ _))
      exact Channel.keeps_of_sublist rfl (List.Sublist.refl _) (by simp [Channel.present])
    · exact h.trans (Channel.keeps_of_sublist rfl (List.Sublist.refl _) (by simp [Channel.present]))

theorem Channel.fireCrossed_keeps (env : ChannelEnv) (p : Nat) (c : Channel) :
    Channel.keeps env.cues c (c.fireCrossed env p).1 :=
  Channel.keeps_foldl Prod.fst (fun acc e => ((acc.1.fire env p e).1, acc.2 ++ (acc.1.fire env p e).2))
    (fun b e => b.1.fire_keeps env p e) _ (c, [])

theorem Channel.passForSettle_keeps (env : ChannelEnv) (p : Nat) (c : Channel) :
    Channel.keeps env.cues c (c.passForSettle env p).1 :=
  Channel.passReported_keeps ..

theorem Channel.passForRoom_keeps (env : ChannelEnv) (p : Nat) (c : Channel) :
    Channel.keeps env.cues c (c.passForRoom env p).1 :=
  Channel.keeps_foldl Prod.fst _ (fun b x => b.1.pass_keeps x.cue.key .scheduleFull) _ (c, [])

theorem Channel.passOvertaken_keeps (env : ChannelEnv) (p : Nat) (c : Channel) :
    Channel.keeps env.cues c (c.passOvertaken env p) :=
  Channel.passSkipped_keeps ..

theorem Channel.joinPlay_keeps (env : ChannelEnv) (p : Nat) (c : Channel) :
    Channel.keeps env.cues c (c.joinPlay env p).1 := by
  refine Channel.keeps_foldl Prod.fst _ (fun b k => ?_) _ (c, [])
  dsimp only
  split
  · split <;> exact b.1.pass_keeps k _
  · split <;> exact b.1.pass_keeps k _

theorem Channel.leavePlay_keeps (env : ChannelEnv) (p : Nat) (c : Channel) :
    Channel.keeps env.cues c (c.leavePlay env p).1 :=
  (c.interrupt_keeps env p).trans (Channel.withdraw_keeps _)

theorem Channel.revert_keeps (env : ChannelEnv) (p : Nat) (c : Channel) :
    Channel.keeps env.cues c (c.revert env p) :=
  Channel.keeps_of_sublist rfl (List.Sublist.refl _) (by
    unfold Channel.revert
    rw [List.map_map]
    refine (List.map_congr_left fun m _ => ?_).symm ▸ List.Sublist.refl _
    simp only [Function.comp]
    split <;> first | rfl | (split <;> first | rfl | (split <;> rfl)))

theorem Channel.takeAdvance_keeps (env : ChannelEnv) (snap : Snap) (old new : Nat) (z : Bool) (c : Channel) :
    Channel.keeps env.cues c (c.takeAdvance env snap old new z).1 := by
  unfold Channel.takeAdvance
  dsimp only
  refine Channel.keeps.trans ?_ (Channel.expand_keeps ..)
  refine (c.revert_keeps env new).trans ?_
  split
  · refine Channel.keeps.trans ?_ (Channel.passForRoom_keeps ..)
    split
    · exact Channel.fireCrossed_keeps ..
    · exact Channel.passForSettle_keeps ..
  · split
    · exact Channel.passOvertaken_keeps ..
    · exact Channel.keeps_refl _

/-! ### Rebuilds and reports -/

theorem Channel.rebuild_keeps (env : ChannelEnv) (p : Nat) (c : Channel) :
    Channel.keeps env.cues c (c.rebuild env p).1 := by
  unfold Channel.rebuild
  dsimp only
  refine Channel.keeps.trans (b := { (c.interrupt env p).1.withdraw with schedule := [], map := _ }) ?_
    (Channel.expand_keeps ..)
  exact ⟨(c.interrupt_keeps env p).1, fun n _ => Channel.fits_fresh env p _ _ n rfl rfl⟩

theorem Channel.takeReport_keeps (env : ChannelEnv) (rep : Report) (c : Channel) :
    Channel.keeps env.cues c (c.takeReport env rep).1 := by
  unfold Channel.takeReport
  split
  · split
    · exact c.rebuild_keeps ..
    · exact c.rebuild_keeps ..
    · split
      · exact c.joinPlay_keeps ..
      · split
        · exact c.leavePlay_keeps ..
        · exact c.keeps_refl
    · exact c.keeps_refl
    · exact c.takeAdvance_keeps ..
  · exact c.keeps_refl

theorem Channel.takeEdit_keeps (env : ChannelEnv) (p : Nat) (old new : Cue) (c : Channel) :
    Channel.keeps env.cues c (c.takeEdit env p old new) := by
  unfold Channel.takeEdit
  split
  · exact c.keeps_refl
  · dsimp only
    split
    · split
      · rename_i hk
        refine Channel.keeps.trans (b := { c with map := c.map ++ [freshEntry new c.settings.textLead p] })
          ⟨rfl, fun _ f => ⟨f.1, f.2.1, ?_⟩⟩ (Channel.expand_keeps ..)
        rw [List.map_append, List.nodup_append]
        refine ⟨f.2.2, by simp, ?_⟩
        intro a ha b hb e
        obtain ⟨m, hm, rfl⟩ := List.mem_map.mp ha
        obtain rfl : b = new.key := by simpa [freshEntry] using hb
        have := List.find?_eq_none.mp hk m hm
        simp [e] at this
      · split
        · refine Channel.keeps.trans ?_ (Channel.expand_keeps ..)
          exact Channel.keeps_of_sublist rfl List.filter_sublist (by simp)
        · refine Channel.keeps.trans ?_ (Channel.expand_keeps ..)
          exact Channel.keeps_of_sublist rfl List.filter_sublist (by simp)
        · exact c.keeps_refl
    · split
      · split
        · exact c.keeps_refl
        · split
          · exact c.keeps_refl
          · exact Channel.keeps_of_sublist rfl List.filter_sublist (List.filter_sublist.map _)
      · exact c.keeps_refl

/-- A change of settings keeps a channel that fits (04 R66, R68, R69). -/
theorem Channel.changeSettings_fits (env : ChannelEnv) (p : Nat) (x : ChannelSettings) (c : Channel)
    (n : (env.cues.map Cue.key).Nodup) (h : c.fits) : (c.changeSettings env p x).1.1.fits := by
  have tone : ∀ d : Channel, d.fits → (d.changeToneMode c.settings).fits := by
    intro d f; unfold Channel.changeToneMode; split <;> exact f
  unfold Channel.changeSettings
  dsimp only
  refine tone _ ?_
  split
  · exact (Channel.expand_keeps env p _).2 n (Channel.fits_fresh env p _ _ n rfl rfl)
  · split
    · exact Channel.fits_of_nil rfl rfl
    · split
      · refine (Channel.expand_keeps env p _).2 n ⟨(List.length_filter_le _ _).trans h.1,
          h.2.1.sublist List.filter_sublist, ?_⟩
        dsimp only
        rw [List.map_append, List.nodup_append]
        refine ⟨h.2.2.sublist (List.filter_sublist.map _),
          (Channel.freshMap_nodup env p _ n).sublist (List.filter_sublist.map _), ?_⟩
        intro a ha b hb e
        subst e
        obtain ⟨m, hm, rfl⟩ := List.mem_map.mp ha
        obtain ⟨q, hq, hk⟩ := List.mem_map.mp hb
        have := (List.mem_filter.mp hq).2
        simp only [hk, Bool.not_eq_true', List.any_eq_false] at this
        exact absurd (decide_eq_true rfl) (this m hm)
      · exact h

/-- A change of settings leaves the channel with the new settings (04 R65). -/
theorem Channel.changeSettings_settings (env : ChannelEnv) (p : Nat) (x : ChannelSettings) (c : Channel) :
    (c.changeSettings env p x).1.1.settings = x := by
  have tone : ∀ d : Channel, (d.changeToneMode c.settings).settings = d.settings := by
    intro d; unfold Channel.changeToneMode; split <;> rfl
  unfold Channel.changeSettings
  dsimp only
  rw [tone]
  split
  · exact (Channel.expand_keeps env p _).1
  · split
    · exact (Channel.interrupt_keeps env p _).1
    · split
      · exact (Channel.expand_keeps env p _).1
      · rfl

end Sys2Proof.Machine
end

