-- ==== Sys2Proof/Laws/State.lean ====
section
/-! SUPPORT. What the named updates of State leave unchanged: one lemma a field, true by definition or by the cases of
the update. -/

namespace Sys2Proof.Machine

/-! ### Time -/

@[simp] theorem elapseTo_reader (now : Stamp) (s : State) :
    (elapseTo now s).reader = s.reader.elapse (elapsed s.counter now) := rfl
@[simp] theorem Reader.elapse_invalidRun (us : Nat) (r : Reader) : (r.elapse us).invalidRun = r.invalidRun := rfl
@[simp] theorem Reader.elapse_sinceCut (us : Nat) (r : Reader) :
    (r.elapse us).sinceCut = min (r.sinceCut + us) 4294967296 := rfl
@[simp] theorem elapseTo_tracker (now : Stamp) (s : State) : (elapseTo now s).tracker = s.tracker := rfl
@[simp] theorem elapseTo_table (now : Stamp) (s : State) : (elapseTo now s).table = s.table := rfl
@[simp] theorem elapseTo_window (now : Stamp) (s : State) : (elapseTo now s).window = s.window := rfl
@[simp] theorem elapseTo_video (now : Stamp) (s : State) : (elapseTo now s).video = s.video := rfl
@[simp] theorem elapseTo_takes (now : Stamp) (s : State) : (elapseTo now s).takes = s.takes := rfl
@[simp] theorem elapseTo_log (now : Stamp) (s : State) : (elapseTo now s).log = s.log := rfl
@[simp] theorem elapseTo_slots (now : Stamp) (s : State) : (elapseTo now s).slots = s.slots := rfl
@[simp] theorem elapseTo_pass (now : Stamp) (s : State) : (elapseTo now s).pass = s.pass := rfl
@[simp] theorem elapseTo_transport (now : Stamp) (s : State) : (elapseTo now s).transport = s.transport := rfl
@[simp] theorem elapseTo_faults (now : Stamp) (s : State) : (elapseTo now s).faults = s.faults := rfl
@[simp] theorem elapseTo_link (now : Stamp) (s : State) : (elapseTo now s).link = s.link := rfl
@[simp] theorem elapseTo_arbiter (now : Stamp) (s : State) : (elapseTo now s).arbiter = s.arbiter := rfl
@[simp] theorem elapseTo_freeDraws (now : Stamp) (s : State) : (elapseTo now s).freeDraws = s.freeDraws := rfl
@[simp] theorem elapseTo_pending (now : Stamp) (s : State) : (elapseTo now s).pending = s.pending := rfl
@[simp] theorem elapseTo_counter (now : Stamp) (s : State) : (elapseTo now s).counter = now := rfl
@[simp] theorem elapseTo_rate (now : Stamp) (s : State) : (elapseTo now s).rate = s.rate := rfl
@[simp] theorem elapseTo_cues (now : Stamp) (s : State) : (elapseTo now s).cues = s.cues := rfl

/-! ### Replies -/

@[simp] theorem queueReply_counter (r : Reply) (s : State) : (queueReply r s).counter = s.counter := rfl
@[simp] theorem queueReply_reader (r : Reply) (s : State) : (queueReply r s).reader = s.reader := rfl
@[simp] theorem queueReply_tracker (r : Reply) (s : State) : (queueReply r s).tracker = s.tracker := rfl
@[simp] theorem queueReply_table (r : Reply) (s : State) : (queueReply r s).table = s.table := rfl
@[simp] theorem queueReply_channels (r : Reply) (s : State) : (queueReply r s).channels = s.channels := rfl
@[simp] theorem queueReply_window (r : Reply) (s : State) : (queueReply r s).window = s.window := rfl
@[simp] theorem queueReply_video (r : Reply) (s : State) : (queueReply r s).video = s.video := rfl
@[simp] theorem queueReply_takes (r : Reply) (s : State) : (queueReply r s).takes = s.takes := rfl
@[simp] theorem queueReply_log (r : Reply) (s : State) : (queueReply r s).log = s.log := rfl
@[simp] theorem queueReply_slots (r : Reply) (s : State) : (queueReply r s).slots = s.slots := rfl
@[simp] theorem queueReply_pass (r : Reply) (s : State) : (queueReply r s).pass = s.pass := rfl
@[simp] theorem queueReply_transport (r : Reply) (s : State) : (queueReply r s).transport = s.transport := rfl
@[simp] theorem queueReply_faults (r : Reply) (s : State) : (queueReply r s).faults = s.faults := rfl
@[simp] theorem queueReply_arbiter (r : Reply) (s : State) : (queueReply r s).arbiter = s.arbiter := rfl
@[simp] theorem queueReply_freeDraws (r : Reply) (s : State) : (queueReply r s).freeDraws = s.freeDraws := rfl
@[simp] theorem queueReply_pending (r : Reply) (s : State) : (queueReply r s).pending = s.pending := rfl
@[simp] theorem queueReply_link_receiver (r : Reply) (s : State) : (queueReply r s).link.receiver = s.link.receiver := rfl
@[simp] theorem queueReply_link_intake (r : Reply) (s : State) : (queueReply r s).link.intake = s.link.intake := rfl
@[simp] theorem queueReply_link_notices (r : Reply) (s : State) : (queueReply r s).link.notices = s.link.notices := rfl
@[simp] theorem queueReply_link_mask (r : Reply) (s : State) : (queueReply r s).link.mask = s.link.mask := rfl
@[simp] theorem queueReply_link_held (r : Reply) (s : State) : (queueReply r s).link.held = s.link.held := rfl
@[simp] theorem queueReply_link_tx (r : Reply) (s : State) : (queueReply r s).link.tx = s.link.tx := rfl
@[simp] theorem queueReply_link_replies (r : Reply) (s : State) : (queueReply r s).link.replies = s.link.replies ++ [r] := rfl
@[simp] theorem taken_counter (s : State) : s.taken.counter = s.counter := rfl
@[simp] theorem taken_reader (s : State) : s.taken.reader = s.reader := rfl
@[simp] theorem taken_tracker (s : State) : s.taken.tracker = s.tracker := rfl
@[simp] theorem taken_table (s : State) : s.taken.table = s.table := rfl
@[simp] theorem taken_channels (s : State) : s.taken.channels = s.channels := rfl
@[simp] theorem taken_window (s : State) : s.taken.window = s.window := rfl
@[simp] theorem taken_video (s : State) : s.taken.video = s.video := rfl
@[simp] theorem taken_takes (s : State) : s.taken.takes = s.takes := rfl
@[simp] theorem taken_log (s : State) : s.taken.log = s.log := rfl
@[simp] theorem taken_slots (s : State) : s.taken.slots = s.slots := rfl
@[simp] theorem taken_pass (s : State) : s.taken.pass = s.pass := rfl
@[simp] theorem taken_transport (s : State) : s.taken.transport = s.transport := rfl
@[simp] theorem taken_faults (s : State) : s.taken.faults = s.faults := rfl
@[simp] theorem taken_arbiter (s : State) : s.taken.arbiter = s.arbiter := rfl
@[simp] theorem taken_freeDraws (s : State) : s.taken.freeDraws = s.freeDraws := rfl
@[simp] theorem taken_pending (s : State) : s.taken.pending = s.pending := rfl
@[simp] theorem taken_replies (s : State) : s.taken.link.replies = s.link.replies := rfl

/-! ### Notices and faults -/

@[simp] theorem recordLostNotice_counter (n : Notice) (s : State) : (recordLostNotice n s).counter = s.counter := by
  unfold recordLostNotice; dsimp only; split <;> rfl

@[simp] theorem recordLostNotice_reader (n : Notice) (s : State) : (recordLostNotice n s).reader = s.reader := by
  unfold recordLostNotice; dsimp only; split <;> rfl

@[simp] theorem recordLostNotice_tracker (n : Notice) (s : State) : (recordLostNotice n s).tracker = s.tracker := by
  unfold recordLostNotice; dsimp only; split <;> rfl

@[simp] theorem recordLostNotice_table (n : Notice) (s : State) : (recordLostNotice n s).table = s.table := by
  unfold recordLostNotice; dsimp only; split <;> rfl

@[simp] theorem recordLostNotice_channels (n : Notice) (s : State) : (recordLostNotice n s).channels = s.channels := by
  unfold recordLostNotice; dsimp only; split <;> rfl

@[simp] theorem recordLostNotice_window (n : Notice) (s : State) : (recordLostNotice n s).window = s.window := by
  unfold recordLostNotice; dsimp only; split <;> rfl

@[simp] theorem recordLostNotice_video (n : Notice) (s : State) : (recordLostNotice n s).video = s.video := by
  unfold recordLostNotice; dsimp only; split <;> rfl

@[simp] theorem recordLostNotice_takes (n : Notice) (s : State) : (recordLostNotice n s).takes = s.takes := by
  unfold recordLostNotice; dsimp only; split <;> rfl

@[simp] theorem recordLostNotice_log (n : Notice) (s : State) : (recordLostNotice n s).log = s.log := by
  unfold recordLostNotice; dsimp only; split <;> rfl

@[simp] theorem recordLostNotice_slots (n : Notice) (s : State) : (recordLostNotice n s).slots = s.slots := by
  unfold recordLostNotice; dsimp only; split <;> rfl

@[simp] theorem recordLostNotice_pass (n : Notice) (s : State) : (recordLostNotice n s).pass = s.pass := by
  unfold recordLostNotice; dsimp only; split <;> rfl

@[simp] theorem recordLostNotice_transport (n : Notice) (s : State) : (recordLostNotice n s).transport = s.transport := by
  unfold recordLostNotice; dsimp only; split <;> rfl

@[simp] theorem recordLostNotice_arbiter (n : Notice) (s : State) : (recordLostNotice n s).arbiter = s.arbiter := by
  unfold recordLostNotice; dsimp only; split <;> rfl

@[simp] theorem recordLostNotice_freeDraws (n : Notice) (s : State) : (recordLostNotice n s).freeDraws = s.freeDraws := by
  unfold recordLostNotice; dsimp only; split <;> rfl

@[simp] theorem recordLostNotice_pending (n : Notice) (s : State) : (recordLostNotice n s).pending = s.pending := by
  unfold recordLostNotice; dsimp only; split <;> rfl

@[simp] theorem recordLostNotice_link (n : Notice) (s : State) : (recordLostNotice n s).link = s.link := by
  unfold recordLostNotice; dsimp only; split <;> rfl

@[simp] theorem offer_counter (n : Notice) (s : State) : (offer n s).counter = s.counter := by
  unfold offer; split
  · split
    · rfl
    · exact recordLostNotice_counter n s
  · rfl

@[simp] theorem offer_reader (n : Notice) (s : State) : (offer n s).reader = s.reader := by
  unfold offer; split
  · split
    · rfl
    · exact recordLostNotice_reader n s
  · rfl

@[simp] theorem offer_tracker (n : Notice) (s : State) : (offer n s).tracker = s.tracker := by
  unfold offer; split
  · split
    · rfl
    · exact recordLostNotice_tracker n s
  · rfl

@[simp] theorem offer_table (n : Notice) (s : State) : (offer n s).table = s.table := by
  unfold offer; split
  · split
    · rfl
    · exact recordLostNotice_table n s
  · rfl

@[simp] theorem offer_channels (n : Notice) (s : State) : (offer n s).channels = s.channels := by
  unfold offer; split
  · split
    · rfl
    · exact recordLostNotice_channels n s
  · rfl

@[simp] theorem offer_window (n : Notice) (s : State) : (offer n s).window = s.window := by
  unfold offer; split
  · split
    · rfl
    · exact recordLostNotice_window n s
  · rfl

@[simp] theorem offer_video (n : Notice) (s : State) : (offer n s).video = s.video := by
  unfold offer; split
  · split
    · rfl
    · exact recordLostNotice_video n s
  · rfl

@[simp] theorem offer_takes (n : Notice) (s : State) : (offer n s).takes = s.takes := by
  unfold offer; split
  · split
    · rfl
    · exact recordLostNotice_takes n s
  · rfl

@[simp] theorem offer_log (n : Notice) (s : State) : (offer n s).log = s.log := by
  unfold offer; split
  · split
    · rfl
    · exact recordLostNotice_log n s
  · rfl

@[simp] theorem offer_slots (n : Notice) (s : State) : (offer n s).slots = s.slots := by
  unfold offer; split
  · split
    · rfl
    · exact recordLostNotice_slots n s
  · rfl

@[simp] theorem offer_pass (n : Notice) (s : State) : (offer n s).pass = s.pass := by
  unfold offer; split
  · split
    · rfl
    · exact recordLostNotice_pass n s
  · rfl

@[simp] theorem offer_transport (n : Notice) (s : State) : (offer n s).transport = s.transport := by
  unfold offer; split
  · split
    · rfl
    · exact recordLostNotice_transport n s
  · rfl

@[simp] theorem offer_arbiter (n : Notice) (s : State) : (offer n s).arbiter = s.arbiter := by
  unfold offer; split
  · split
    · rfl
    · exact recordLostNotice_arbiter n s
  · rfl

@[simp] theorem offer_freeDraws (n : Notice) (s : State) : (offer n s).freeDraws = s.freeDraws := by
  unfold offer; split
  · split
    · rfl
    · exact recordLostNotice_freeDraws n s
  · rfl

@[simp] theorem offer_pending (n : Notice) (s : State) : (offer n s).pending = s.pending := by
  unfold offer; split
  · split
    · rfl
    · exact recordLostNotice_pending n s
  · rfl

@[simp] theorem recordFault_counter (r : FaultRecord) (s : State) : (recordFault r s).counter = s.counter := by
  unfold recordFault; dsimp only; split
  · rfl
  · split
    · simp
    · rfl

@[simp] theorem recordFault_reader (r : FaultRecord) (s : State) : (recordFault r s).reader = s.reader := by
  unfold recordFault; dsimp only; split
  · rfl
  · split
    · simp
    · rfl

@[simp] theorem recordFault_tracker (r : FaultRecord) (s : State) : (recordFault r s).tracker = s.tracker := by
  unfold recordFault; dsimp only; split
  · rfl
  · split
    · simp
    · rfl

@[simp] theorem recordFault_table (r : FaultRecord) (s : State) : (recordFault r s).table = s.table := by
  unfold recordFault; dsimp only; split
  · rfl
  · split
    · simp
    · rfl

@[simp] theorem recordFault_channels (r : FaultRecord) (s : State) : (recordFault r s).channels = s.channels := by
  unfold recordFault; dsimp only; split
  · rfl
  · split
    · simp
    · rfl

@[simp] theorem recordFault_window (r : FaultRecord) (s : State) : (recordFault r s).window = s.window := by
  unfold recordFault; dsimp only; split
  · rfl
  · split
    · simp
    · rfl

@[simp] theorem recordFault_video (r : FaultRecord) (s : State) : (recordFault r s).video = s.video := by
  unfold recordFault; dsimp only; split
  · rfl
  · split
    · simp
    · rfl

@[simp] theorem recordFault_takes (r : FaultRecord) (s : State) : (recordFault r s).takes = s.takes := by
  unfold recordFault; dsimp only; split
  · rfl
  · split
    · simp
    · rfl

@[simp] theorem recordFault_log (r : FaultRecord) (s : State) : (recordFault r s).log = s.log := by
  unfold recordFault; dsimp only; split
  · rfl
  · split
    · simp
    · rfl

@[simp] theorem recordFault_slots (r : FaultRecord) (s : State) : (recordFault r s).slots = s.slots := by
  unfold recordFault; dsimp only; split
  · rfl
  · split
    · simp
    · rfl

@[simp] theorem recordFault_pass (r : FaultRecord) (s : State) : (recordFault r s).pass = s.pass := by
  unfold recordFault; dsimp only; split
  · rfl
  · split
    · simp
    · rfl

@[simp] theorem recordFault_transport (r : FaultRecord) (s : State) : (recordFault r s).transport = s.transport := by
  unfold recordFault; dsimp only; split
  · rfl
  · split
    · simp
    · rfl

@[simp] theorem recordFault_arbiter (r : FaultRecord) (s : State) : (recordFault r s).arbiter = s.arbiter := by
  unfold recordFault; dsimp only; split
  · rfl
  · split
    · simp
    · rfl

@[simp] theorem recordFault_freeDraws (r : FaultRecord) (s : State) : (recordFault r s).freeDraws = s.freeDraws := by
  unfold recordFault; dsimp only; split
  · rfl
  · split
    · simp
    · rfl

@[simp] theorem recordFault_pending (r : FaultRecord) (s : State) : (recordFault r s).pending = s.pending := by
  unfold recordFault; dsimp only; split
  · rfl
  · split
    · simp
    · rfl

/-- An offer leaves the link port as it is but for the notice queue (10 R178). -/
theorem offer_sameLink (n : Notice) (s : State) : s.sameLink (offer n s) := by
  unfold State.sameLink offer
  split
  · split
    · rfl
    · rw [recordLostNotice_link]
  · rfl

/-- A recording leaves the link port as it is but for the notice queue (10 R174, R176). -/
theorem recordFault_sameLink (f : FaultRecord) (s : State) : s.sameLink (recordFault f s) := by
  unfold recordFault
  dsimp only
  split
  · rfl
  · split
    · exact offer_sameLink _ _
    · rfl

/-- `sameLink` composes. -/
theorem State.sameLink.trans {s t u : State} (h : s.sameLink t) (k : t.sameLink u) : s.sameLink u := by
  unfold State.sameLink at *
  rw [k, h]

@[simp] theorem offer_link_receiver (n : Notice) (s : State) : (offer n s).link.receiver = s.link.receiver := by
  rw [offer_sameLink n s]

@[simp] theorem recordFault_link_receiver (r : FaultRecord) (s : State) : (recordFault r s).link.receiver = s.link.receiver := by
  rw [recordFault_sameLink r s]

@[simp] theorem offer_link_intake (n : Notice) (s : State) : (offer n s).link.intake = s.link.intake := by
  rw [offer_sameLink n s]

@[simp] theorem recordFault_link_intake (r : FaultRecord) (s : State) : (recordFault r s).link.intake = s.link.intake := by
  rw [recordFault_sameLink r s]

@[simp] theorem offer_link_replies (n : Notice) (s : State) : (offer n s).link.replies = s.link.replies := by
  rw [offer_sameLink n s]

@[simp] theorem recordFault_link_replies (r : FaultRecord) (s : State) : (recordFault r s).link.replies = s.link.replies := by
  rw [recordFault_sameLink r s]

@[simp] theorem offer_link_mask (n : Notice) (s : State) : (offer n s).link.mask = s.link.mask := by
  rw [offer_sameLink n s]

@[simp] theorem recordFault_link_mask (r : FaultRecord) (s : State) : (recordFault r s).link.mask = s.link.mask := by
  rw [recordFault_sameLink r s]

@[simp] theorem offer_link_held (n : Notice) (s : State) : (offer n s).link.held = s.link.held := by
  rw [offer_sameLink n s]

@[simp] theorem recordFault_link_held (r : FaultRecord) (s : State) : (recordFault r s).link.held = s.link.held := by
  rw [recordFault_sameLink r s]

@[simp] theorem offer_link_tx (n : Notice) (s : State) : (offer n s).link.tx = s.link.tx := by
  rw [offer_sameLink n s]

@[simp] theorem recordFault_link_tx (r : FaultRecord) (s : State) : (recordFault r s).link.tx = s.link.tx := by
  rw [recordFault_sameLink r s]

@[simp] theorem offer_rate (n : Notice) (s : State) : (offer n s).rate = s.rate := by simp [State.rate]

@[simp] theorem offer_cues (n : Notice) (s : State) : (offer n s).cues = s.cues := by simp [State.cues]

@[simp] theorem recordFault_rate (r : FaultRecord) (s : State) : (recordFault r s).rate = s.rate := by simp [State.rate]

@[simp] theorem recordFault_cues (r : FaultRecord) (s : State) : (recordFault r s).cues = s.cues := by simp [State.cues]

@[simp] theorem emitAll_counter (es : List Emit) (s : State) : (emitAll es s).counter = s.counter := by
  unfold emitAll
  induction es generalizing s with
  | nil => rfl
  | cons e es ih =>
    rw [List.foldl_cons, ih]
    cases e <;> simp

@[simp] theorem emitAll_reader (es : List Emit) (s : State) : (emitAll es s).reader = s.reader := by
  unfold emitAll
  induction es generalizing s with
  | nil => rfl
  | cons e es ih =>
    rw [List.foldl_cons, ih]
    cases e <;> simp

@[simp] theorem emitAll_tracker (es : List Emit) (s : State) : (emitAll es s).tracker = s.tracker := by
  unfold emitAll
  induction es generalizing s with
  | nil => rfl
  | cons e es ih =>
    rw [List.foldl_cons, ih]
    cases e <;> simp

@[simp] theorem emitAll_table (es : List Emit) (s : State) : (emitAll es s).table = s.table := by
  unfold emitAll
  induction es generalizing s with
  | nil => rfl
  | cons e es ih =>
    rw [List.foldl_cons, ih]
    cases e <;> simp

@[simp] theorem emitAll_channels (es : List Emit) (s : State) : (emitAll es s).channels = s.channels := by
  unfold emitAll
  induction es generalizing s with
  | nil => rfl
  | cons e es ih =>
    rw [List.foldl_cons, ih]
    cases e <;> simp

@[simp] theorem emitAll_window (es : List Emit) (s : State) : (emitAll es s).window = s.window := by
  unfold emitAll
  induction es generalizing s with
  | nil => rfl
  | cons e es ih =>
    rw [List.foldl_cons, ih]
    cases e <;> simp

@[simp] theorem emitAll_video (es : List Emit) (s : State) : (emitAll es s).video = s.video := by
  unfold emitAll
  induction es generalizing s with
  | nil => rfl
  | cons e es ih =>
    rw [List.foldl_cons, ih]
    cases e <;> simp

@[simp] theorem emitAll_takes (es : List Emit) (s : State) : (emitAll es s).takes = s.takes := by
  unfold emitAll
  induction es generalizing s with
  | nil => rfl
  | cons e es ih =>
    rw [List.foldl_cons, ih]
    cases e <;> simp

@[simp] theorem emitAll_log (es : List Emit) (s : State) : (emitAll es s).log = s.log := by
  unfold emitAll
  induction es generalizing s with
  | nil => rfl
  | cons e es ih =>
    rw [List.foldl_cons, ih]
    cases e <;> simp

@[simp] theorem emitAll_slots (es : List Emit) (s : State) : (emitAll es s).slots = s.slots := by
  unfold emitAll
  induction es generalizing s with
  | nil => rfl
  | cons e es ih =>
    rw [List.foldl_cons, ih]
    cases e <;> simp

@[simp] theorem emitAll_pass (es : List Emit) (s : State) : (emitAll es s).pass = s.pass := by
  unfold emitAll
  induction es generalizing s with
  | nil => rfl
  | cons e es ih =>
    rw [List.foldl_cons, ih]
    cases e <;> simp

@[simp] theorem emitAll_transport (es : List Emit) (s : State) : (emitAll es s).transport = s.transport := by
  unfold emitAll
  induction es generalizing s with
  | nil => rfl
  | cons e es ih =>
    rw [List.foldl_cons, ih]
    cases e <;> simp

@[simp] theorem emitAll_arbiter (es : List Emit) (s : State) : (emitAll es s).arbiter = s.arbiter := by
  unfold emitAll
  induction es generalizing s with
  | nil => rfl
  | cons e es ih =>
    rw [List.foldl_cons, ih]
    cases e <;> simp

@[simp] theorem emitAll_freeDraws (es : List Emit) (s : State) : (emitAll es s).freeDraws = s.freeDraws := by
  unfold emitAll
  induction es generalizing s with
  | nil => rfl
  | cons e es ih =>
    rw [List.foldl_cons, ih]
    cases e <;> simp

@[simp] theorem emitAll_pending (es : List Emit) (s : State) : (emitAll es s).pending = s.pending := by
  unfold emitAll
  induction es generalizing s with
  | nil => rfl
  | cons e es ih =>
    rw [List.foldl_cons, ih]
    cases e <;> simp


/-! ### Requests on the transport link -/

@[simp] theorem sendRequest_counter (r : TransportRequest) (s : State) : (sendRequest r s).counter = s.counter := rfl
@[simp] theorem sendRequest_reader (r : TransportRequest) (s : State) : (sendRequest r s).reader = s.reader := rfl
@[simp] theorem sendRequest_tracker (r : TransportRequest) (s : State) : (sendRequest r s).tracker = s.tracker := rfl
@[simp] theorem sendRequest_table (r : TransportRequest) (s : State) : (sendRequest r s).table = s.table := rfl
@[simp] theorem sendRequest_channels (r : TransportRequest) (s : State) : (sendRequest r s).channels = s.channels := rfl
@[simp] theorem sendRequest_window (r : TransportRequest) (s : State) : (sendRequest r s).window = s.window := rfl
@[simp] theorem sendRequest_video (r : TransportRequest) (s : State) : (sendRequest r s).video = s.video := rfl
@[simp] theorem sendRequest_takes (r : TransportRequest) (s : State) : (sendRequest r s).takes = s.takes := rfl
@[simp] theorem sendRequest_log (r : TransportRequest) (s : State) : (sendRequest r s).log = s.log := rfl
@[simp] theorem sendRequest_slots (r : TransportRequest) (s : State) : (sendRequest r s).slots = s.slots := rfl
@[simp] theorem sendRequest_pass (r : TransportRequest) (s : State) : (sendRequest r s).pass = s.pass := rfl
@[simp] theorem sendRequest_faults (r : TransportRequest) (s : State) : (sendRequest r s).faults = s.faults := rfl
@[simp] theorem sendRequest_link (r : TransportRequest) (s : State) : (sendRequest r s).link = s.link := rfl
@[simp] theorem sendRequest_arbiter (r : TransportRequest) (s : State) : (sendRequest r s).arbiter = s.arbiter := rfl
@[simp] theorem sendRequest_freeDraws (r : TransportRequest) (s : State) : (sendRequest r s).freeDraws = s.freeDraws := rfl
@[simp] theorem sendRequest_pending (r : TransportRequest) (s : State) : (sendRequest r s).pending = s.pending := rfl
@[simp] theorem enterPhase_counter (st : PassState) (h : PassInHand) (s : State) : (enterPhase st h s).counter = s.counter := rfl
@[simp] theorem enterPhase_reader (st : PassState) (h : PassInHand) (s : State) : (enterPhase st h s).reader = s.reader := rfl
@[simp] theorem enterPhase_tracker (st : PassState) (h : PassInHand) (s : State) : (enterPhase st h s).tracker = s.tracker := rfl
@[simp] theorem enterPhase_table (st : PassState) (h : PassInHand) (s : State) : (enterPhase st h s).table = s.table := rfl
@[simp] theorem enterPhase_channels (st : PassState) (h : PassInHand) (s : State) : (enterPhase st h s).channels = s.channels := rfl
@[simp] theorem enterPhase_window (st : PassState) (h : PassInHand) (s : State) : (enterPhase st h s).window = s.window := rfl
@[simp] theorem enterPhase_video (st : PassState) (h : PassInHand) (s : State) : (enterPhase st h s).video = s.video := rfl
@[simp] theorem enterPhase_takes (st : PassState) (h : PassInHand) (s : State) : (enterPhase st h s).takes = s.takes := rfl
@[simp] theorem enterPhase_log (st : PassState) (h : PassInHand) (s : State) : (enterPhase st h s).log = s.log := rfl
@[simp] theorem enterPhase_slots (st : PassState) (h : PassInHand) (s : State) : (enterPhase st h s).slots = s.slots := rfl
@[simp] theorem enterPhase_transport (st : PassState) (h : PassInHand) (s : State) : (enterPhase st h s).transport = s.transport := rfl
@[simp] theorem enterPhase_faults (st : PassState) (h : PassInHand) (s : State) : (enterPhase st h s).faults = s.faults := rfl
@[simp] theorem enterPhase_link (st : PassState) (h : PassInHand) (s : State) : (enterPhase st h s).link = s.link := rfl
@[simp] theorem enterPhase_arbiter (st : PassState) (h : PassInHand) (s : State) : (enterPhase st h s).arbiter = s.arbiter := rfl
@[simp] theorem enterPhase_freeDraws (st : PassState) (h : PassInHand) (s : State) : (enterPhase st h s).freeDraws = s.freeDraws := rfl
@[simp] theorem enterPhase_pending (st : PassState) (h : PassInHand) (s : State) : (enterPhase st h s).pending = s.pending := rfl

/-! ### Takes -/

@[simp] theorem releaseEntry_counter (i : Nat) (e : TakeEntry) (s : State) : (releaseEntry i e s).counter = s.counter := rfl
@[simp] theorem writeClose_counter (st : TakeStatus) (pos i : Nat) (e : TakeEntry) (s : State) : (writeClose st pos i e s).counter = s.counter := rfl
@[simp] theorem armEntry_counter (src : ArmSource) (cue : Cue) (ts : List Nat) (i : Nat) (s : State) : (armEntry src cue ts i s).counter = s.counter := rfl
@[simp] theorem releaseEntry_reader (i : Nat) (e : TakeEntry) (s : State) : (releaseEntry i e s).reader = s.reader := rfl
@[simp] theorem writeClose_reader (st : TakeStatus) (pos i : Nat) (e : TakeEntry) (s : State) : (writeClose st pos i e s).reader = s.reader := rfl
@[simp] theorem armEntry_reader (src : ArmSource) (cue : Cue) (ts : List Nat) (i : Nat) (s : State) : (armEntry src cue ts i s).reader = s.reader := rfl
@[simp] theorem releaseEntry_tracker (i : Nat) (e : TakeEntry) (s : State) : (releaseEntry i e s).tracker = s.tracker := rfl
@[simp] theorem writeClose_tracker (st : TakeStatus) (pos i : Nat) (e : TakeEntry) (s : State) : (writeClose st pos i e s).tracker = s.tracker := rfl
@[simp] theorem armEntry_tracker (src : ArmSource) (cue : Cue) (ts : List Nat) (i : Nat) (s : State) : (armEntry src cue ts i s).tracker = s.tracker := rfl
@[simp] theorem releaseEntry_table (i : Nat) (e : TakeEntry) (s : State) : (releaseEntry i e s).table = s.table := rfl
@[simp] theorem writeClose_table (st : TakeStatus) (pos i : Nat) (e : TakeEntry) (s : State) : (writeClose st pos i e s).table = s.table := rfl
@[simp] theorem armEntry_table (src : ArmSource) (cue : Cue) (ts : List Nat) (i : Nat) (s : State) : (armEntry src cue ts i s).table = s.table := rfl
@[simp] theorem releaseEntry_channels (i : Nat) (e : TakeEntry) (s : State) : (releaseEntry i e s).channels = s.channels := rfl
@[simp] theorem writeClose_channels (st : TakeStatus) (pos i : Nat) (e : TakeEntry) (s : State) : (writeClose st pos i e s).channels = s.channels := rfl
@[simp] theorem armEntry_channels (src : ArmSource) (cue : Cue) (ts : List Nat) (i : Nat) (s : State) : (armEntry src cue ts i s).channels = s.channels := rfl
@[simp] theorem releaseEntry_window (i : Nat) (e : TakeEntry) (s : State) : (releaseEntry i e s).window = s.window := rfl
@[simp] theorem writeClose_window (st : TakeStatus) (pos i : Nat) (e : TakeEntry) (s : State) : (writeClose st pos i e s).window = s.window := rfl
@[simp] theorem armEntry_window (src : ArmSource) (cue : Cue) (ts : List Nat) (i : Nat) (s : State) : (armEntry src cue ts i s).window = s.window := rfl
@[simp] theorem releaseEntry_video (i : Nat) (e : TakeEntry) (s : State) : (releaseEntry i e s).video = s.video := rfl
@[simp] theorem writeClose_video (st : TakeStatus) (pos i : Nat) (e : TakeEntry) (s : State) : (writeClose st pos i e s).video = s.video := rfl
@[simp] theorem armEntry_video (src : ArmSource) (cue : Cue) (ts : List Nat) (i : Nat) (s : State) : (armEntry src cue ts i s).video = s.video := rfl
@[simp] theorem releaseEntry_pass (i : Nat) (e : TakeEntry) (s : State) : (releaseEntry i e s).pass = s.pass := rfl
@[simp] theorem writeClose_pass (st : TakeStatus) (pos i : Nat) (e : TakeEntry) (s : State) : (writeClose st pos i e s).pass = s.pass := rfl
@[simp] theorem armEntry_pass (src : ArmSource) (cue : Cue) (ts : List Nat) (i : Nat) (s : State) : (armEntry src cue ts i s).pass = s.pass := rfl
@[simp] theorem releaseEntry_transport (i : Nat) (e : TakeEntry) (s : State) : (releaseEntry i e s).transport = s.transport := rfl
@[simp] theorem writeClose_transport (st : TakeStatus) (pos i : Nat) (e : TakeEntry) (s : State) : (writeClose st pos i e s).transport = s.transport := rfl
@[simp] theorem armEntry_transport (src : ArmSource) (cue : Cue) (ts : List Nat) (i : Nat) (s : State) : (armEntry src cue ts i s).transport = s.transport := rfl
@[simp] theorem releaseEntry_faults (i : Nat) (e : TakeEntry) (s : State) : (releaseEntry i e s).faults = s.faults := rfl
@[simp] theorem writeClose_faults (st : TakeStatus) (pos i : Nat) (e : TakeEntry) (s : State) : (writeClose st pos i e s).faults = s.faults := rfl
@[simp] theorem armEntry_faults (src : ArmSource) (cue : Cue) (ts : List Nat) (i : Nat) (s : State) : (armEntry src cue ts i s).faults = s.faults := rfl
@[simp] theorem releaseEntry_link (i : Nat) (e : TakeEntry) (s : State) : (releaseEntry i e s).link = s.link := rfl
@[simp] theorem writeClose_link (st : TakeStatus) (pos i : Nat) (e : TakeEntry) (s : State) : (writeClose st pos i e s).link = s.link := rfl
@[simp] theorem armEntry_link (src : ArmSource) (cue : Cue) (ts : List Nat) (i : Nat) (s : State) : (armEntry src cue ts i s).link = s.link := rfl
@[simp] theorem releaseEntry_arbiter (i : Nat) (e : TakeEntry) (s : State) : (releaseEntry i e s).arbiter = s.arbiter := rfl
@[simp] theorem writeClose_arbiter (st : TakeStatus) (pos i : Nat) (e : TakeEntry) (s : State) : (writeClose st pos i e s).arbiter = s.arbiter := rfl
@[simp] theorem armEntry_arbiter (src : ArmSource) (cue : Cue) (ts : List Nat) (i : Nat) (s : State) : (armEntry src cue ts i s).arbiter = s.arbiter := rfl
@[simp] theorem releaseEntry_freeDraws (i : Nat) (e : TakeEntry) (s : State) : (releaseEntry i e s).freeDraws = s.freeDraws := rfl
@[simp] theorem writeClose_freeDraws (st : TakeStatus) (pos i : Nat) (e : TakeEntry) (s : State) : (writeClose st pos i e s).freeDraws = s.freeDraws := rfl
@[simp] theorem armEntry_freeDraws (src : ArmSource) (cue : Cue) (ts : List Nat) (i : Nat) (s : State) : (armEntry src cue ts i s).freeDraws = s.freeDraws := rfl
@[simp] theorem releaseEntry_pending (i : Nat) (e : TakeEntry) (s : State) : (releaseEntry i e s).pending = s.pending := rfl
@[simp] theorem writeClose_pending (st : TakeStatus) (pos i : Nat) (e : TakeEntry) (s : State) : (writeClose st pos i e s).pending = s.pending := rfl
@[simp] theorem armEntry_pending (src : ArmSource) (cue : Cue) (ts : List Nat) (i : Nat) (s : State) : (armEntry src cue ts i s).pending = s.pending := rfl

end Sys2Proof.Machine
end

