-- ==== Sys2Proof/Laws/Moves.lean ====
section
/-! SUPPORT. Everything a command can do, said once: `exec` moves the state by a sequence of the small moves below, so an
invariant holds after every command when each move keeps it. A move marked `true` is a request's alone, and one marked
`false` an event's alone; a request ends with its reply. -/

namespace Sys2Proof.Machine

/-- The changes of the tracker by an event (02 R18 to R31) or by an entry to SILENT (02 R17). -/
inductive TrackerMove (s : State) : Tracker → TrackEvent → Prop
  | word (w : Word) : TrackerMove s (s.tracker.takeWord s.rate w).1 (s.tracker.takeWord s.rate w).2
  | timeOut (now : Stamp) : TrackerMove s (s.tracker.timeOut s.rate now).1 .none
  | advance (now : Stamp) : TrackerMove s (s.tracker.advance s.rate now).1 .none
  | limit (now : Stamp) : TrackerMove s (s.tracker.reachLimit s.rate now).1 .none
  | silent : TrackerMove s s.tracker.toSilent .none

/-- One small move of the state: those marked `true` belong to requests alone, those marked `false` to events alone. -/
inductive Move : Bool → State → State → Prop
  | clock (b : Bool) (now : Stamp) (s : State) : Move b s (elapseTo now s)
  | notice (b : Bool) (n : Notice) (s : State) : Move b s (offer n s)
  | fault (b : Bool) (f : FaultRecord) (s : State) : Move b s (recordFault f s)
  | reader (b : Bool) (r : Reader) (s : State) : Move b s { s with reader := r }
  | tracker (b : Bool) (s : State) (t : Tracker) (ev : TrackEvent) (h : TrackerMove s t ev) :
      Move b s { s with tracker := (concludeChange s.rate s.tracker t ev).1 }
  | tracking (now : Stamp) (x : TrackingItems) (s : State) :
      Move true s
        { s with
          tracker :=
            (concludeChange s.rate s.tracker
              (s.tracker.setTracking s.rate now (s.tracker.settings.update x).1).1 .none).1 }
  | channels (b : Bool) (cs : List Channel) (s : State)
      (h : cs.map Channel.settings = s.channels.map Channel.settings)
      (k : (s.cues.map Cue.key).Nodup → (∀ c ∈ s.channels, c.fits) → ∀ c ∈ cs, c.fits) :
      Move b s { s with channels := cs }
  | settings (cs : List Channel) (s : State) (h : cs.length = s.channels.length)
      (k : (s.cues.map Cue.key).Nodup → (∀ c ∈ s.channels, c.fits) → ∀ c ∈ cs, c.fits) :
      Move true s { s with channels := cs }
  | window (w : Nat) (s : State) : Move true s { s with window := w }
  | video (b : Bool) (v : Video) (s : State) : Move b s { s with video := v }
  | arbiter (b : Bool) (a : List (List Block)) (s : State) : Move b s { s with arbiter := a }
  | draws (b : Bool) (n : Nat) (s : State) : Move b s { s with freeDraws := n }
  | arm (b : Bool) (src : ArmSource) (k : Key) (sub : Option Half) (cue : Cue) (ts : List Nat) (i : Nat) (s : State)
      (h : armTest k sub s = .ok (cue, ts, i)) : Move b s (armEntry src cue ts i s)
  | release (b : Bool) (i : Nat) (e : TakeEntry) (s : State) (h : s.takes.armedAt i = some e) :
      Move b s (releaseEntry i e s)
  | close (b : Bool) (st : TakeStatus) (pos i : Nat) (e : TakeEntry) (s : State) (h : s.takes.openAt i = some e) :
      Move b s (writeClose st pos i e s)
  | gates (b : Bool) (cls : MotionClass) (p i : Nat) (s : State) : Move b s (evalEntry cls p s i)
  | opens (b : Bool) (old new i : Nat) (s : State) : Move b s (openCrossed old new s i)
  | flags (i : Nat) (s : State) : Move true s (flagEntry s i)
  | rewindow (cue : Cue) (i : Nat) (s : State) : Move true s (editEntry cue s i)
  | guards (g : List Guard) (s : State) : Move true s { s with takes := { s.takes with guards := g } }
  | takeTiming (a b c : Nat) (s : State) :
      Move true s { s with takes := { s.takes with punchLead := a, punchTail := b, armWindow := c } }
  | collect (n : Nat) (s : State) :
      Move true s { s with log := { s.log with records := collectUpTo n s.log.records } }
  | slots (b : Bool) (x : List Slot) (s : State) (h : x.Sublist s.slots) : Move b s { s with slots := x }
  | pass (b : Bool) (p : PassCtl) (s : State) (h : s.pass.coherent → p.coherent) (k1 : p.preroll = s.pass.preroll)
      (k2 : p.postroll = s.pass.postroll) (k3 : p.locateTimeout = s.pass.locateTimeout) :
      Move b s { s with pass := p }
  | passTiming (x y z : Nat) (s : State) :
      Move true s { s with pass := { s.pass with preroll := x, postroll := y, locateTimeout := z } }
  | transport (b : Bool) (t : Transport) (s : State) : Move b s { s with transport := t }
  | roles (b : Bool) (name : BankName) (f : Bool) (s : State) :
      Move b s { s with table := { s.table with active := name, switchPending := f } }
  | banks (t : CueTable) (s : State) (h : s.table.ordered → t.ordered) : Move true s { s with table := t }
  | clearFault (i : Nat) (s : State) (h : (s.faults.at i).isSome = true) :
      Move true s { s with faults := s.faults.clear i }
  | faultFlags (o w : Bool) (s : State) : Move true s { s with faults := { s.faults with overflow := o, owed := w } }
  | accept (f : Frame) (s : State) : Move false s (acceptFrame f s)
  | errorReply (r : Reply) (s : State) : Move false s (queueErrorReply r s)
  | intake (l : List Frame) (s : State) (h : l.length ≤ s.link.intake.length) :
      Move true s { s with link := { s.link with intake := l } }
  | mask (m : NoticeMask) (s : State) : Move true s { s with link := { s.link with mask := m } }
  | receiver (r : Receiver) (s : State) : Move false s (setReceiver r s)
  | sender (h : Bool) (x : Transmitter) (s : State) :
      Move false s { s with link := { s.link with held := h, tx := x } }
  | popReply (s : State) : Move false s { s with link := { s.link with replies := s.link.replies.tail } }
  | popNotice (s : State) : Move false s { s with link := { s.link with notices := s.link.notices.tail } }

/-- A sequence of small moves. -/
inductive Moves (b : Bool) : State → State → Prop
  | nil (s : State) : Moves b s s
  | cons {s t u : State} (h : Move b s t) (k : Moves b t u) : Moves b s u

theorem Moves.trans {b : Bool} {s t u : State} (h : Moves b s t) (k : Moves b t u) : Moves b s u := by
  induction h with
  | nil => exact k
  | cons m _ ih => exact .cons m (ih k)

theorem Move.one {b : Bool} {s t : State} (h : Move b s t) : Moves b s t := .cons h (.nil t)

theorem Moves.snoc {b : Bool} {s t u : State} (h : Moves b s t) (k : Move b t u) : Moves b s u := h.trans k.one

/-- What one move keeps, every sequence of moves keeps. -/
theorem Moves.keep {b : Bool} {P : State → Prop} (h : ∀ s t, Move b s t → P s → P t) {s t : State}
    (k : Moves b s t) (p : P s) : P t := by
  induction k with
  | nil => exact p
  | cons m _ ih => exact ih (h _ _ m p)

theorem Moves.foldl {α : Type} {b : Bool} {f : State → α → State} (h : ∀ s x, Moves b s (f s x)) (l : List α)
    (s : State) : Moves b s (l.foldl f s) := by
  induction l generalizing s with
  | nil => exact .nil s
  | cons x l ih => exact (h s x).trans (ih _)

theorem Moves.ite {b : Bool} {c : Prop} [Decidable c] {s t u : State} (h : Moves b s t) (k : Moves b s u) :
    Moves b s (if c then t else u) := by
  split
  · exact h
  · exact k

/-! ### Shared operations -/

theorem moves_emitAll (b : Bool) (es : List Emit) (s : State) : Moves b s (emitAll es s) :=
  Moves.foldl (fun s e => by cases e with
    | notice n => exact (Move.notice b n s).one
    | fault f => exact (Move.fault b f s).one) es s

/-- Replacing one channel by one that keeps its settings and its room is a move. -/
theorem moves_setChannel (b : Bool) (s : State) (n : Nat) (c c' : Channel) (h : s.channels[n]? = some c)
    (k : Channel.keeps s.cues c c') : Move b s { s with channels := s.channels.set n c' } := by
  obtain ⟨hn, hc⟩ := List.getElem?_eq_some_iff.mp h
  refine Move.channels b _ s ?_ ?_
  · rw [List.map_set, k.1, ← hc]
    apply List.ext_getElem?
    intro i
    rw [List.getElem?_set]
    split
    · rename_i hi; subst hi; simp [hn]
    · rfl
  · intro n fit d hd
    rcases List.mem_or_eq_of_mem_set hd with hd | rfl
    · exact fit d hd
    · exact k.2 n (fit c (hc ▸ List.getElem_mem hn))

theorem moves_onChannel (b : Bool) (n : Nat) (f : Channel → Channel × List Emit) (s : State)
    (h : ∀ c : Channel, Channel.keeps s.cues c (f c).1) : Moves b s (onChannel n f s) := by
  unfold onChannel
  split
  · exact .nil s
  · rename_i c hc
    exact .cons (moves_setChannel b s n c _ hc (h c)) (moves_emitAll b _ _)

theorem moves_drawOrder (b : Bool) (s : State) : Moves b s s.drawOrder.2 := by
  unfold State.drawOrder
  split
  · exact .nil s
  · exact (Move.arbiter b _ s).one

theorem moves_rebuildChannel (b : Bool) (s : State) (n : Nat) : Moves b s (rebuildChannel s n) :=
  moves_onChannel b n _ s fun c => by
    split
    · exact c.rebuild_keeps _ _
    · exact c.keeps_refl

theorem moves_offerReport (b : Bool) (rep : Report) (s : State) : Moves b s (offerReport rep s) := by
  unfold offerReport
  split
  · exact .nil s
  · exact (Move.notice b _ s).one

/-! ### Takes and the bank switch -/

theorem moves_passArmFreed (b : Bool) (i : Nat) (c : FreeCause) (s : State) : Moves b s (passArmFreed i c s) := by
  unfold passArmFreed
  split
  · exact .nil s
  · rename_i h hh
    split
    · exact (Move.pass b _ s (by intro co; exact ⟨by simpa [hh] using co.1, co.2⟩) (by rfl) (by rfl) (by rfl)).one
    · exact .nil s

theorem moves_freeArmed (b : Bool) (c : FreeCause) (i : Nat) (s : State) : Moves b s (freeArmed c i s) := by
  unfold freeArmed
  split
  · exact .nil s
  · rename_i e he
    dsimp only
    have h1 : Moves b s (releaseEntry i e s) := (Move.release b i e s he).one
    have h2 : Moves b s (match c with
        | .disarm => releaseEntry i e s
        | .lapse reason => offer (.armLapsed i e.key e.origin reason) (releaseEntry i e s)) := by
      split
      · exact h1
      · exact h1.snoc (Move.notice b _ _)
    split
    · exact h2.trans (moves_passArmFreed b i c _)
    · exact h2

theorem moves_silenceForSwitch (b : Bool) (s : State) : Moves b s (silenceForSwitch s) := by
  unfold silenceForSwitch
  exact .cons (Move.tracker b s _ _ .silent) (Moves.foldl (fun s rep => moves_offerReport b rep s) _ _)

theorem moves_rebuildChannels (b : Bool) (s : State) : Moves b s (rebuildChannels s) :=
  (moves_drawOrder b s).trans (Moves.foldl (fun s (x : Block × Nat) => moves_rebuildChannel b s x.2) _ _)

theorem moves_restartAtRate (b : Bool) (r : Rate) (s : State) : Moves b s (restartAtRate r s) :=
  Moves.ite (.nil s) ((moves_silenceForSwitch b s).snoc (Move.slots b [] _ (List.nil_sublist _)))

theorem moves_completeSwitch (b : Bool) (s : State) : Moves b s (completeSwitch s) := by
  have h1 : Moves b s (swapBanks s) := (Move.roles b s.table.active.other false s).one
  have h2 : Moves b s (lapseArms (swapBanks s)) := h1.trans (Moves.foldl (fun s i => moves_freeArmed b _ i s) _ _)
  exact ((h2.trans (moves_rebuildChannels b _)).trans (moves_restartAtRate b s.rate _)).snoc (Move.notice b _ _)

theorem moves_testSafePoint (b : Bool) (s : State) : Moves b s (testSafePoint s) :=
  Moves.ite (moves_completeSwitch b s) (.nil s)

theorem moves_passTakeClosed (b : Bool) (i n : Nat) (st : TakeStatus) (d : Bool) (s : State) :
    Moves b s (passTakeClosed i n st d s) := by
  unfold passTakeClosed
  split
  · exact .nil s
  · rename_i h hh
    split
    · exact (Move.pass b _ s (by intro co; exact ⟨by simpa [hh] using co.1, co.2⟩) (by rfl) (by rfl) (by rfl)).one
    · exact .nil s

theorem moves_closeEntry (b : Bool) (st : TakeStatus) (pos i : Nat) (s : State) :
    Moves b s (closeEntry st pos i s) := by
  unfold closeEntry
  split
  · exact .nil s
  · rename_i e he
    dsimp only
    refine Moves.trans ?_ (moves_testSafePoint b _)
    have h : Moves b s (offer (.take s.log.nextNumber e.key st pos e.origin e.passNumber e.disarmAfter)
        (writeClose st pos i e s)) := (Move.close b st pos i e s he).one.snoc (Move.notice b _ _)
    split
    · exact h.trans (moves_passTakeClosed b ..)
    · exact h

theorem moves_closeAllOpen (b : Bool) (st : TakeStatus) (pos : Nat) (s : State) :
    Moves b s (closeAllOpen st pos s) := Moves.foldl (fun s i => moves_closeEntry b st pos i s) _ s

theorem moves_evalGates (b : Bool) (cls : MotionClass) (p : Nat) (s : State) : Moves b s (evalGates cls p s) :=
  Moves.foldl (fun s i => (Move.gates b cls p i s).one) _ s

theorem moves_takesAdvance (b : Bool) (snap : Snap) (old new : Nat) (z : Bool) (s : State) :
    Moves b s (takesAdvance snap old new z s) := by
  unfold takesAdvance
  dsimp only
  refine Moves.trans ?_ (moves_evalGates b ..)
  have h : Moves b s (if (decide (old < new) && !z) && decide (snap.cls = .play) && snap.settled then
      entryNumbers.foldl (openCrossed old new) s else s) :=
    Moves.ite (Moves.foldl (fun s i => (Move.opens b old new i s).one) _ s) (.nil s)
  split
  · refine h.trans (Moves.foldl (fun s i => ?_) _ _)
    unfold completeReached
    split
    · exact .nil s
    · exact Moves.ite (moves_closeEntry b ..) (.nil s)
  · exact h

theorem moves_takesReport (b : Bool) (rep : Report) (s : State) : Moves b s (takesReport rep s) := by
  unfold takesReport
  split
  · exact .nil s
  · exact moves_closeAllOpen b ..
  · exact Moves.ite (moves_closeAllOpen b ..) (.nil s)
  · exact .nil s
  · exact moves_takesAdvance b ..

theorem moves_restartTakes (b : Bool) (s : State) : Moves b s (restartTakes s) :=
  Moves.foldl (fun s i => by
    unfold restartEntry
    split
    · exact .nil s
    · exact Moves.ite (moves_closeEntry b ..) (moves_freeArmed b ..)) _ s

/-! ### Passes -/

theorem moves_sendRequest (b : Bool) (r : TransportRequest) (s : State) : Moves b s (sendRequest r s) :=
  (Move.transport b _ s).one

theorem moves_enterPhase (b : Bool) (st : PassState) (h : PassInHand) (s : State) (k : st ≠ .idle) :
    Moves b s (enterPhase st h s) :=
  (Move.pass b _ s (by intro _; exact ⟨by simp [k], by simp [k]⟩) (by rfl) (by rfl) (by rfl)).one

theorem moves_enterIdle (b : Bool) (s : State) : Moves b s (enterIdle s) :=
  Moves.trans (Move.pass b _ s (by intro _; exact ⟨by simp, by simp⟩) (by rfl) (by rfl) (by rfl)).one (moves_testSafePoint b _)

theorem moves_freePassArm (b : Bool) (s : State) : Moves b s (freePassArm s) := by
  unfold freePassArm
  split
  · exact .nil s
  · exact moves_freeArmed b ..

theorem moves_sendAbortStop (b : Bool) (s : State) : Moves b s (sendAbortStop s) := by
  unfold sendAbortStop
  exact moves_sendRequest b ..

theorem moves_abortPass (b : Bool) (r : PassEnd) (c : Option ResultCode) (s : State) :
    Moves b s (abortPass r c s) := by
  unfold abortPass
  generalize hs : freePassArm (closeAllOpen r.closeStatus s.tracker.head s) = s1
  have h1 : Moves b s s1 := hs ▸ (moves_closeAllOpen b ..).trans (moves_freePassArm b _)
  dsimp only
  split
  · exact .nil s
  · rename_i h hh
    have h2 := h1.snoc (Move.pass b { s1.pass with queued := none } s1 (by exact id) (by rfl) (by rfl) (by rfl))
    have h3 := fun n : Notice => (h2.snoc (Move.notice b n _)).trans (moves_enterIdle b _)
    split
    · exact (h3 _).trans (moves_sendAbortStop b _)
    · exact h3 _

theorem moves_beginCycle (b : Bool) (h0 : PassInHand) (s : State) : Moves b s (beginCycle h0 s) := by
  unfold beginCycle
  dsimp only
  have h1 : ∀ h : PassInHand, Moves b s
      { s with pass := { s.pass with number := nextPassNumber s.pass.number, state := .locating, inHand := some h } } :=
    fun h => (Move.pass b _ s (by intro _; exact ⟨by simp, by simp⟩) (by rfl) (by rfl) (by rfl)).one
  split
  · split
    · exact (h1 _).trans (moves_abortPass b ..)
    · rename_i h' s2 eq
      refine Moves.trans ?_
        ((moves_enterPhase b .locating h' s2 (by decide)).trans (moves_sendRequest b ..))
      unfold armForPass at eq
      split at eq
      · cases eq; exact h1 _
      · split at eq
        · cases eq
        · rename_i _ k hk _ cue ts i ht
          cases eq
          exact (h1 _).snoc (Move.arm b .pass k none cue ts i _ ht)
  · exact (h1 _).trans ((moves_enterPhase b .locating _ _ (by decide)).trans (moves_sendRequest b ..))

theorem moves_startQueued (b : Bool) (s : State) : Moves b s (startQueued s) := by
  unfold startQueued
  split
  · exact .nil s
  · dsimp only
    have h1 : Moves b s { s with pass := { s.pass with queued := none } } :=
      (Move.pass b _ s (by exact id) (by rfl) (by rfl) (by rfl)).one
    split
    · exact h1.trans (moves_beginCycle b ..)
    · refine h1.trans ?_
      unfold failKeys
      exact (Move.pass b _ _ (by exact id) (by rfl) (by rfl) (by rfl)).one.snoc (Move.notice b _ _)

theorem moves_completeCycle (b : Bool) (s : State) : Moves b s (completeCycle s) := by
  unfold completeCycle
  dsimp only
  split
  · exact .nil s
  · have h : ∀ n : Notice, Moves b s (offer n (freePassArm s)) := fun n =>
      (moves_freePassArm b s).snoc (Move.notice b n _)
    split
    · exact ((h _).snoc (Move.draws b _ _)).trans (moves_beginCycle b ..)
    · exact ((h _).trans (moves_enterIdle b _)).trans (moves_startQueued b _)

theorem moves_enterEnding (b : Bool) (h : PassInHand) (s : State) : Moves b s (enterEnding h s) :=
  (moves_enterPhase b .ending h s (by decide)).trans (moves_sendRequest b ..)

theorem moves_enterRolling (b : Bool) (h : PassInHand) (p : Nat) (s : State) (k : s.pass.inHand = some h) :
    Moves b s (enterRolling h p s) := by
  unfold enterRolling
  dsimp only
  have h1 : Moves b s { s with pass := { s.pass with state := .rolling, deadline := none } } :=
    (Move.pass b _ s (by intro _; exact ⟨by simp [k], by simp⟩) (by rfl) (by rfl) (by rfl)).one
  split
  · exact h1.trans (moves_enterEnding b ..)
  · exact h1

theorem moves_phaseTest (b : Bool) (snap : Snap) (s : State) : Moves b s (phaseTest snap s) := by
  unfold phaseTest
  split
  · exact .nil s
  · rename_i h hh
    refine Moves.ite ?_ (.nil s)
    split
    · refine Moves.ite (Moves.ite (moves_completeCycle b s) ?_) (.nil s)
      exact (moves_enterPhase b .rollingUp h s (by decide)).trans (moves_sendRequest b ..)
    · exact Moves.ite (moves_enterRolling b h _ s hh) (.nil s)
    · exact Moves.ite (moves_completeCycle b s) (.nil s)
    · exact .nil s
    · exact .nil s

theorem moves_mapInHand (b : Bool) (f : PassInHand → PassInHand) (s : State) :
    Moves b s { s with pass := { s.pass with inHand := s.pass.inHand.map f } } :=
  (Move.pass b _ s (by intro co; exact ⟨by simpa using co.1, co.2⟩) (by rfl) (by rfl) (by rfl)).one

theorem moves_closeAtRelocate (b : Bool) (rep : Report) (old : Nat) (s : State) : Moves b s (closeAtRelocate rep old s) :=
  Moves.ite (.nil s) (moves_closeAllOpen b ..)

theorem moves_passReport (b : Bool) (rep : Report) (s : State) : Moves b s (passReport rep s) := by
  unfold passReport
  split
  · exact .nil s
  · split
    · exact .nil s
    · exact moves_phaseTest b ..
    · unfold rollingUpReport
      split
      · refine Moves.ite (moves_abortPass b ..) (Moves.ite (moves_abortPass b ..) (Moves.ite ?_ (moves_phaseTest b ..)))
        exact (moves_mapInHand b _ s).trans (moves_phaseTest b ..)
      · exact moves_phaseTest b ..
    · unfold rollingReport
      split
      · exact Moves.ite (moves_abortPass b ..) (Moves.ite (moves_abortPass b ..) (.nil s))
      · exact Moves.ite (moves_enterEnding b ..) (.nil s)
      · exact Moves.ite ((moves_enterEnding b ..).trans (moves_closeAtRelocate b ..)) (.nil s)
      · exact .nil s
      · exact .nil s
    · unfold endingReport
      split
      · refine Moves.ite (moves_abortPass b ..) (Moves.trans ?_ (moves_phaseTest b ..))
        exact Moves.ite (moves_closeAllOpen b ..) (.nil s)
      · exact (moves_closeAtRelocate b ..).trans (moves_phaseTest b ..)
      · exact moves_phaseTest b ..

theorem moves_requestFailed (b : Bool) (k : FaultKind) (r : PassEnd) (q : TransportRequest) (s : State) :
    Moves b s (requestFailed k r q s) := by
  unfold requestFailed
  dsimp only
  have h := (Move.transport b s.transport.finish s).one.snoc (Move.fault b (s.transportFault k q) _)
  split
  · exact h.trans (moves_abortPass b ..)
  · exact h

theorem moves_requestGranted (b : Bool) (q : TransportRequest) (s : State) : Moves b s (requestGranted q s) := by
  unfold requestGranted
  generalize hs : ({ s with transport := s.transport.finish } : State) = s1
  have h1 : Moves b s s1 := hs ▸ (Move.transport b _ s).one
  exact Moves.ite (h1.trans ((moves_mapInHand b _ s1).trans (moves_phaseTest b ..))) h1

theorem moves_completeAnswer (b : Bool) (s : State) : Moves b s (completeAnswer s) := by
  unfold completeAnswer
  dsimp only
  refine Moves.trans (Move.transport b { s.transport with gathered := [] } s).one ?_
  split
  · exact moves_requestGranted b ..
  · exact moves_requestFailed b ..
  · exact .nil _

theorem moves_expireAnswer (b : Bool) (s : State) : Moves b s (expireAnswer s) := by
  unfold expireAnswer
  split
  · exact Moves.ite (moves_requestFailed b ..) (.nil s)
  · exact .nil s

theorem moves_expirePhase (b : Bool) (s : State) : Moves b s (expirePhase s) := by
  unfold expirePhase
  split
  · exact .nil s
  · exact Moves.ite ((Move.fault b _ s).one.trans (moves_abortPass b ..)) (.nil s)

theorem moves_idlePass (b : Bool) (s : State) : Moves b s (idlePass s) := by
  have h := Move.pass b { s.pass with state := .idle, inHand := none, queued := none, deadline := none } s
    (fun _ => ⟨by simp, by simp⟩) rfl rfl rfl
  exact h.one.snoc (Move.transport b s.transport.restart _)

theorem moves_restartPass (b : Bool) (s : State) : Moves b s (restartPass s) := by
  refine Moves.trans (t := offerRestartPass s) ?_ (moves_idlePass b _)
  unfold offerRestartPass
  split
  · exact .nil s
  · exact (Move.notice b _ s).one

/-! ### Reports and RESTART -/

theorem moves_mapChannels (b : Bool) (f : Channel → Channel) (s : State) (h : ∀ c : Channel, Channel.keeps s.cues c (f c)) :
    Moves b s { s with channels := s.channels.map f } := by
  refine (Move.channels b _ s ?_ ?_).one
  · rw [List.map_map]
    exact List.map_congr_left fun c _ => (h c).1
  · intro n fit d hd
    obtain ⟨c, hc, rfl⟩ := List.mem_map.mp hd
    exact (h c).2 n (fit c hc)

theorem moves_drawFrame (b : Bool) (s : State) : Moves b s (drawFrame s) := by
  refine Moves.trans (moves_mapChannels b Channel.lowerPunch s fun c => ⟨rfl, fun _ => id⟩) ?_
  exact (Move.video b _ { s with channels := s.channels.map Channel.lowerPunch }).one

theorem moves_meetFrame (b : Bool) (s : State) : Moves b s (meetFrame s) :=
  Moves.ite ((moves_drawFrame b s).snoc (Move.video b _ _)) (.nil s)

theorem moves_deliver (b : Bool) (x : Block) (rep : Report) (s : State) : Moves b s (deliver x rep s) := by
  unfold deliver
  split
  · exact moves_offerReport b rep s
  · exact moves_onChannel b _ _ s fun c => c.takeReport_keeps _ rep
  · exact moves_takesReport b rep s
  · exact moves_passReport b rep s
  · split
    · exact moves_testSafePoint b s
    · exact .nil s
  · exact moves_meetFrame b s

theorem moves_deliverAll (b : Bool) (reps : List Report) (s : State) : Moves b s (deliverAll reps s) := by
  unfold deliverAll
  split
  · exact .nil s
  · exact (moves_drawOrder b s).trans (Moves.foldl (fun s (x : Block × Report) => moves_deliver b x.1 x.2 s) _ _)

theorem moves_recordLockLost (b : Bool) (s : State) : Moves b s (recordLockLost s) :=
  Moves.ite (.nil s) (Move.fault b _ s).one

theorem moves_reportChange (b : Bool) (reps : List Report) (parked : Bool) (s : State) :
    Moves b s (deliverAll reps (if parked then recordLockLost s else s)) :=
  (Moves.ite (moves_recordLockLost b s) (.nil s)).trans (moves_deliverAll b reps _)

theorem moves_changeTracker (b : Bool) (t : Tracker) (ev : TrackEvent) (parked : Bool) (s : State)
    (h : TrackerMove s t ev) : Moves b s (changeTracker t ev parked s) :=
  .cons (Move.tracker b s t ev h) (moves_reportChange b _ parked _)

theorem moves_ownRestart (b : Bool) (x : Block) (s : State) : Moves b s (ownRestart x s) := by
  unfold ownRestart
  split
  · exact moves_restartTakes b s
  · exact moves_restartPass b s
  · exact moves_rebuildChannel b s _
  · exact .nil s
  · exact .nil s
  · exact .nil s

theorem moves_silenceForRestart (b : Bool) (s : State) : Moves b s (silenceForRestart s).1 :=
  .cons (Move.tracker b s _ _ .silent) (Move.reader b _ _).one

theorem moves_restartAhead (b : Bool) (order : List Block) (s : State) : Moves b s (restartAhead order s) :=
  Moves.foldl (fun s x => moves_ownRestart b x s) _ s

theorem moves_restartBehind (b : Bool) (order : List Block) (s : State) : Moves b s (restartBehind order s) := by
  refine (moves_silenceForRestart b s).trans ((moves_drawOrder b _).trans (Moves.foldl (fun s x => ?_) _ _))
  unfold restartTask
  split
  · exact moves_deliver b ..
  · exact moves_ownRestart b ..

theorem moves_restartBlocks (b : Bool) (s : State) : Moves b s (restartBlocks s) :=
  .cons (Move.roles b s.table.active false s)
    ((moves_drawOrder b _).trans ((moves_restartAhead b _ _).trans (moves_restartBehind b _ _)))

/-! ### The receiver and the transmitter -/

theorem moves_goOnLink (s : State) : Moves false s (goOnLink s) := (Move.sender false _ s).one

theorem moves_byteBetween (x : Byte) (s : State) : Moves false s (byteBetween x s) :=
  Moves.ite (Move.receiver _ s).one
    (Moves.ite (Move.sender true s.link.tx s).one (Moves.ite (moves_goOnLink s) (.nil s)))

theorem moves_linkError (n : Nat) (s : State) : Moves false s (linkError n s) := (Move.errorReply _ s).one

theorem moves_receiveByte (x : Byte) (s : State) : Moves false s (receiveByte x s) := by
  unfold receiveByte
  split
  · exact moves_byteBetween x s
  · refine Moves.ite ?_ ?_
    · exact ((Move.receiver _ s).one.trans (moves_linkError _ _)).trans (moves_byteBetween _ _)
    · unfold byteInFrame
      split
      · exact Moves.ite ((Move.receiver _ s).one.trans (moves_linkError _ _)) (Move.receiver _ s).one
      · refine Moves.ite ?_ (Move.receiver _ s).one
        unfold endFrame
        dsimp only
        refine Moves.trans (Move.receiver .between s).one ?_
        exact Moves.ite (Move.accept _ _).one (moves_linkError _ _)

theorem moves_chooseFrame (s : State) : Moves false s (chooseFrame s) := by
  have start : ∀ (fs : List (List Byte)) (s : State), Moves false s (startFrames fs s) := by
    intro fs s
    unfold startFrames
    split
    · exact .nil s
    · exact (Move.sender s.link.held _ s).one
  unfold chooseFrame
  split
  · refine Moves.ite (.nil s) ?_
    split
    · rename_i r rest hr
      refine Moves.trans (t := { s with link := { s.link with replies := rest } }) ?_ (start _ _)
      have := (Move.popReply s).one
      rwa [hr, List.tail_cons] at this
    · split
      · rename_i n rest hn
        refine Moves.trans (t := { s with link := { s.link with notices := rest } }) ?_ (start _ _)
        have := (Move.popNotice s).one
        rwa [hn, List.tail_cons] at this
      · exact .nil s
  · exact .nil s

/-! ### Requests -/

theorem moves_expandChannel (b : Bool) (s : State) (n : Nat) : Moves b s (expandChannel s n) :=
  moves_onChannel b n _ s fun c => by
    dsimp only
    split
    · exact c.expand_keeps _ _
    · exact c.keeps_refl

theorem moves_editChannel (b : Bool) (old new : Cue) (s : State) (n : Nat) : Moves b s (editChannel old new s n) :=
  moves_onChannel b n _ s fun c => c.takeEdit_keeps _ _ old new

theorem moves_editTakes (cue : Cue) (s : State) : Moves true s (editTakes cue s) :=
  Moves.foldl (fun s i => (Move.rewindow cue i s).one) _ s

/-- What a request does to the state, its reply apart. -/
def Performs (perform : State → State × List Byte) : Prop := ∀ s, Moves true s (perform s).1

theorem Performs.read (f : State → List Byte) : Performs fun s => (s, f s) := fun s => .nil s

end Sys2Proof.Machine
end

