-- ==== Sys2Proof/Laws/Delivery.lean ====
section
/-! SUPPORT. How the reports of a change reach the blocks (02 R34): the arbiter reorders what waits without losing any of it or
any block's own order, and with no bank switch pending no block changes the tracker. -/

namespace Sys2Proof.Machine

/-! ### The arbiter's order -/

/-- The arbiter loses nothing and adds nothing. -/
theorem arbitrate_perm {α : Type} (bs : List Block) (ds : List (Block × α)) : (arbitrate bs ds).Perm ds := by
  induction bs generalizing ds with
  | nil => exact .refl _
  | cons b bs ih =>
    unfold arbitrate
    split
    · exact ih ds
    · rename_i d h
      refine ((ih _).cons d).trans ?_
      clear ih
      induction ds with
      | nil => simp at h
      | cons x ds ih2 =>
        by_cases e : x.1 = b
        · simp [e] at h; subst h; simp [e]
        · rw [List.find?_cons_of_neg (by simpa using e)] at h
          rw [List.eraseP_cons_of_neg (by simpa using e)]
          exact (List.Perm.swap x d _).trans ((ih2 h).cons x)

/-- Each block's own things keep their order. -/
theorem arbitrate_own {α : Type} (q : Block) (bs : List Block) (ds : List (Block × α)) :
    ((arbitrate bs ds).filter fun x => decide (x.1 = q)) = ds.filter fun x => decide (x.1 = q) := by
  induction bs generalizing ds with
  | nil => rfl
  | cons b bs ih =>
    unfold arbitrate
    split
    · exact ih ds
    · rename_i d h
      rw [List.filter_cons, ih]
      clear ih
      induction ds with
      | nil => simp at h
      | cons x ds ih2 =>
        by_cases e : x.1 = b
        · simp [e] at h; subst h; simp [e, List.filter_cons]
        · rw [List.find?_cons_of_neg (by simpa using e)] at h
          rw [List.eraseP_cons_of_neg (by simpa using e), List.filter_cons, List.filter_cons]
          have hd : d.1 = b := by simpa using List.find?_some h
          have := ih2 h
          by_cases dq : d.1 = q
          · have xq : x.1 ≠ q := fun y => e (y.trans (dq.symm.trans hd))
            simpa [dq, xq] using this
          · simp only [dq, decide_false, Bool.false_eq_true, if_false] at this ⊢
            rw [this]

/-- The block that is named first acts first, if anything waits for it. -/
theorem arbitrate_first {α : Type} (b : Block) (bs : List Block) (ds : List (Block × α)) (h : ∃ d ∈ ds, d.1 = b) :
    (arbitrate (b :: bs) ds).head?.map Prod.fst = some b := by
  unfold arbitrate
  split
  · rename_i k
    obtain ⟨d, hd, e⟩ := h
    exact absurd e (by simpa using List.find?_eq_none.1 k d hd)
  · rename_i d k
    simpa using List.find?_some k

/-! ### What leaves the tracker alone -/

/-- From `s` to `t` the tracker stays and no switch comes to be pending, if none is pending in `s`. -/
structure Quiet (s t : State) : Prop where
  keeps : s.table.switchPending = false → t.tracker = s.tracker ∧ t.table.switchPending = false

theorem Quiet.refl (s : State) : Quiet s s := ⟨fun h => ⟨rfl, h⟩⟩

theorem Quiet.trans {s t u : State} (h : Quiet s t) (k : Quiet t u) : Quiet s u :=
  ⟨fun p => ⟨((k.keeps (h.keeps p).2).1).trans (h.keeps p).1, (k.keeps (h.keeps p).2).2⟩⟩

theorem Quiet.of {s t : State} (h : t.tracker = s.tracker) (k : t.table = s.table) : Quiet s t :=
  ⟨fun p => ⟨h, by rw [k]; exact p⟩⟩

theorem Quiet.ite {c : Prop} [Decidable c] {s t u : State} (h : Quiet s t) (k : Quiet s u) :
    Quiet s (if c then t else u) := by
  split
  · exact h
  · exact k

theorem Quiet.foldl {α : Type} {f : State → α → State} (h : ∀ (s : State) (x : α), Quiet s (f s x)) (l : List α) (s : State) :
    Quiet s (l.foldl f s) := by
  induction l generalizing s with
  | nil => exact .refl s
  | cons x l ih => exact (h s x).trans (ih _)

theorem quiet_pass (p : PassCtl) (s : State) : Quiet s { s with pass := p } := .of rfl rfl

theorem quiet_draws (n : Nat) (s : State) : Quiet s { s with freeDraws := n } := .of rfl rfl

theorem quiet_send (r : TransportRequest) (s : State) : Quiet s (sendRequest r s) := .of rfl rfl

theorem quiet_phase (st : PassState) (h : PassInHand) (s : State) : Quiet s (enterPhase st h s) := .of rfl rfl

theorem quiet_offer (n : Notice) (s : State) : Quiet s (offer n s) := .of (by simp) (by simp)

theorem quiet_fault (f : FaultRecord) (s : State) : Quiet s (recordFault f s) := .of (by simp) (by simp)

theorem quiet_onChannel (n : Nat) (f : Channel → Channel × List Emit) (s : State) : Quiet s (onChannel n f s) := by
  unfold onChannel
  split
  · exact .refl s
  · exact .of (by simp) (by simp)

theorem quiet_passArmFreed (i : Nat) (c : FreeCause) (s : State) : Quiet s (passArmFreed i c s) := by
  unfold passArmFreed
  split
  · exact .refl s
  · exact .ite (.of rfl rfl) (.refl s)

theorem quiet_drawOrder (s : State) : Quiet s s.drawOrder.2 := by
  unfold State.drawOrder
  split
  · exact .refl s
  · exact .of rfl rfl

theorem quiet_freeArmed (c : FreeCause) (i : Nat) (s : State) : Quiet s (freeArmed c i s) := by
  unfold freeArmed
  split
  · exact .refl s
  · rename_i e _
    dsimp only
    have h : Quiet s (match c with
        | .disarm => releaseEntry i e s
        | .lapse reason => offer (.armLapsed i e.key e.origin reason) (releaseEntry i e s)) := by
      split
      · exact .of rfl rfl
      · exact .of (by simp) (by simp)
    split
    · exact h.trans (quiet_passArmFreed i c _)
    · exact h

theorem quiet_testSafePoint (s : State) : Quiet s (testSafePoint s) :=
  ⟨fun p => by simp [testSafePoint, p]⟩

theorem quiet_closeEntry (st : TakeStatus) (pos i : Nat) (s : State) : Quiet s (closeEntry st pos i s) := by
  unfold closeEntry
  split
  · exact .refl s
  · rename_i e _
    dsimp only
    refine Quiet.trans ?_ (quiet_testSafePoint _)
    have h : Quiet s (offer (.take s.log.nextNumber e.key st pos e.origin e.passNumber e.disarmAfter)
        (writeClose st pos i e s)) := .of (by simp) (by simp)
    split
    · refine h.trans ?_
      unfold passTakeClosed
      split
      · exact .refl _
      · exact .ite (.of rfl rfl) (.refl _)
    · exact h

theorem quiet_closeAllOpen (st : TakeStatus) (pos : Nat) (s : State) : Quiet s (closeAllOpen st pos s) :=
  .foldl (fun s i => quiet_closeEntry st pos i s) _ s

theorem quiet_evalGates (cls : MotionClass) (p : Nat) (s : State) : Quiet s (evalGates cls p s) :=
  .foldl (fun s i => by
    unfold evalEntry
    split
    · exact .refl s
    · exact .of rfl rfl) _ s

theorem quiet_takesReport (rep : Report) (s : State) : Quiet s (takesReport rep s) := by
  unfold takesReport
  split
  · exact .refl s
  · exact quiet_closeAllOpen ..
  · exact .ite (quiet_closeAllOpen ..) (.refl s)
  · exact .refl s
  · rename_i old new z _
    unfold takesAdvance
    dsimp only
    refine Quiet.trans ?_ (quiet_evalGates ..)
    have h : Quiet s (if (decide (old < new) && !z) && decide (rep.snap.cls = .play) && rep.snap.settled then
        entryNumbers.foldl (openCrossed old new) s else s) :=
      .ite (.foldl (fun s i => by
        unfold openCrossed
        split
        · exact .refl s
        · exact .ite (.of rfl rfl) (.refl s)) _ s) (.refl s)
    split
    · refine h.trans (.foldl (fun s i => ?_) _ _)
      unfold completeReached
      split
      · exact .refl s
      · exact .ite (quiet_closeEntry ..) (.refl s)
    · exact h

theorem quiet_enterIdle (s : State) : Quiet s (enterIdle s) :=
  by
  unfold enterIdle
  exact (quiet_pass _ s).trans (quiet_testSafePoint _)

theorem quiet_freePassArm (s : State) : Quiet s (freePassArm s) := by
  unfold freePassArm
  split
  · exact .refl s
  · exact quiet_freeArmed ..

theorem quiet_abortPass (r : PassEnd) (c : Option ResultCode) (s : State) : Quiet s (abortPass r c s) := by
  unfold abortPass
  generalize hs : freePassArm (closeAllOpen r.closeStatus s.tracker.head s) = s1
  have h1 : Quiet s s1 := hs ▸ (quiet_closeAllOpen ..).trans (quiet_freePassArm _)
  dsimp only
  split
  · exact .refl s
  · have h2 : Quiet s { s1 with pass := { s1.pass with queued := none } } := h1.trans (quiet_pass _ _)
    have h3 := fun n : Notice => (h2.trans (quiet_offer n _)).trans (quiet_enterIdle _)
    split
    · exact (h3 _).trans (quiet_send _ _)
    · exact h3 _

theorem quiet_beginCycle (h0 : PassInHand) (s : State) : Quiet s (beginCycle h0 s) := by
  unfold beginCycle
  dsimp only
  have h1 : ∀ h : PassInHand, Quiet s
      { s with pass := { s.pass with number := nextPassNumber s.pass.number, state := .locating, inHand := some h } } :=
    fun h => quiet_pass _ s
  split
  · split
    · exact (h1 _).trans (quiet_abortPass ..)
    · rename_i h' s2 eq
      refine Quiet.trans ?_ ((quiet_phase .locating h' s2).trans (quiet_send ..))
      unfold armForPass at eq
      split at eq
      · cases eq; exact h1 _
      · split at eq
        · cases eq
        · cases eq; exact .of (by simp) (by simp)
  · exact (h1 _).trans ((quiet_phase .locating _ _).trans (quiet_send ..))

theorem quiet_startQueued (s : State) : Quiet s (startQueued s) := by
  unfold startQueued
  split
  · exact .refl s
  · dsimp only
    split
    · exact (quiet_pass _ s).trans (quiet_beginCycle ..)
    · exact (quiet_pass _ s).trans ((quiet_pass _ _).trans (quiet_offer ..))

theorem quiet_completeCycle (s : State) : Quiet s (completeCycle s) := by
  unfold completeCycle
  dsimp only
  split
  · exact .refl s
  · have h : ∀ n : Notice, Quiet s (offer n (freePassArm s)) := fun n => (quiet_freePassArm s).trans (quiet_offer n _)
    split
    · exact ((h _).trans (quiet_draws _ _)).trans (quiet_beginCycle ..)
    · exact ((h _).trans (quiet_enterIdle _)).trans (quiet_startQueued _)

theorem quiet_enterEnding (h : PassInHand) (s : State) : Quiet s (enterEnding h s) :=
  (quiet_phase .ending h s).trans (quiet_send ..)

theorem quiet_phaseTest (snap : Snap) (s : State) : Quiet s (phaseTest snap s) := by
  unfold phaseTest
  split
  · exact .refl s
  · rename_i h hh
    refine .ite ?_ (.refl s)
    split
    · exact .ite (.ite (quiet_completeCycle s) ((quiet_phase .rollingUp h s).trans (quiet_send ..))) (.refl s)
    · refine .ite ?_ (.refl s)
      unfold enterRolling
      dsimp only
      split
      · exact (quiet_pass _ s).trans (quiet_enterEnding ..)
      · exact quiet_pass _ s
    · exact .ite (quiet_completeCycle s) (.refl s)
    · exact .refl s
    · exact .refl s

theorem quiet_closeAtRelocate (rep : Report) (old : Nat) (s : State) : Quiet s (closeAtRelocate rep old s) :=
  .ite (.refl s) (quiet_closeAllOpen ..)

theorem quiet_passReport (rep : Report) (s : State) : Quiet s (passReport rep s) := by
  unfold passReport
  split
  · exact .refl s
  · split
    · exact .refl s
    · exact quiet_phaseTest ..
    · unfold rollingUpReport
      split
      · refine .ite (quiet_abortPass ..) (.ite (quiet_abortPass ..) (.ite ?_ (quiet_phaseTest ..)))
        exact (quiet_pass _ s).trans (quiet_phaseTest ..)
      · exact quiet_phaseTest ..
    · unfold rollingReport
      split
      · exact .ite (quiet_abortPass ..) (.ite (quiet_abortPass ..) (.refl s))
      · exact .ite (quiet_enterEnding ..) (.refl s)
      · exact .ite ((quiet_enterEnding ..).trans (quiet_closeAtRelocate ..)) (.refl s)
      · exact .refl s
      · exact .refl s
    · unfold endingReport
      split
      · refine .ite (quiet_abortPass ..) (Quiet.trans ?_ (quiet_phaseTest ..))
        exact .ite (quiet_closeAllOpen ..) (.refl s)
      · exact (quiet_closeAtRelocate ..).trans (quiet_phaseTest ..)
      · exact quiet_phaseTest ..

/-- With no switch pending, no block that takes a report changes the tracker. -/
theorem quiet_deliver (b : Block) (rep : Report) (s : State) : Quiet s (deliver b rep s) := by
  unfold deliver
  split
  · unfold offerReport
    split
    · exact .refl s
    · exact quiet_offer ..
  · exact quiet_onChannel ..
  · exact quiet_takesReport ..
  · exact quiet_passReport ..
  · split
    · exact quiet_testSafePoint s
    · exact .refl s
  · exact .ite (.of rfl rfl) (.refl s)

/-- With no switch pending, the delivery of a change leaves the tracker as the change made it. -/
theorem quiet_deliverAll (reports : List Report) (s : State) : Quiet s (deliverAll reports s) := by
  unfold deliverAll
  split
  · exact .refl s
  · exact (quiet_drawOrder s).trans (.foldl (fun s (x : Block × Report) => quiet_deliver x.1 x.2 s) _ _)

end Sys2Proof.Machine
end

