-- ==== Sys2Proof/Laws/Exec.lean ====
section
/-! SUPPORT. Everything a command can do, said once for `exec`: an event is a sequence of moves, a request a sequence of
moves and one reply, and POWER_ON the power-on state. -/

namespace Sys2Proof.Machine

/-! ### What each request performs -/

theorem setNotices_performs (m : MaskItems) : Performs (setNoticesPerform m) := by
  intro s
  unfold setNoticesPerform
  split
  · exact .nil s
  · rename_i k _
    have h : Moves true s { s with link := { s.link with mask := k } } := (Move.mask k s).one
    refine Moves.ite (h.trans ?_) h
    unfold deliverOwed
    split
    · have h2 := (Move.faultFlags s.faults.overflow false { s with link := { s.link with mask := k } }).one
      split
      · exact h2.snoc (Move.notice true _ _)
      · exact h2
    · exact .nil _

theorem restart_performs : Performs restartPerform := fun s =>
  .cons (Move.intake [] s (by simp)) (moves_restartBlocks true _)

theorem setTracking_performs (x : TrackingItems) : Performs (setTrackingPerform x) := fun s =>
  Moves.ite (.nil s) (.cons (Move.tracking s.counter x s) (moves_reportChange true _ _ _))

theorem setSchedule_performs (w : Option Half) : Performs (setSchedulePerform w) := fun s => by
  have h := (Move.window (clampField 50 900 s.window (w.map BitVec.toNat)).1 s).one
  exact Moves.ite h (h.trans (Moves.foldl (fun s n => moves_expandChannel true s n) _ _))

theorem setChannel_performs (ch : Byte) (x : ChannelItems) : Performs (setChannelPerform ch x) := by
  intro s
  unfold setChannelPerform
  split
  · exact .nil s
  · rename_i c hc
    split
    · exact .nil s
    · refine .cons (Move.settings _ s ?_ ?_) (moves_emitAll true _ _)
      · simp
      · intro n fit d hd
        rcases List.mem_or_eq_of_mem_set hd with hd | rfl
        · exact fit d hd
        · exact c.changeSettings_fits _ _ _ n (fit c (List.mem_of_getElem? hc))

theorem setTakeTiming_performs (x : TakeTimingItems) : Performs (setTakeTimingPerform x) := fun s =>
  (Move.takeTiming _ _ _ s).one

theorem setPassTiming_performs (x : PassTimingItems) : Performs (setPassTimingPerform x) := fun s =>
  (Move.passTiming _ _ _ s).one

theorem setGuard_performs (n : Byte) (x : GuardItems) : Performs (setGuardPerform n x) := by
  intro s
  unfold setGuardPerform
  split
  · exact .nil s
  · split
    · exact .nil s
    · exact .cons (Move.guards _ s) (moves_evalGates true ..)

theorem moves_withStagedCues (cues : List Cue) (s : State)
    (h : s.table.stagedBank.ordered → { s.table.stagedBank with cues }.ordered) :
    Moves true s (s.withStagedCues cues) :=
  (Move.banks _ s fun o => s.table.withStaged_ordered _ o (h (s.table.stagedBank_ordered o))).one

theorem bankSetup_performs (r : Byte) : Performs (bankSetupPerform r) := by
  intro s
  unfold bankSetupPerform
  split
  · exact .nil s
  · split
    · exact .nil s
    · split
      · exact .nil s
      · exact (Move.banks _ s (by exact fun o => s.table.withStaged_ordered _ o (s.table.stagedBank_ordered o))).one

theorem loadCue_performs (key : WireKey) (x : CueItems) : Performs (loadCuePerform key x) := by
  intro s
  unfold loadCuePerform
  dsimp only
  split
  · exact .nil s
  · split
    · exact .nil s
    · rename_i k hk
      split
      · exact .nil s
      · rename_i cue adj hc
        split
        · exact .nil s
        · rename_i room
          refine moves_withStagedCues _ s fun o => placeCue_ordered cue _ o ?_
          have e : cue.key = k := by
            unfold cueOfItems at hc
            split at hc
            · split at hc
              · cases hc; rfl
              · cases hc
            · cases hc
          rw [e]
          by_cases f : (findCue s.table.stagedBank.cues k).isSome = true
          · exact .inl f
          · right
            simp only [Option.not_isSome_iff_eq_none] at f
            simpa [f] using room

theorem dropCue_performs (key : WireKey) : Performs (dropCuePerform key) := by
  intro s
  unfold dropCuePerform
  split
  · exact .nil s
  · split
    · exact .nil s
    · rename_i k _
      split
      · exact .nil s
      · exact moves_withStagedCues _ s fun o => dropKey_ordered k _ o

theorem clearBank_performs : Performs clearBankPerform := fun s => by
  unfold clearBankPerform
  split
  · exact .nil s
  · exact moves_withStagedCues _ s fun _ => ⟨by simp, by simp, by simp⟩

theorem switchBank_performs : Performs switchBankPerform := fun s => by
  unfold switchBankPerform
  dsimp only
  split
  · exact .nil s
  · have h := (Move.roles true s.table.active true s).one.trans (moves_testSafePoint true _)
    split
    · exact h
    · exact h

theorem cancelSwitch_performs : Performs cancelSwitchPerform := fun s => by
  unfold cancelSwitchPerform
  split
  · exact (Move.roles true s.table.active false s).one.snoc (Move.notice true _ _)
  · exact .nil s

theorem moves_replaceCue (old new : Cue) (s : State) (h : (findCue s.cues new.key).isSome = true) :
    Moves true s (replaceCue old new s) := by
  unfold replaceCue
  dsimp only
  refine Moves.trans (Moves.trans (Move.banks _ s fun o => ?_).one
    (Moves.foldl (fun s n => moves_editChannel true old new s n) _ _)) (moves_editTakes new _)
  exact s.table.withActive_ordered _ o (placeCue_ordered new _ (s.table.activeBank_ordered o) (.inl h))

@[simp] theorem applyEdit_key (f : EditFields) (x : CueEdit) (c : Cue) : (applyEdit f x c).1.key = c.key := rfl

theorem moves_editRecord (key : WireKey) (f : EditFields) (x : CueEdit) (old : Cue) (s : State)
    (h : (findCue s.cues old.key).isSome = true) : Moves true s (editRecord key f x old s).1 := by
  have k : (findCue s.cues (applyEdit f x old).1.key).isSome = true := by rw [applyEdit_key]; exact h
  have m := moves_replaceCue old (applyEdit f x old).1 s k
  unfold editRecord
  dsimp only
  generalize applyEdit f x old = n at m ⊢
  by_cases h1 : editSelectsNothing x = true
  · rw [if_pos h1]
    exact .nil s
  · rw [if_neg h1]
    by_cases h2 : pointsFit n.1.inPt n.1.outPt = true
    · rw [if_pos h2]
      dsimp only
      exact m
    · rw [if_neg h2]
      exact .nil s

theorem updateCue_performs (key : WireKey) (x : CueEdit) : Performs (updateCuePerform key x) := by
  intro s
  unfold updateCuePerform
  split
  · rename_i k fields hk hf
    split
    · exact .nil s
    · rename_i old ho
      have e : old.key = k := by simpa using List.find?_some ho
      exact moves_editRecord key fields x old s (by rw [e, ho]; rfl)
  · exact .nil s

theorem armTake_performs (key : WireKey) (x : Option Half) : Performs (armTakePerform key x) := by
  intro s
  unfold armTakePerform
  split
  · exact .nil s
  · rename_i k _
    split
    · exact .nil s
    · rename_i cue ts i h
      exact (Move.arm true .host k x cue ts i s h).one

theorem moves_flagEntry (s : State) (i : Nat) : Moves true s (flagEntry s i) := (Move.flags i s).one

theorem disarm_performs (w : KeyOrAll) : Performs (disarmPerform w) := by
  intro s
  unfold disarmPerform
  split
  · exact .nil s
  · dsimp only
    split
    · exact .nil s
    · exact (Moves.foldl (fun s i => moves_freeArmed true _ i s) _ _).trans
        (Moves.foldl (fun s i => moves_flagEntry s i) _ _)

theorem moves_abortEntries (l : List Nat) (s : State) : Moves true s (abortEntries l s).1 := by
  unfold abortEntries
  have h : ∀ (l : List Nat) (x : State × List Nat), Moves true x.1 (l.foldl
      (fun acc i => (closeEntry .aborted acc.1.tracker.head i acc.1, acc.2 ++ [acc.1.log.nextNumber])) x).1 := by
    intro l
    induction l with
    | nil => exact fun x => .nil x.1
    | cons i l ih =>
      exact fun x => (moves_closeEntry true .aborted x.1.tracker.head i x.1).trans
        (ih (closeEntry .aborted x.1.tracker.head i x.1, x.2 ++ [x.1.log.nextNumber]))
  exact h l (s, [])

theorem abortTake_performs (w : KeyOrAll) : Performs (abortTakePerform w) := by
  intro s
  unfold abortTakePerform
  split
  · exact .nil s
  · dsimp only
    split
    · exact .nil s
    · exact moves_abortEntries _ s

theorem collectTakes_performs (n : Half) : Performs (collectTakesPerform n) := by
  intro s
  unfold collectTakesPerform
  split
  · exact .nil s
  · split
    · exact .nil s
    · exact (Move.collect _ s).one

theorem clearSlots_performs (w : KeyOrAll) : Performs (clearSlotsPerform w) := by
  intro s
  unfold clearSlotsPerform
  split
  · exact .nil s
  · dsimp only
    split
    · exact .nil s
    · exact (Move.slots true _ s List.filter_sublist).one

theorem startPass_performs (x : PassItems) : Performs (startPassPerform x) := by
  intro s
  unfold startPassPerform
  split
  · exact .nil s
  · split
    · exact .nil s
    · split
      · exact moves_beginCycle true _ s
      · split
        · exact (Move.pass true _ s (by exact id) (by rfl) (by rfl) (by rfl)).one
        · exact .nil s

theorem stopCycle_performs : Performs stopCyclePerform := fun s => by
  unfold stopCyclePerform
  split
  · exact .nil s
  · rename_i h hh
    exact (Move.pass true _ s (by intro c; exact ⟨by simpa [hh] using c.1, c.2⟩) (by rfl) (by rfl) (by rfl)).one

theorem abandonPass_performs : Performs abandonPassPerform := fun s => by
  unfold abandonPassPerform
  split
  · exact .nil s
  · exact moves_abortPass true ..

theorem clearFault_performs (n : Byte) : Performs (clearFaultPerform n) := by
  intro s
  unfold clearFaultPerform
  split
  · exact .nil s
  · split
    · exact .nil s
    · rename_i f h
      exact (Move.clearFault n.toNat s (by rw [h]; rfl)).one

theorem clearOverflow_performs : Performs clearOverflowPerform := fun s => by
  unfold clearOverflowPerform
  split
  · exact (Move.faultFlags false s.faults.owed s).one
  · exact .nil s

/-! ### Every command -/

/-- How a command leaves the state: unchanged or moved by an event; moved and answered once by a request; or as at
power-on. -/
inductive Effect (s : State) : State → Prop
  | event {t : State} (h : Moves false s t) : Effect s t
  | request {u : State} (r : Reply) (h : Moves true s u) (k : s.link.replies.length < 8) : Effect s (queueReply r u)
  | power : Effect s { State.reset with pending := s.pending, arbiter := s.arbiter, freeDraws := s.freeDraws }

theorem takeFrame_moves {f : Frame} {s u : State} (h : takeFrame f s = some u) :
    Moves true s u ∧ s.link.replies.length < 8 := by
  unfold takeFrame at h
  split at h
  · cases h
  · rename_i room
    refine ⟨?_, by omega⟩
    split at h
    · cases h; exact .nil s
    · rename_i g rest e
      split at h
      · cases h
        exact (Move.intake rest s (by simp [e])).one
      · cases h

/-- A request that can be taken is performed on the state without its frame and answered there (11 R189). -/
theorem request_taken {i : Instr} {f : Frame} (perform : State → State × List Byte) {s : State}
    (h : requestFrame i = some f) (c : s.canTake i = true) :
    request i perform s
      = .next ((perform s.taken).1.answered (replyKind f.kind) f.tag (perform s.taken).2) := by
  unfold request State.canTake at *
  rw [h] at c ⊢
  simp only [Bool.and_eq_true, decide_eq_true_eq, Bool.or_eq_true, List.isEmpty_iff] at c
  obtain ⟨room, first⟩ := c
  have e : s.taken = { s with link := { s.link with intake := s.link.intake.tail } } := rfl
  simp only [handleRequest, takeFrame]
  rw [if_neg (by omega)]
  rcases first with none | some
  · have : s.taken = s := by
      rw [e, show s.link.intake.tail = s.link.intake by rw [none]; rfl]
    rw [none, this]
    rfl
  · cases hi : s.link.intake with
    | nil => rw [hi] at some; simp at some
    | cons g rest =>
      rw [hi] at some e
      simp only [List.head?_cons, Option.some.injEq] at some
      simp only [some, if_true]
      rw [e]
      rfl

theorem request_effect {i : Instr} {perform : State → State × List Byte} {s t : State} (p : Performs perform)
    (h : request i perform s = .next t) : Effect s t := by
  unfold request at h
  split at h
  · cases h; exact .event (.nil s)
  · unfold handleRequest at h
    split at h
    · cases h; exact .event (.nil s)
    · rename_i u e
      have m := takeFrame_moves e
      cases h
      exact .request _ (m.1.trans (p u)) m.2

theorem moves_timerChange (r : Tracker × Bool) (s : State) (h : TrackerMove s r.1 .none) :
    Moves false s (timerChange r s) :=
  Moves.ite (.nil s) (moves_changeTracker false r.1 .none r.2 s h)

theorem moves_elapse (now : Stamp) {s t : State} (h : Moves false (elapseTo now s) t) : Moves false s t :=
  .cons (Move.clock false now s) h

theorem moves_countInvalid (s : State) : Moves false s (countInvalid s) :=
  Moves.ite (Move.reader false _ s).one ((Move.reader false _ s).one.snoc (Move.fault false _ _))

theorem moves_readerTakes (label : WordLabel) (sense : Sense) (stamp : Stamp) (s : State) :
    Moves false s (readerTakes label sense stamp s) := by
  unfold readerTakes
  split
  · exact moves_countInvalid s
  · exact .cons (Move.reader false { s.reader with invalidRun := 0 } s)
      (moves_changeTracker false _ _ false _ (.word _))

theorem moves_tone (n : Nat) (f : Channel → Tone) (s : State) :
    Moves false s (onChannel n (fun c => ({ c with tone := f c }, [])) s) :=
  moves_onChannel false n _ s fun _ => ⟨rfl, fun _ => id⟩

/-- Every channel changed but for its settings and its schedule. -/
theorem moves_takeFrameStart (s : State) : Moves false s (takeFrameStart s) :=
  Moves.ite (Move.video false _ s).one (moves_drawFrame false s)

theorem moves_clearPicture (s : State) : Moves false s (clearPicture s) :=
  (moves_mapChannels false (fun c => { c with overlay := { c.overlay with punch := 0 } }) s fun _ => ⟨rfl, fun _ => id⟩).snoc
    (Move.video false { s.video with present := false, drawing := [] } _)

theorem moves_loseVideo (s : State) : Moves false s (loseVideo s) :=
  Moves.trans (Move.fault false _ s).one (moves_clearPicture _)

theorem moves_expireArm (i : Nat) (s : State) : Moves false s (expireArm i s) := by
  unfold expireArm
  split
  · exact .nil s
  · exact Moves.ite (moves_freeArmed false ..) (.nil s)

theorem moves_expireGap (s : State) : Moves false s (expireGap s) := by
  unfold expireGap
  split
  · exact .nil s
  · exact Moves.ite ((Move.receiver .between s).one.trans (moves_linkError 1 _)) (.nil s)

/-- Everything a command can do to the state. -/
theorem exec_effect (i : Instr) {s t : State} (h : exec i s = .next t) : Effect s t := by
  cases i with
  | powerOn => cases h; exact .power
  | wordArrival label sense took stamp =>
    refine .event (moves_elapse stamp ?_)
    simp only [exec, execWordArrival] at h
    split at h
    · cases h; exact .nil _
    · cases h; exact moves_readerTakes ..
  | wordTimeout now => cases h; exact .event (moves_elapse now (moves_timerChange _ _ (.timeOut now)))
  | playHeadAdvance now => cases h; exact .event (moves_elapse now (moves_timerChange _ _ (.advance now)))
  | freewheelLimitReached now => cases h; exact .event (moves_elapse now (moves_timerChange _ _ (.limit now)))
  | burstExpiry ch now => cases h; exact .event (moves_elapse now (moves_tone _ _ _))
  | tonePeriodStart ch now => cases h; exact .event (moves_elapse now (moves_tone _ _ _))
  | videoFrameStart now => cases h; exact .event (moves_elapse now (moves_takeFrameStart _))
  | videoLost now => cases h; exact .event (moves_elapse now (Moves.ite (moves_loseVideo _) (.nil _)))
  | armDeadlineExpiry e now => cases h; exact .event (moves_elapse now (moves_expireArm _ _))
  | phaseDeadlineExpiry now => cases h; exact .event (moves_elapse now (moves_expirePhase false _))
  | transportRequestSent now => cases h; exact .event (moves_elapse now (Move.transport false _ _).one)
  | transportAnswer now => cases h; exact .event (moves_elapse now (moves_completeAnswer false _))
  | transportAnswerDeadline now => cases h; exact .event (moves_elapse now (moves_expireAnswer false _))
  | frameReceived b now => cases h; exact .event (moves_elapse now (moves_receiveByte _ _))
  | badLength b now => cases h; exact .event (moves_elapse now (moves_receiveByte _ _))
  | linkGapExpiry now => cases h; exact .event (moves_elapse now (moves_expireGap _))
  | hold now => cases h; exact .event (moves_elapse now (moves_receiveByte _ _))
  | goOn now => cases h; exact .event (moves_elapse now (moves_receiveByte _ _))
  | malformedRequest k tag p =>
    simp only [exec, execMalformedRequest] at h
    split at h
    · cases h; exact .event (.nil s)
    · exact request_effect (.read _) h
  | transmitChoose now => cases h; exact .event (moves_elapse now (moves_chooseFrame _))
  | transmitFrameEnd now => cases h; exact .event (moves_elapse now (Move.sender _ _ _).one)
  | identify tag => exact request_effect (i := .identify tag) (.read _) h
  | getStatus tag => exact request_effect (i := .getStatus tag) (.read _) h
  | setNotices tag m => exact request_effect (i := .setNotices tag m) (setNotices_performs m) h
  | restart tag => exact request_effect (i := .restart tag) restart_performs h
  | setTracking tag x => exact request_effect (i := .setTracking tag x) (setTracking_performs x) h
  | setSchedule tag w => exact request_effect (i := .setSchedule tag w) (setSchedule_performs w) h
  | setChannel tag ch x => exact request_effect (i := .setChannel tag ch x) (setChannel_performs ch x) h
  | setTakeTiming tag x => exact request_effect (i := .setTakeTiming tag x) (setTakeTiming_performs x) h
  | setPassTiming tag x => exact request_effect (i := .setPassTiming tag x) (setPassTiming_performs x) h
  | setGuard tag n x => exact request_effect (i := .setGuard tag n x) (setGuard_performs n x) h
  | bankSetup tag r => exact request_effect (i := .bankSetup tag r) (bankSetup_performs r) h
  | loadCue tag k x => exact request_effect (i := .loadCue tag k x) (loadCue_performs k x) h
  | dropCue tag k => exact request_effect (i := .dropCue tag k) (dropCue_performs k) h
  | clearBank tag => exact request_effect (i := .clearBank tag) clearBank_performs h
  | switchBank tag => exact request_effect (i := .switchBank tag) switchBank_performs h
  | cancelSwitch tag => exact request_effect (i := .cancelSwitch tag) cancelSwitch_performs h
  | updateCue tag k x => exact request_effect (i := .updateCue tag k x) (updateCue_performs k x) h
  | readCue tag b k => exact request_effect (i := .readCue tag b k) (.read _) h
  | listCues tag b n => exact request_effect (i := .listCues tag b n) (.read _) h
  | cueState tag k => exact request_effect (i := .cueState tag k) (.read _) h
  | armTake tag k x => exact request_effect (i := .armTake tag k x) (armTake_performs k x) h
  | disarm tag w => exact request_effect (i := .disarm tag w) (disarm_performs w) h
  | abortTake tag w => exact request_effect (i := .abortTake tag w) (abortTake_performs w) h
  | readTake tag w => exact request_effect (i := .readTake tag w) (.read _) h
  | collectTakes tag n => exact request_effect (i := .collectTakes tag n) (collectTakes_performs n) h
  | clearSlots tag w => exact request_effect (i := .clearSlots tag w) (clearSlots_performs w) h
  | readSlots tag k => exact request_effect (i := .readSlots tag k) (.read _) h
  | startPass tag x => exact request_effect (i := .startPass tag x) (startPass_performs x) h
  | stopCycle tag => exact request_effect (i := .stopCycle tag) stopCycle_performs h
  | abandonPass tag => exact request_effect (i := .abandonPass tag) abandonPass_performs h
  | readFaults tag => exact request_effect (i := .readFaults tag) (.read _) h
  | clearFault tag n => exact request_effect (i := .clearFault tag n) (clearFault_performs n) h
  | clearOverflow tag => exact request_effect (i := .clearOverflow tag) clearOverflow_performs h
  | controlByteReceived b now => cases h; exact .event (moves_elapse now (moves_receiveByte _ _))
  | transportCharacterReceived c now =>
    cases h
    exact .event (moves_elapse now (Moves.ite (moves_completeAnswer false _) (Move.transport false _ _).one))

end Sys2Proof.Machine
end

