-- ==== Sys2Proof/Laws/Passing.lean ====
section
/-! SUPPORT. What passing cues one after another does to a channel (05 R81 to R85): which statuses and entries change, and
which notices are given, in ascending key order. -/

namespace Sys2Proof.Machine

/-! ### Sorted keys -/

theorem sortBy_perm {α : Type} (lt : α → α → Bool) (l : List α) : (sortBy lt l).Perm l := by
  have h : ∀ acc : List α, (l.foldl (fun acc x => insertBy lt x acc) acc).Perm (acc ++ l) := by
    induction l with
    | nil => intro acc; simp
    | cons x l ih =>
      intro acc
      refine (ih _).trans ?_
      exact ((insertBy_perm lt x acc).append_right l).trans (List.perm_middle.symm)
  exact h []

/-- Sorting by an order that is transitive, and total on the elements at hand, gives a list in that order. -/
theorem sortBy_pairwise {α : Type} (lt : α → α → Bool) (l : List α)
    (trans : ∀ a b c, lt a b = true → lt b c = true → lt a c = true)
    (total : l.Pairwise fun a b => lt b a = false → lt a b = true) :
    (sortBy lt l).Pairwise fun a b => lt a b = true := by
  have ins : ∀ (x : α) (m : List α), (∀ y ∈ m, lt x y = false → lt y x = true) →
      (m.Pairwise fun a b => lt a b = true) → (insertBy lt x m).Pairwise fun a b => lt a b = true := by
    intro x m
    induction m with
    | nil => simp [insertBy]
    | cons y m ih =>
      intro t h
      have hy := List.pairwise_cons.mp h
      unfold insertBy
      split
      · rename_i hb
        refine List.pairwise_cons.mpr ⟨fun e he => ?_, h⟩
        rcases List.mem_cons.mp he with rfl | he
        · exact hb
        · exact trans _ _ _ hb (hy.1 e he)
      · rename_i hb
        refine List.pairwise_cons.mpr ⟨fun e he => ?_, ih (fun z hz => t z (List.mem_cons_of_mem y hz)) hy.2⟩
        rcases (mem_insertBy _ _ _ _).mp he with rfl | he
        · exact t y (by simp) (by simpa using hb)
        · exact hy.1 e he
  have go : ∀ acc : List α, (acc.Pairwise fun a b => lt a b = true) →
      (∀ x ∈ l, ∀ y ∈ acc, lt x y = false → lt y x = true) →
      (l.foldl (fun acc x => insertBy lt x acc) acc).Pairwise fun a b => lt a b = true := by
    induction l with
    | nil => intro acc h _; exact h
    | cons x l ih =>
      intro acc h t
      have hx := List.pairwise_cons.mp total
      refine ih hx.2 _ (ins x acc (t x (by simp)) h) fun z hz y hy => ?_
      rcases (mem_insertBy _ _ _ _).mp hy with rfl | hy
      · exact hx.1 z hz
      · exact t z (List.mem_cons_of_mem x hz) y hy
  exact go [] List.Pairwise.nil (by simp)

@[simp] theorem mem_keysWhere (test : MapEntry → Bool) (map : List MapEntry) (k : Key) :
    k ∈ keysWhere test map ↔ ∃ m ∈ map, m.key = k ∧ test m = true := by
  unfold keysWhere
  rw [(sortBy_perm _ _).mem_iff]
  simp only [List.mem_map, List.mem_filter]
  exact ⟨fun ⟨m, ⟨a, b⟩, c⟩ => ⟨m, a, c, b⟩, fun ⟨m, a, c, b⟩ => ⟨m, ⟨a, b⟩, c⟩⟩

/-- The keys picked from a map with no key twice stand in ascending order. -/
theorem keysWhere_ascending (test : MapEntry → Bool) (map : List MapEntry) (n : (map.map MapEntry.key).Nodup) :
    (keysWhere test map).Pairwise fun a b => a.before b = true := by
  refine sortBy_pairwise _ _ (fun a b c => Key.before_trans) ?_
  refine (n.sublist (List.filter_sublist.map _)).imp fun {a b} ne h => ?_
  exact Key.before_total h (fun e => ne e.symm)

/-! ### Passing several cues -/

/-- A map entry as passing some keys leaves it, each for its own reason. -/
def MapEntry.passedIn (ks : List Key) (reason : Key → PassReason) (m : MapEntry) : MapEntry :=
  if m.key ∈ ks then { m with status := .passed (reason m.key), copy := none } else m

/-- A channel as passing some keys leaves it. -/
def Channel.passAll (ks : List Key) (reason : Key → PassReason) (c : Channel) : Channel :=
  { c with map := c.map.map (MapEntry.passedIn ks reason), schedule := c.schedule.filter fun e => decide (e.key ∉ ks) }

@[simp] theorem Channel.passAll_nil (reason : Key → PassReason) (c : Channel) : c.passAll [] reason = c := by
  have : MapEntry.passedIn [] reason = id := by funext m; simp [MapEntry.passedIn]
  simp [Channel.passAll, this]

/-- Passing one cue and then others passes them all. -/
theorem Channel.pass_passAll (reason : Key → PassReason) (k : Key) (ks : List Key) (c : Channel) :
    (c.pass k (reason k)).passAll ks reason = c.passAll (k :: ks) reason := by
  unfold Channel.passAll Channel.pass setStatus dropEntries
  dsimp only
  rw [List.map_map, List.filter_filter]
  congr 1
  · refine List.map_congr_left fun m _ => ?_
    simp only [Function.comp, MapEntry.passedIn, List.mem_cons]
    by_cases h : m.key = k <;> by_cases g : m.key ∈ ks <;> simp [h, g]
  · congr 1
    funext e
    simp only [List.mem_cons, not_or, Bool.decide_and]
    exact Bool.and_comm _ _

/-- Passing cues one after another passes them all, whatever their order (05 R81 to R84). -/
theorem Channel.foldl_pass (reason : Key → PassReason) (ks : List Key) (c : Channel) :
    ks.foldl (fun c k => c.pass k (reason k)) c = c.passAll ks reason := by
  induction ks generalizing c with
  | nil => exact (Channel.passAll_nil reason c).symm
  | cons k ks ih => rw [List.foldl_cons, ih, Channel.pass_passAll]

theorem Channel.passSkipped_eq (ks : List Key) (c : Channel) : c.passSkipped ks = c.passAll ks fun _ => .skipped :=
  Channel.foldl_pass (fun _ => .skipped) ks c

/-- Reported passings pass their cues and give one notice for each, in their order (05 R81, R93). -/
theorem Channel.passReported_eq (env : ChannelEnv) (p : Nat) (reason : PassReason) (ks : List Key) (c : Channel) :
    c.passReported env p reason ks
      = (c.passAll ks fun _ => reason, ks.map fun k => passedNotice env k reason p) := by
  have h : ∀ (es : List Emit) (c : Channel),
      ks.foldl (fun acc k => (acc.1.pass k reason, acc.2 ++ [passedNotice env k reason p])) (c, es)
        = (c.passAll ks fun _ => reason, es ++ ks.map fun k => passedNotice env k reason p) := by
    induction ks with
    | nil => simp
    | cons k ks ih =>
      intro es c
      rw [List.foldl_cons, ih, Channel.pass_passAll fun _ => reason]
      simp
  exact h [] c

/-- Another cue's passing leaves a cue's map entry. -/
theorem Channel.pass_entryOf {k q : Key} (h : q ≠ k) (reason : PassReason) (c : Channel) :
    (c.pass k reason).entryOf q = c.entryOf q := by
  unfold Channel.entryOf Channel.pass setStatus
  dsimp only
  induction c.map with
  | nil => rfl
  | cons m l ih =>
    simp only [List.map_cons, List.find?_cons]
    by_cases e : m.key = k
    · have n : ¬ m.key = q := fun x => h (x.symm.trans e)
      rw [if_pos e]
      simp [n, ih]
    · simp [e, ih]

/-- A cue's membership is settled by the map alone (04 R67). -/
theorem Channel.settleMembership_eq (cues : List Cue) (k : Key) (c : Channel) :
    c.settleMembership cues k
      = { c with map := if c.acceptsKey cues k then c.map else c.map.filter fun m => decide (m.key ≠ k) } := by
  unfold Channel.settleMembership dropStatus
  split <;> simp [*]

/-- The pass of the ACTIVE cues for INTERRUPTED: the notices in ascending key order, and nothing changed but the map and the
schedule (05 R78, R85). -/
theorem Channel.interrupt_eq (env : ChannelEnv) (p : Nat) (c : Channel) :
    (c.interrupt env p).2 =
        (keysWhere (fun m => m.status.isActive) c.map).map (fun k => passedNotice env k .interrupted p)
      ∧ (c.interrupt env p).1 =
        { c with map := (c.interrupt env p).1.map, schedule := (c.interrupt env p).1.schedule } := by
  have h : ∀ (l : List Key) (x : Channel × List Emit) (y : Channel × List Emit),
      y = l.foldl
          (fun acc k =>
            ((acc.1.pass k .interrupted).settleMembership env.cues k, acc.2 ++ [passedNotice env k .interrupted p])) x →
      y.2 = x.2 ++ l.map (fun k => passedNotice env k .interrupted p)
        ∧ y.1 = { x.1 with map := y.1.map, schedule := y.1.schedule } := by
    intro l
    induction l with
    | nil => rintro x _ rfl; simp
    | cons k l ih =>
      intro x y hy
      have := ih _ y hy
      refine ⟨by rw [this.1]; simp, ?_⟩
      conv_lhs => rw [this.2]
      beta_reduce
      rw [Channel.settleMembership_eq]
      rfl
  have := h (keysWhere (fun m => m.status.isActive) c.map) (c, []) _ rfl
  exact ⟨this.1.trans (List.nil_append _), this.2⟩

end Sys2Proof.Machine
end

