-- ==== Sys2Proof/Laws/Expansion.lean ====
section
/-! SUPPORT. What an expansion pass can do (05 R76): the cues it goes through, the ones it takes, and what queueing them
leaves of the channel. -/

namespace Sys2Proof.Machine

/-! ### The candidates -/

theorem mem_candidates (env : ChannelEnv) (p : Nat) (c : Channel) (x : Candidate) :
    x ∈ c.candidates env p ↔
      findCue env.cues x.cue.key = some x.cue ∧ (∃ m ∈ c.map, m.key = x.cue.key ∧ m.status = .waiting)
        ∧ x.earliest = earliestPoint x.cue c.settings.textLead ∧ x.earliest ≤ p + env.window * 100
        ∧ p < x.cue.outPt := by
  unfold Channel.candidates
  rw [(sortBy_perm _ _).mem_iff]
  simp only [List.mem_filterMap, List.mem_filter, decide_eq_true_eq]
  constructor
  · rintro ⟨m, ⟨hm, hw⟩, h⟩
    rcases f : findCue env.cues m.key with _ | cue
    · simp [f] at h
    · simp only [f] at h
      split at h
      · rename_i g
        cases h
        have k : cue.key = m.key := by simpa using List.find?_some f
        exact ⟨by rw [k]; exact f, ⟨m, hm, k.symm, hw⟩, rfl, g⟩
      · cases h
  · rintro ⟨f, ⟨m, hm, k, hw⟩, e, w, o⟩
    refine ⟨m, ⟨hm, hw⟩, ?_⟩
    rw [k, f]
    simp only
    rw [if_pos ⟨e ▸ w, o⟩, ← e]

/-- The order of a pass spelled out: earliest point, then table order (05 R76). -/
theorem Candidate.before_iff (a b : Candidate) : a.before b = true ↔
    a.earliest < b.earliest ∨ (a.earliest = b.earliest ∧ a.cue.before b.cue = true) := by
  unfold Candidate.before
  split
  · simp only [decide_eq_true_eq]
    omega
  · rename_i h
    simp [not_not.mp h]

theorem Candidate.before_trans {a b c : Candidate} (h : a.before b = true) (k : b.before c = true) :
    a.before c = true := by
  rw [Candidate.before_iff] at *
  rcases h with h | h <;> rcases k with k | k
  · exact .inl (by omega)
  · exact .inl (by omega)
  · exact .inl (by omega)
  · exact .inr ⟨by omega, Cue.before_trans h.2 k.2⟩

theorem Candidate.before_total {a b : Candidate} (h : a.before b = false) (n : a.cue.key ≠ b.cue.key) :
    b.before a = true := by
  rw [← Bool.not_eq_true, Candidate.before_iff, not_or, not_and, Bool.not_eq_true] at h
  rw [Candidate.before_iff]
  by_cases e : a.earliest = b.earliest
  · exact .inr ⟨e.symm, Cue.before_total (h.2 e) n⟩
  · exact .inl (by omega)

/-- The candidates of a map with no key twice stand strictly in the order of the pass, so no key twice among them. -/
theorem candidates_ascending (env : ChannelEnv) (p : Nat) (c : Channel) (n : (c.map.map MapEntry.key).Nodup) :
    (c.candidates env p).Pairwise fun a b => a.before b = true := by
  unfold Channel.candidates
  refine sortBy_pairwise _ _ (fun a b c => Candidate.before_trans) ?_
  have n' : ((c.map.filter fun m => decide (m.status = .waiting)).map MapEntry.key).Nodup :=
    n.sublist (List.filter_sublist.map _)
  rw [List.pairwise_filterMap]
  refine (List.pairwise_map.mp n').imp fun {m q} ne x hx y hy h => ?_
  refine Candidate.before_total h fun e => ne ?_
  have key : ∀ (m : MapEntry) (x : Candidate),
      (match findCue env.cues m.key with
        | none => none
        | some cue =>
          if earliestPoint cue c.settings.textLead ≤ p + env.window * 100 ∧ p < cue.outPt then
            some { cue, earliest := earliestPoint cue c.settings.textLead }
          else none) = some x → x.cue.key = m.key := by
    intro m x h
    rcases f : findCue env.cues m.key with _ | cue
    · simp [f] at h
    · simp only [f] at h
      split at h
      · cases h
        simpa using List.find?_some f
      · cases h
  exact (key m x hx).symm.trans (e.symm.trans (key q y hy))

/-! ### Taking cues in -/

/-- A map entry as queueing some cues leaves it. -/
def MapEntry.queuedIn (cues : List Cue) (lead : Nat) (m : MapEntry) : MapEntry :=
  match cues.find? fun q => decide (q.key = m.key) with
  | none => m
  | some q => { m with status := .queued, copy := some (copyOf q lead) }

@[simp] theorem queuedIn_nil (lead : Nat) (m : MapEntry) : m.queuedIn [] lead = m := rfl

/-- Queueing some cues of different keys, one after another. -/
theorem queueAll_eq (cues : List Cue) (c : Channel) (n : (cues.map Cue.key).Nodup) :
    cues.foldl (fun c q => c.queueCue q) c
      = { c with
          map := c.map.map (MapEntry.queuedIn cues c.settings.textLead),
          schedule := placeEntries (cues.flatMap fun q => entriesOf q c.settings.textLead) c.schedule } := by
  induction cues generalizing c with
  | nil =>
    have : MapEntry.queuedIn [] c.settings.textLead = id := by funext m; rfl
    simp [this, placeEntries]
  | cons q cues ih =>
    rw [List.foldl_cons, ih _ (List.nodup_cons.mp n).2]
    unfold Channel.queueCue setStatus placeEntries
    dsimp only
    rw [List.map_map, List.flatMap_cons, List.foldl_append]
    congr 1
    refine List.map_congr_left fun m _ => ?_
    simp only [Function.comp, MapEntry.queuedIn, List.find?_cons]
    by_cases h : m.key = q.key
    · have : cues.find? (fun x => decide (x.key = q.key)) = none := by
        rw [List.find?_eq_none]
        intro x hx e
        exact (List.nodup_cons.mp n).1 (List.mem_map.mpr ⟨x, hx, by simpa using e⟩)
      simp [h, this]
    · have : ¬ q.key = m.key := fun e => h e.symm
      simp [h, this]

theorem placeEntries_perm (es sch : List Entry) : (placeEntries es sch).Perm (sch ++ es) := by
  unfold placeEntries
  induction es generalizing sch with
  | nil => simp
  | cons e es ih =>
    rw [List.foldl_cons]
    exact (ih _).trans (((insertBy_perm _ e sch).append_right es).trans (by simpa using List.perm_middle.symm))

/-- The pass takes the candidates up to the first that does not fit (05 R76). -/
theorem takeIn_splits (xs : List Candidate) (c : Channel) :
    ∃ taken later : List Candidate,
      xs = taken ++ later ∧ Channel.takeIn xs c = (taken.map Candidate.cue).foldl (fun c q => c.queueCue q) c
        ∧ (taken ≠ [] → (Channel.takeIn xs c).schedule.length ≤ 48)
        ∧ ∀ (x : Candidate) (rest : List Candidate), later = x :: rest →
            48 < (Channel.takeIn xs c).schedule.length + (eventPoints x.cue c.settings.textLead).length := by
  induction xs generalizing c with
  | nil => exact ⟨[], [], rfl, rfl, fun h => absurd rfl h, fun _ _ h => by cases h⟩
  | cons x xs ih =>
    by_cases h : c.schedule.length + (eventPoints x.cue c.settings.textLead).length ≤ 48
    · obtain ⟨taken, later, e, t, f, g⟩ := ih (c.queueCue x.cue)
      have u : Channel.takeIn (x :: xs) c = Channel.takeIn xs (c.queueCue x.cue) := by
        rw [Channel.takeIn, if_pos h]
      refine ⟨x :: taken, later, by rw [e, List.cons_append], by rw [u, t]; rfl, fun _ => ?_, fun y rest hy => ?_⟩
      · rw [u]
        rcases taken with _ | ⟨y, taken⟩
        · rw [t]
          simpa [Channel.queueCue, placeEntries_length, entriesOf] using h
        · exact f (by simp)
      · rw [u]
        exact g y rest hy
    · have u : Channel.takeIn (x :: xs) c = c := by rw [Channel.takeIn, if_neg h]
      refine ⟨[], x :: xs, rfl, by rw [u]; rfl, fun h => absurd rfl h, fun y rest hy => ?_⟩
      cases hy
      rw [u]
      omega

end Sys2Proof.Machine
end

