-- ==== Sys2Proof/Laws/Frames.lean ====
section
/-! SUPPORT. What each reader of a payload gives on the bytes its writer sends (11 R188, R189): one sound reading, with the
bytes after it left. -/

namespace Sys2Proof.Machine

/-- Reading on after one sound value is reading what follows it. -/
@[simp] theorem Readings.got_andThen {α β : Type} (a : α) (rest : List Byte) (f : α → List Byte → Readings β) :
    (Readings.got a rest).andThen f = f a rest := by
  simp [Readings.got, Readings.andThen]

@[simp] theorem Readings.nil_andThen {α β : Type} (f : α → List Byte → Readings β) :
    Readings.andThen [] f = [] := rfl

@[simp] theorem Readings.choose_zero {α : Type} (x y : Readings α) : Readings.choose 0#8 x y = x := rfl

@[simp] theorem Readings.choose_one {α : Type} (x y : Readings α) : Readings.choose 1#8 x y = y := rfl

/-- A byte above 1 leaves both ways on, and neither is sound. -/
theorem Readings.choose_above {α : Type} {b : Byte} (h : 1 < b.toNat) (x y : Readings α) :
    Readings.choose b x y = (x ++ y).map fun z => { z with sound := false } := by
  unfold Readings.choose
  rw [if_neg (by rintro rfl; simp at h), if_neg (by rintro rfl; simp at h)]

@[simp] theorem readByte_one (b : Byte) (l : List Byte) : readByte (one b ++ l) = .got b l := rfl

@[simp] theorem readHalf_half (w : Half) (l : List Byte) : readHalf (half w ++ l) = .got w l := by
  have h : ((w.extractLsb' 8 8 ++ w.extractLsb' 0 8 : BitVec 16)) = w := by
    ext i hi
    simp only [BitVec.getElem_append, BitVec.getElem_extractLsb']
    split
    · simp [BitVec.getLsbD_eq_getElem hi]
    · rw [show 8 + (i - 8) = i by omega, BitVec.getLsbD_eq_getElem hi]
  simp only [half, List.cons_append, List.nil_append, readHalf]
  rw [h]

@[simp] theorem readKey_item (k : WireKey) (l : List Byte) : readKey (wireKeyItem k ++ l) = .got k l := by
  have h := readHalf_half k.num l
  simp only [half, List.cons_append, List.nil_append, readHalf, Readings.got, List.cons.injEq, Reading.mk.injEq] at h
  simp only [wireKeyItem, half, List.cons_append, List.nil_append, readKey]
  rw [h.1.1]

@[simp] theorem readPos_item (p : WirePos) (l : List Byte) : readPos (wirePosItem p ++ l) = .got p l := rfl

/-- A text of up to 255 characters reads back. -/
theorem readText_item (t l : List Byte) (h : t.length ≤ 255) : readText (textItem t ++ l) = .got t l := by
  have e : (BitVec.ofNat 8 t.length).toNat = t.length := by simp; omega
  simp only [textItem, b1, List.cons_append, List.nil_append, readText, e]
  rw [if_neg (by simp)]
  simp

/-- An optional item reads back when its item does. -/
theorem readOpt_opt {α : Type} (item : α → List Byte) (read : List Byte → Readings α) (v : Option α) (l : List Byte)
    (h : ∀ a, v = some a → read (item a ++ l) = .got a l) : readOpt read (opt item v ++ l) = .got v l := by
  cases v with
  | none => rfl
  | some a => simp [opt, readOpt, h a rfl]

@[simp] theorem readOpt_one (v : Option Byte) (l : List Byte) : readOpt readByte (opt one v ++ l) = .got v l :=
  readOpt_opt one readByte v l fun a _ => readByte_one a l

@[simp] theorem readOpt_half (v : Option Half) (l : List Byte) : readOpt readHalf (opt half v ++ l) = .got v l :=
  readOpt_opt half readHalf v l fun a _ => readHalf_half a l

@[simp] theorem readOpt_key (v : Option WireKey) (l : List Byte) :
    readOpt readKey (opt wireKeyItem v ++ l) = .got v l :=
  readOpt_opt wireKeyItem readKey v l fun a _ => readKey_item a l

@[simp] theorem readOpt_pos (v : Option WirePos) (l : List Byte) :
    readOpt readPos (opt wirePosItem v ++ l) = .got v l :=
  readOpt_opt wirePosItem readPos v l fun a _ => readPos_item a l

@[simp] theorem readKeyOrAll_payload (w : KeyOrAll) (l : List Byte) :
    readKeyOrAll (keyOrAllPayload w ++ l) = .got w l := by
  cases w <;> simp [keyOrAllPayload, readKeyOrAll]

@[simp] theorem readTakeSelector_payload (w : TakeSelector) (l : List Byte) :
    readTakeSelector (selectorPayload w ++ l) = .got w l := by
  cases w <;> simp [selectorPayload, readTakeSelector]

/-- Whether a frame spells a request does not hang on its tag. -/
theorem fullReadings_sound_tag (kind tag tag' : Byte) (l : List Byte) :
    (fullReadings kind tag l).map (fun x => (x.sound, x.rest))
      = (fullReadings kind tag' l).map fun x => (x.sound, x.rest) := by
  have filt : ∀ (p q : Readings Instr),
      p.map (fun x => (x.sound, x.rest)) = q.map (fun x => (x.sound, x.rest)) →
        (p.filter fun x => x.rest.isEmpty).map (fun x => (x.sound, x.rest))
          = (q.filter fun x => x.rest.isEmpty).map fun x => (x.sound, x.rest) := by
    intro p q h
    have key : ∀ r : Readings Instr, (r.filter fun x => x.rest.isEmpty).map (fun x => (x.sound, x.rest))
        = (r.map fun x => (x.sound, x.rest)).filter fun y => y.2.isEmpty := by
      intro r; rw [List.filter_map]; rfl
    rw [key, key, h]
  have step : ∀ {α β : Type} (r : Readings α) (f g : α → List Byte → Readings β),
      (∀ a l, (f a l).map (fun x => (x.sound, x.rest)) = (g a l).map fun x => (x.sound, x.rest)) →
        (r.andThen f).map (fun x => (x.sound, x.rest)) = (r.andThen g).map fun x => (x.sound, x.rest) := by
    intro α β r f g h
    simp only [Readings.andThen, List.map_flatMap, List.map_map]
    congr 1
    funext x
    have := congrArg (List.map fun y : Bool × List Byte => (x.sound && y.1, y.2)) (h x.value x.rest)
    simp only [List.map_map] at this
    exact this
  refine filt _ _ ?_
  unfold readRequest
  split <;> first | rfl | exact step _ _ _ fun _ _ => rfl | exact step _ _ _ fun _ _ => step _ _ _ fun _ _ => rfl

end Sys2Proof.Machine
end

