-- ==== Sys2Proof/Tests/Slice0.lean ====
section
/-! SUPPORT. The model's own tests: ill-formed commands are refused, the manual's worked examples come out, and every
statement's hypotheses are met by some state (the theorems named `test_meets_…`). -/

namespace Sys2Proof.Tests
open Sys2Proof Sys2Proof.Machine

/-! ### States and commands of the tests -/

/-- The state a command leaves; a command of this engine always leaves one. -/
def after (i : Instr) (s : State) : State :=
  match exec i s with
  | .next t => t
  | _ => s

/-- A reset state with its tracker replaced. -/
def tracking (t : Tracker) : State := { State.reset with tracker := t }

/-- A reset state with its link port replaced. -/
def linked (l : Link) : State := { State.reset with link := l }

/-- A tracker LOCKED forward at nominal speed on frame 1000, accepted at counter value 0. -/
def locked : Tracker :=
  { Tracker.reset with
    state := .locked, accepted := some ⟨1000, .forward, 0⟩, head := 100000, heading := .forward, speed := 1000,
    history := [40000], cls := .play, settleEnd := some 101200, lastArrival := some 0 }

/-- The same tracker parked, its class recomputed. -/
def stopped : Tracker := (concludeChange .pal25 locked locked.toParked .none).1

/-- A cue of key 31: in 500,000, out 510,000. -/
def cue31 : Cue :=
  { key := ⟨31, none⟩, tag := 0, inPt := 500000, outPt := 510000, streamer := 48, beeps := 3, interval := 30,
    punch := true, tracks := 0x20, text := some [72, 73] }

/-- Key 31 on the wire. -/
def wire31 : WireKey := ⟨31, 0⟩

/-- A reset state whose active and staged banks hold cue 31. -/
def banked : State :=
  { State.reset with
    table := { CueTable.reset with bankA := { cues := [cue31], rate := .pal25 },
                                   bankB := { cues := [cue31], rate := .pal25 } } }

/-- The fields of LOAD_CUE for cue 31 with a text. -/
def items31 (text : Option (List Byte)) : CueItems :=
  ⟨0, wirePos .pal25 500000, wirePos .pal25 510000, 48, 3, 30, 1, 0x20, text⟩

/-! ### Ill-formed commands -/

theorem test_wf_refuses_text_of_256 :
    (Instr.updateCue 0 wire31
      ⟨0, none, none, none, none, none, none, none, none, some (some (List.replicate 256 65))⟩).wellFormed = false := by
  decide +kernel

theorem test_wf_refuses_long_load_cue :
    (Instr.loadCue 0 wire31 (items31 (some (List.replicate 218 65)))).wellFormed = false
      ∧ (Instr.loadCue 0 wire31 (items31 (some (List.replicate 217 65)))).wellFormed = true := by decide +kernel

theorem test_wf_refuses_long_update_cue :
    (Instr.updateCue 0 wire31
      ⟨0, none, none, none, none, none, none, none, none, some (some (List.replicate 234 65))⟩).wellFormed = false := by
  decide +kernel

theorem test_wf_refuses_long_frame : (Instr.malformedRequest 0x7F 0 (List.replicate 241 0)).wellFormed = false := by
  decide +kernel

theorem test_wf_refuses_carriage_return : (Instr.transportCharacterReceived 0x0D 0).wellFormed = false := by decide

theorem test_wf_refuses_good_length :
    (Instr.badLength 2 0).wellFormed = false ∧ (Instr.badLength 242 0).wellFormed = false := by decide

/-! ### The manual's worked values -/

/-- Rate 3 across a minute and at the end of the day (01, Worked conversions at rate 3). -/
theorem test_drop_counts :
    (⟨0, 1, 0, 2⟩ : Label).count .drop2997 = 1800 ∧ Label.ofCount .drop2997 1800 = ⟨0, 1, 0, 2⟩
      ∧ (⟨0, 1, 0, 1⟩ : Label).skipped .drop2997 = true ∧ Label.ofCount .drop2997 19782 = ⟨0, 11, 0, 2⟩
      ∧ (⟨23, 59, 59, 29⟩ : Label).count .drop2997 = 2589407 ∧ (⟨1, 0, 10, 0⟩ : Label).count .drop2997 = 108192 := by
  decide

/-- Words under an offset (01, The offset at the ends of the day). -/
theorem test_offset_words :
    readWord .drop2997 3 ⟨23, 59, 59, 28⟩ = none ∧ readWord .drop2997 1 ⟨23, 59, 59, 28⟩ = some 2589407
      ∧ readWord .drop2997 (-2) ⟨0, 0, 0, 1⟩ = none ∧ readWord .drop2997 0 ⟨0, 1, 0, 1⟩ = none := by decide

/-- The LOC text for P = 180,000 at rate 3 with offset −2 (01 R9, 09 R168). -/
theorem test_loc_text :
    locText .drop2997 (-2) 180000
      = [0x4C, 0x4F, 0x43, 0x20, 0x30, 0x30, 0x3A, 0x30, 0x31, 0x3A, 0x30, 0x30, 0x3B, 0x30, 0x34] := by decide +kernel

/-- Request positions at rate 3 and at rate 2 (01, Request positions at rate 3). -/
theorem test_request_positions :
    posField .drop2997 ⟨0, 1, 0, 0, 40⟩ = some (180040, true)
      ∧ posField .drop2997 ⟨0, 1, 3, 0, 0⟩ = some (188800, false)
      ∧ posField .drop2997 ⟨0, 4, 12, 30, 0⟩ = none ∧ posField .pal25 ⟨0, 0, 10, 24, 0⟩ = some (27400, false) := by decide

/-- IDENTIFY with tag 5: the request's frame and its reply's (11 R185, R195). -/
theorem test_identify_frames :
    frameBytes 0x01 0x05 [] = [0xB7, 2, 1, 5, 0xF8]
      ∧ (after (.identify 5) State.reset).link.replies.flatMap Reply.frames
          = [[0xB7, 9, 0x81, 5, 0, 0, 0, 0x42, 0x4C, 0x38, 1, 0xAA]] := by decide +kernel

/-- The fourth word of 02's first worked example locks at S = 1001 and P = 9,000,300, in PLAY. -/
theorem test_lock_example :
    (after (.wordArrival ⟨1, 0, 0, 3⟩ .forward 1119800 1119900)
        (tracking
          { Tracker.reset with
            state := .acquiring, reference := some ⟨90002, .forward, 1080100⟩, run := 3,
            acqIntervals := [40000, 40100], settings := { TrackSettings.reset with settleSpan := 8 },
            lastArrival := some 1080100 })).tracker
      = { Tracker.reset with
          state := .locked, accepted := some ⟨90003, .forward, 1119900⟩, history := [40000, 40100, 39800],
          speed := 1001, head := 9000300, heading := .forward, cls := .play, settleEnd := some 9001100,
          settings := { TrackSettings.reset with settleSpan := 8 }, lastArrival := some 1119900 } := by decide +kernel

/-- The word timeout of the same example: FREEWHEEL, P = 9,001,100, settled. -/
theorem test_dropout_example :
    (after (.wordTimeout 1440000)
        (tracking
          { locked with
            accepted := some ⟨90007, .forward, 1280000⟩, head := 9000799, settleEnd := some 9001100,
            lastArrival := some 1280000 })).tracker.head = 9001100
      ∧ (after (.wordTimeout 1440000)
          (tracking
            { locked with
              accepted := some ⟨90007, .forward, 1280000⟩, head := 9000799, settleEnd := some 9001100,
              lastArrival := some 1280000 })).tracker.settled = true := by decide +kernel

/-- Period lengths (06 R96) and the bar at e = 59 of 4,800 (06 R111). -/
theorem test_output_values :
    periodLength 3000 = 333 ∧ periodLength 1000 = 1000 ∧ periodLength 300 = 3333 ∧ barEdge 59 0 48 = 23 := by decide

/-- The event points of cue 31, worked by hand from 05 R73: text, streamer, beeps, in, clear, out. -/
theorem test_event_points :
    eventPoints cue31 48
      = [(.textShow, 495200), (.streamerStart, 495200), (.beep 1, 491000), (.beep 2, 494000), (.beep 3, 497000),
          (.lineIn, 500000), (.textClear, 510000), (.lineOut, 510000)] := by decide

/-! ### Every statement's hypotheses are met

Each theorem lists, clause by clause, a state and operands that meet the hypotheses of the statement it is named after. -/

/-- A receiver that has gathered some bytes, the last at counter value 0. -/
def mid (g : List Byte) : State := linked { Link.reset with receiver := .inFrame g 0 }

/-- A reply queue with no room. -/
def fullReplies : List Reply := List.replicate 8 ⟨0x81, 0, [0]⟩

/-- An intake with no room. -/
def fullIntake : List Frame := List.replicate 4 ⟨0x01, 0, []⟩

theorem test_meets_EmptyQueueIsOneMicrosecond : State.reset.pending = [] := by decide

theorem test_meets_LabelsAndCountsAgree :
    2589407 < Rate.drop2997.dayLen
      ∧ ((⟨23, 59, 59, 29⟩ : Label).wellFormed .drop2997 = true ∧ (⟨23, 59, 59, 29⟩ : Label).skipped .drop2997 = false)
      ∧ 258940799 ≤ Rate.drop2997.lastPos := by decide

theorem test_meets_FramesCarryTheirCheck : (List.replicate 240 (0 : Byte)).length ≤ 240 := by decide +kernel

theorem test_meets_FramesSpellTheirCommands :
    (Instr.malformedRequest 0x7F 1 []).wellFormed = true
      ∧ requestFrame (.malformedRequest 0x7F 1 []) = some ⟨0x7F, 1, []⟩
      ∧ ∀ k t p, Instr.malformedRequest 0x7F 1 [] = .malformedRequest k t p → (malformedCause k p).isSome = true := by
  refine ⟨by decide, by decide, ?_⟩
  intro k t p h
  cases h
  decide +kernel

theorem test_meets_FrameBytesReachTheIntake :
    (List.replicate 240 (0 : Byte)).length ≤ 240 ∧ State.reset.link.receiver = .between
      ∧ (linked { Link.reset with intake := List.replicate 3 ⟨1, 0, []⟩ }).link.intake.length < 4 := by decide +kernel

theorem test_meets_ReceiverGathersBytes :
    State.reset.link.receiver = .between ∧ ((0x00 : Byte) ≠ 0xB7 ∧ (0x00 : Byte) ≠ 0xC3 ∧ (0x00 : Byte) ≠ 0xC5)
      ∧ ((mid []).link.receiver = .inFrame [] 0 ∧ elapsed 0 20000 ≤ 20000 ∧ 2 ≤ (242 : Byte).toNat
          ∧ (242 : Byte).toNat ≤ 242)
      ∧ ((mid [2, 1]).link.receiver = .inFrame [2, 1] 0 ∧ [(1 : Byte)].length + 2 ≠ (2 : Byte).toNat + 2) := by decide

/-- IDENTIFY's frame but for its check, at an intake with room, a full intake, and full queues. -/
theorem test_meets_LastByteEndsTheFrame :
    ([] : List Byte).length + 2 = (2 : Byte).toNat ∧ elapsed 0 20000 ≤ 20000
      ∧ ((mid [2, 1, 5]).link.receiver = .inFrame [2, 1, 5] 0 ∧ sumBytes [2, 1, 5, 0xF8] = 0
          ∧ (mid [2, 1, 5]).link.intake.length < 4)
      ∧ (sumBytes [2, 1, 5, 0xF8] = 0 ∧ 4 ≤ fullIntake.length ∧ Link.reset.replies.length < 8)
      ∧ (sumBytes [2, 1, 5, 0xF9] ≠ 0 ∧ Link.reset.replies.length < 8)
      ∧ (8 ≤ fullReplies.length ∧ (sumBytes [2, 1, 5, 0xF8] = 0 → 4 ≤ fullIntake.length)) := by decide

theorem test_meets_BrokenFramesAreDiscarded :
    (∃ d : Byte → State, ∀ cause : Byte,
        d cause =
          { elapseTo 20000 (mid []) with
            link := { (mid []).link with
              receiver := .between,
              replies :=
                if (mid []).link.replies.length < 8 then (mid []).link.replies ++ [⟨0xFF, 0, [14, cause]⟩]
                else (mid []).link.replies } })
      ∧ ((mid []).link.receiver = .inFrame [] 0 ∧ elapsed 0 20000 ≤ 20000
          ∧ ((1 : Byte).toNat < 2 ∨ 242 < (1 : Byte).toNat))
      ∧ 20000 ≤ elapsed 0 20000 ∧ elapsed 0 19999 < 20000 ∧ State.reset.link.receiver = .between
      ∧ (20000 < elapsed 0 20001 ∧ (∃ t : State, (0x41 : Byte) ≠ 0xB7 → (0x41 : Byte) ≠ 0xC3 → (0x41 : Byte) ≠ 0xC5 →
            t = elapseTo 20001 (mid []))
          ∧ (mid []).link.tx = .free
          ∧ { (mid []).link with tx := .sending none [[1]] }.tx = .sending none ([1] :: [])) :=
  ⟨⟨_, fun _ => rfl⟩, by decide, by decide, by decide, by decide, by decide, ⟨_, fun _ _ _ => rfl⟩, by decide, by decide⟩

/-- A lead that comes 20,001 µs late: the frame is discarded with cause 1 and a new one begins. -/
theorem test_late_lead :
    (after (.controlByteReceived 0xB7 20001) (mid [2, 1])).link
      = { Link.reset with receiver := .inFrame [] 20001, replies := [⟨0xFF, 0, [14, 1]⟩] } := by decide

theorem test_meets_HoldAndGoOn :
    State.reset.link.receiver = .between
      ∧ (∀ (p : List Byte) (ps : List (List Byte)), State.reset.link.tx ≠ .sending none (p :: ps))
      ∧ (linked { Link.reset with held := true, tx := .sending none [[1]] }).link.tx = .sending none [[1]] :=
  ⟨by decide, fun _ _ => by simp [State.reset, Link.reset], by decide⟩

theorem test_meets_TransmitterChooses :
    (State.reset.link.tx = .free ∧ State.reset.link.held = false)
      ∧ (linked { Link.reset with replies := [⟨0x81, 0, [0]⟩] }).link.replies = [⟨0x81, 0, [0]⟩]
      ∧ (⟨0x81, 0, [0]⟩ : Reply).frames = [[0xB7, 5, 0x81, 0, 0, 0, 0, 0x7A]]
      ∧ (linked { Link.reset with notices := [⟨0x40, []⟩] }).link.notices = [⟨0x40, []⟩]
      ∧ (State.reset.link.replies = [] ∧ State.reset.link.notices = []) := by decide +kernel

theorem test_meets_TransmitterEndsFrames :
    (linked { Link.reset with tx := .sending (some [1]) [] }).link.tx = .sending (some [1]) []
      ∧ (linked { Link.reset with tx := .sending (some [1]) [[2]] }).link.tx = .sending (some [1]) [[2]] := by decide

/-- A request that can be taken, and two that cannot: no reply room, and another frame ahead. -/
theorem test_meets_HandledRequestIsAnsweredOnce :
    (∀ k t p, Instr.identify 5 = .malformedRequest k t p → (malformedCause k p).isSome = true)
      ∧ requestFrame (.identify 5) = some ⟨1, 5, []⟩ ∧ State.reset.canTake (.identify 5) = true
      ∧ Instr.isRequest (.identify 5) = true
      ∧ (linked { Link.reset with replies := fullReplies }).canTake (.identify 5) = false
      ∧ (linked { Link.reset with intake := fullIntake }).canTake (.identify 5) = false :=
  ⟨fun _ _ _ h => (Instr.noConfusion h), by decide⟩

theorem test_meets_RefusedRequestChangesNothing :
    State.reset.canTake (.stopCycle 1) = true
      ∧ exec (.stopCycle 1) State.reset = .next (after (.stopCycle 1) State.reset)
      ∧ (after (.stopCycle 1) State.reset).link.replies = [] ++ [⟨0xB1, 1, [4]⟩] ∧ isRefusal [4] = true :=
  ⟨by decide, rfl, by decide +kernel, by decide⟩

/-- A kind outside the codes; IDENTIFY's payload with a byte too many and RESTART's taken whole; lengths on both sides of
a table row's bounds, and one that lies between them and fits no reading; an all-keys byte of 2; and the two records that
each say what a cause and a spoilt byte mean. -/
theorem test_meets_MalformedFrameIsAnswered :
    (malformedCause 0x7F [] = some 4 ∧ State.reset.canTake (.malformedRequest 0x7F 0 []) = true)
      ∧ ((Instr.identify 5).wellFormed = true ∧ requestFrame (.identify 5) = some ⟨0x01, 5, []⟩
          ∧ malformedCause 0x01 [0] = some 5 ∧ malformedCause 0x01 [] = none)
      ∧ (malformedCause 0x08 [2] = some 5 ∧ malformedCause 0x08 (List.replicate 5 0) = some 5
          ∧ malformedCause 0x08 (List.replicate 6 0) = none ∧ malformedCause 0x08 (List.replicate 14 2) = some 6
          ∧ malformedCause 0x08 (List.replicate 15 2) = some 5)
      ∧ (malformedCause 0x20 (List.replicate 5 2) = some 5 ∧ malformedCause 0x20 [0, 31, 0, 2] = some 6)
      ∧ (malformedCause 0x21 [2] = some 6 ∧ malformedCause 0x21 [2, 0] = some 5 ∧ malformedCause 0x25 [3, 0, 31, 0] = some 6)
      ∧ (textFits (some [72, 73]) = true
          ∧ malformedCause 0x11
              (wireKeyItem wire31 ++ half 0 ++ wirePosItem (wirePos .pal25 500000) ++ wirePosItem (wirePos .pal25 510000)
                ++ [48, 3, 30, 1] ++ half 32 ++ [2]) = some 6)
      ∧ (∃ answers : List Byte → Byte → Prop, ∀ (p : List Byte) (cause : Byte), answers p cause ↔
          ∀ s : State, s.canTake (.malformedRequest 0x21 0 p) = true →
            exec (.malformedRequest 0x21 0 p) s = .next (s.taken.answered 0xA1 0 [14, cause]))
      ∧ ∃ spoilt : List Byte → List (List Byte) → List Byte → Prop, ∀ h m t, spoilt h m t ↔
          ∀ (n : Nat) (mark b : Byte) (item : List Byte), m[n]? = some (mark :: item) → 1 < b.toNat →
            malformedCause 0x21 (h ++ (m.set n (b :: item)).flatten ++ t) = some 6 :=
  ⟨by decide +kernel, by decide +kernel, by decide +kernel, by decide +kernel, by decide +kernel, by decide +kernel,
    ⟨_, fun _ _ => Iff.rfl⟩, ⟨_, fun _ _ _ => Iff.rfl⟩⟩

theorem test_malformed_answers :
    (after (.malformedRequest 0x21 7 [2]) State.reset).link.replies = [⟨0xA1, 7, [14, 6]⟩]
      ∧ (after (.malformedRequest 0x08 7 [2]) State.reset).link.replies = [⟨0x88, 7, [14, 5]⟩] := by decide +kernel

theorem test_meets_IdentifyNamesThePart : State.reset.canTake (.identify 0) = true := by decide

theorem test_meets_GetStatusReportsTheSnapshot : State.reset.canTake (.getStatus 0) = true ∧ 255 < 256 ∧ 65535 < 65536 := by
  decide

/-- A fault as it may stand in the log. -/
def fault1 : FaultRecord := { kind := .videoLost, position := none, channel := none, key := none, detail := 1 }

/-- A state in the middle of its work: locked in PLAY, a cue loaded, channel 0 with an entry in its schedule, an ARMED
take on track 5, a pass in LOCATING, a fault in slot 0, a frame in the intake. -/
def busy : State :=
  { banked with
    tracker := locked,
    channels :=
      { Channel.reset 0 with schedule := [⟨.lineIn, 500000, ⟨31, none⟩, 500000⟩] } :: (List.range 7).map Channel.reset,
    takes := { Takes.reset with
      entries :=
        [some
            { key := ⟨31, none⟩, opened := false, origin := .host, passNumber := 0, lead := 12, tail := 24,
              winStart := 498800, winEnd := 512400,
              items :=
                [{ track := 5, winStart := 498800, winEnd := 512400, gate := .wait, firstOpen := none,
                   lastClose := none, truncated := false, guarded := false }],
              deadline := some 120000000, disarmAfter := false },
          none, none, none] },
    slots := [⟨⟨31, none⟩, 5, 498800, 512400, .provisional 0⟩],
    log := { records := [], reservations := 1, nextNumber := 1 },
    pass := { PassCtl.reset with
      state := .locating, number := 1, deadline := some 30000000,
      inHand := some
        { mode := .single, first := some ⟨31, none⟩, last := none, target := none, cycles := 0, ordinal := 1,
          record := false, lastFlag := false, playReached := false, startPt := 485000, endPt := some 515000,
          arm := none, result := none, answered := false, recordAtStart := false } },
    faults := { FaultLog.reset with
      slots := some fault1 :: List.replicate 7 none, order := [0], firstPending := some 0 },
    link := { Link.reset with intake := [⟨1, 5, []⟩] } }

theorem test_meets_step : step busy = .next busy.tick := rfl

theorem test_meets_LinkQueuesStayBounded : busy.link.bounded := by
  unfold Link.bounded
  decide

theorem test_meets_FaultLogStaysCoherent : busy.faults.coherent := by
  refine ⟨by decide, by decide, fun i => ?_, by decide⟩
  match i with
  | 0 => decide
  | 1 => decide
  | 2 => decide
  | 3 => decide
  | 4 => decide
  | 5 => decide
  | 6 => decide
  | 7 => decide
  | n + 8 => simp [busy, FaultLog.at]

theorem test_meets_TrackerStaysCoherent : busy.tracker.coherent :=
  ⟨by decide, ⟨by decide, by decide, by decide⟩, by decide, by decide⟩

/-- A channel of `busy` fits: channel 0 holds one entry, the others none. -/
theorem busy_channels_fit : ∀ c ∈ busy.channels, c.fits := by
  intro c hc
  simp only [busy, List.range, List.range.loop, List.map_cons, List.map_nil, List.mem_cons, List.not_mem_nil,
    or_false] at hc
  rcases hc with rfl | rfl | rfl | rfl | rfl | rfl | rfl | rfl
  · exact ⟨by decide, List.pairwise_singleton _ _, List.nodup_nil⟩
  all_goals exact ⟨by decide, List.Pairwise.nil, List.nodup_nil⟩

theorem test_meets_BanksStayOrdered : busy.table.ordered := by
  refine ⟨⟨by decide, by decide, ?_⟩, by decide, by decide, ?_⟩ <;> exact List.pairwise_singleton _ _

theorem test_meets_SchedulesStayWithin48 : busy.table.ordered ∧ busy.schedulesFit :=
  ⟨test_meets_BanksStayOrdered, by decide, busy_channels_fit⟩

theorem test_meets_TakesAndLogStayCoherent :
    busy.booked ∧ busy.takes.coherent ∧ busy.log.numbered ∧ busy.slotsAgree := by
  refine ⟨⟨by decide, by decide, by decide⟩, ⟨by decide, by decide, by decide, fun k h => ?_, by decide⟩,
    ⟨by decide, by decide, by decide, by simp [busy], by simp [busy], by decide, List.Pairwise.nil⟩,
    by decide, List.pairwise_singleton _ _, ?_⟩
  · simp [busy, Takes.reset] at h
  · intro y hy i hi
    simp only [busy, List.mem_singleton] at hy
    subst hy
    cases hi
    exact ⟨_, rfl, by decide, by decide⟩

theorem test_meets_PassStaysCoherent : busy.pass.coherent := by
  unfold PassCtl.coherent
  decide

/-- A fault log with every slot occupied. -/
def fullLog (overflow : Bool) : FaultLog :=
  { slots := List.replicate 8 (some fault1), order := List.range 8, firstPending := some 0, overflow, owed := false }

/-- A log with its flag set, an empty log, one with a record, a full one; a masked kind, room, and a full queue. -/
theorem test_meets_FaultsAndNoticesAreKeptOrLost :
    (fullLog true).overflow = true
      ∧ (FaultLog.reset.overflow = false ∧ FaultLog.reset.slots[0]? = some none ∧ FaultLog.reset.order = [])
      ∧ (busy.faults.overflow = false ∧ busy.faults.slots[1]? = some none ∧ busy.faults.slots[0]? ≠ some none
          ∧ busy.faults.order ≠ [])
      ∧ ((fullLog false).overflow = false ∧ none ∉ (fullLog false).slots)
      ∧ State.reset.link.mask.allows (Notice.relocate 0 1).kind = true
      ∧ State.reset.link.mask.allows (Notice.motion .still 0 0).kind = false
      ∧ State.reset.link.notices.length < 32
      ∧ (32 ≤ (List.replicate 32 (⟨0x40, []⟩ : NoticeFrame)).length)
      ∧ ((fullLog true).record fault1).2 = none ∧ (FaultLog.reset.record fault1).2 = some .first
      ∧ ((fullLog false).record fault1).2 = some .overflow := by decide

theorem test_meets_FaultSlotsAreReadAndCleared :
    State.reset.canTake (.readFaults 0) = true ∧ (State.reset.canTake (.clearFault 0 8) = true ∧ 7 < (8 : Byte).toNat)
      ∧ (State.reset.canTake (.clearFault 0 7) = true ∧ (7 : Byte).toNat ≤ 7 ∧ State.reset.faults.at 7 = none)
      ∧ ({ busy with link := Link.reset }.canTake (.clearFault 0 0) = true
          ∧ (busy.faults.at (0 : Byte).toNat).isSome = true) := by decide

theorem test_meets_OverflowIsClearedAndReturns :
    ({ State.reset with faults := fullLog true }.canTake (.clearOverflow 0) = true ∧ (fullLog true).overflow = true)
      ∧ (State.reset.canTake (.clearOverflow 0) = true ∧ State.reset.faults.overflow = false)
      ∧ ((fullLog true).slots.length = 8 ∧ none ∉ (fullLog true).slots) := by decide

/-- A byte of 2; a request that enables nothing; FAULT enabled with a notice owed, for an empty log and a full one. -/
theorem test_meets_SetNoticesReplacesTheMask :
    State.reset.canTake (.setNotices 0 ⟨2, 0, 0, 0, 0, 0, 0, 0, 0, 1⟩) = true
      ∧ (∃ b ∈ maskPayload ⟨2, 0, 0, 0, 0, 0, 0, 0, 0, 1⟩, 1 < b.toNat)
      ∧ (∀ b ∈ maskPayload ⟨1, 0, 0, 0, 0, 0, 0, 0, 0, 1⟩, b.toNat ≤ 1)
      ∧ State.reset.link.mask.fault = true
      ∧ { NoticeMask.reset with fault := false }.fault = false
      ∧ ({ FaultLog.reset with owed := true }.owed = true ∧ { FaultLog.reset with owed := true }.order = []
          ∧ { FaultLog.reset with owed := true }.overflow = false)
      ∧ (fullLog true).order ≠ [] := by decide

/-- A word begun one microsecond before power-on and one begun with it; invalid words, the first and the eighth; a valid
one. -/
theorem test_meets_WordsReachTheTracker :
    (∃ reader : Nat → Reader, ∀ run : Nat,
        reader run =
          { invalidRun := run, sinceCut := min (State.reset.reader.sinceCut + elapsed State.reset.counter 500) 4294967296 })
      ∧ (State.reset.reader.sinceCut + elapsed State.reset.counter 500 < (501 : Stamp).toNat
          ∧ (500 : Stamp).toNat ≤ State.reset.reader.sinceCut + elapsed State.reset.counter 500)
      ∧ (readWord .pal25 0 ⟨24, 0, 0, 0⟩ = none ∧ State.reset.reader.invalidRun + 1 < 8 ∧ 8 ≤ 7 + 1)
      ∧ (readWord State.reset.rate State.reset.tracker.settings.offset ⟨1, 0, 0, 0⟩ = some 90000) :=
  ⟨⟨_, fun _ => rfl⟩, by decide, by decide, by decide⟩

theorem test_meets_ConsecutiveWordsLock :
    Tracker.reset.state = .silent ∧ 2 ≤ Tracker.reset.settings.lockCount
      ∧ [(0 : Stamp), 40000, 80000].length < Tracker.reset.settings.lockCount
      ∧ [(0 : Stamp), 40000, 80000, 120000].length = Tracker.reset.settings.lockCount
      ∧ [(0 : Stamp), 40000, 80000, 120000] ≠ []
      ∧ ∃ run : (Nat → Sense × Nat) → Tracker × TrackEvent, ∀ w : Nat → Sense × Nat,
          run w =
            [(0 : Stamp), 40000, 80000, 120000].zipIdx.foldl
              (fun (acc : Tracker × TrackEvent) x =>
                acc.1.takeWord .pal25 { a := (w x.2).2, sense := (w x.2).1, stamp := x.1 })
              (Tracker.reset, TrackEvent.none) :=
  ⟨by decide, by decide, by decide, by decide, by decide, _, fun _ => rfl⟩

/-- Reverse words down to frame 0; ACQUIRING with and without a reference word, an inconsistent word, and a word of the
other direction below the lock count and at it. -/
theorem test_meets_ConsecutiveWordsLock_acquiring :
    [(0 : Stamp), 40000, 80000, 120000].length ≤ 3 + 1
      ∧ (∃ seen : Tracker → Tracker, ∀ x, seen x = { x with lastArrival := some 40000, timeoutFrom := none })
      ∧ ({ Tracker.reset with state := .acquiring }.state = .acquiring
          ∧ { Tracker.reset with state := .acquiring }.reference = none)
      ∧ ({ Tracker.reset with state := .acquiring, reference := some ⟨1000, .forward, 0⟩, run := 3 }.reference
            = some ⟨1000, .forward, 0⟩
          ∧ (⟨1002, .forward, 40000⟩ : Word).consistent 1000 = false
          ∧ (⟨999, .reverse, 40000⟩ : Word).consistent 1000 = true
          ∧ (⟨999, .reverse, 40000⟩ : Word).sense ≠ (⟨1000, .forward, 0⟩ : Word).sense
          ∧ 2 + 1 < Tracker.reset.settings.lockCount ∧ Tracker.reset.settings.lockCount ≤ 3 + 1) :=
  ⟨by decide, ⟨_, fun _ => rfl⟩, by decide, by decide⟩

/-- Four reverse words one frame apart lock on the last (02 R19, R20). -/
theorem test_reverse_lock :
    ([(0 : Stamp), 40000, 80000, 120000].zipIdx.foldl
        (fun (acc : Tracker × TrackEvent) x =>
          acc.1.takeWord .pal25 { a := 3 - x.2, sense := .reverse, stamp := x.1 })
        (Tracker.reset, TrackEvent.none)).1.head = 0
      ∧ ([(0 : Stamp), 40000, 80000, 120000].zipIdx.foldl
          (fun (acc : Tracker × TrackEvent) x =>
            acc.1.takeWord .pal25 { a := 3 - x.2, sense := .reverse, stamp := x.1 })
          (Tracker.reset, TrackEvent.none)).2 = .lock := by decide

/-- The words of each clause, from a tracker locked on frame 1000, freewheeling or parked there. -/
theorem test_meets_WordsMoveTheTracker :
    (∃ seen : Tracker → Tracker, ∀ x, seen x = { x with lastArrival := some 40000, timeoutFrom := none })
      ∧ (locked.state = .locked ∧ locked.accepted = some ⟨1000, .forward, 0⟩ ∧ locked.candidate = none)
      ∧ ((⟨1001, .forward, 40000⟩ : Word).heading = locked.heading
          ∧ (⟨1001, .forward, 40000⟩ : Word).oneBeyond 1000 = true)
      ∧ ((⟨1000, .forward, 40000⟩ : Word).heading = locked.heading ∧ locked.repeatRun = 0
          ∧ 1 ≤ { locked with repeatRun := 1 }.repeatRun)
      ∧ ((⟨1000, .reverse, 40000⟩ : Word).heading ≠ locked.heading
          ∧ (⟨999, .reverse, 40000⟩ : Word).oneBeyond 1000 = true)
      ∧ ((1002 : Nat) ≠ 1000 ∧ (⟨1002, .forward, 40000⟩ : Word).oneBeyond 1000 = false)
      ∧ ((⟨1002, .forward, 40000⟩ : Word).heading = locked.heading
          ∧ (⟨1002, .forward, 40000⟩ : Word).twoBeyond 1000 = true)
      ∧ ({ locked with candidate := some ⟨1500, .forward, 20000⟩ }.candidate = some ⟨1500, .forward, 20000⟩
          ∧ (⟨1501, .forward, 40000⟩ : Word).twoBeyond 1000 = false
          ∧ (⟨1501, .forward, 40000⟩ : Word).oneBeyond 1000 = false
          ∧ (⟨1501, .forward, 40000⟩ : Word).consistent 1500 = true
          ∧ (⟨1502, .forward, 40000⟩ : Word).consistent 1500 = false)
      ∧ ({ locked with state := .freewheel }.state = .freewheel ∧ frameOf locked.head ≤ 998 + 2
          ∧ 1002 ≤ frameOf locked.head + 2 ∧ ¬ 1003 ≤ frameOf locked.head + 2)
      ∧ (locked.toParked.state = .parked ∧ locked.toParked.lastArrival = some 0
          ∧ (1000 : Nat) = frameOf locked.toParked.head
          ∧ (⟨1001, .forward, 40000⟩ : Word).oneBeyond (frameOf locked.toParked.head) = true
          ∧ (1002 : Nat) ≠ frameOf locked.toParked.head
          ∧ (⟨1002, .forward, 40000⟩ : Word).oneBeyond (frameOf locked.toParked.head) = false) :=
  ⟨⟨_, fun _ => rfl⟩, by decide⟩

/-- What a word reads as: a label, one out of range, a skipped one, and a sum one frame outside the day and inside it (01
R8, R9). -/
theorem test_meets_WordsReachTheTracker_labels :
    readWord .pal25 0 ⟨23, 59, 59, 25⟩ = none ∧ readWord .drop2997 0 ⟨0, 1, 0, 1⟩ = none
      ∧ readWord .drop2997 0 ⟨0, 1, 0, 2⟩ = some 1800
      ∧ readWord .pal25 (-1) ⟨0, 0, 0, 0⟩ = none ∧ readWord .pal25 (-1) ⟨0, 0, 0, 1⟩ = some 0
      ∧ readWord .pal25 1 ⟨23, 59, 59, 24⟩ = none ∧ readWord .pal25 1 ⟨23, 59, 59, 23⟩ = some 2159999 := by decide

/-- The speed with no interval, from R25's example, from an interval of 0 and at the ends of its range; a history of three
intervals and of four. -/
theorem test_meets_WordsMoveTheTracker_speed :
    speedOf .pal25 7 [] = 7 ∧ speedOf .pal25 0 [40000, 40100, 39800] = 1001 ∧ speedOf .pal25 0 [0] = 4000
      ∧ speedOf .pal25 0 [1000000] = 250
      ∧ (pushInterval 4 [1, 2, 3] = [1, 2, 3, 4] ∧ pushInterval 5 [1, 2, 3, 4] = [2, 3, 4, 5]) := by decide

/-- The kinds of the reports of a change. -/
def kinds (t0 t1 : Tracker) (ev : TrackEvent) : List ReportKind := (concludeChange .pal25 t0 t1 ev).2.map Report.kind

/-- A lock whose step is 501 subframes forward has its relocate too and no advance, one of 500 has the advance; so with a
relocate, whatever its sign; a jump of neither is a relocate (02 R24, R27). -/
theorem test_jumps :
    kinds { Tracker.reset with head := 99499 } locked .lock
        = [.lock, .relocate 99499 100000, .classChange .none .play]
      ∧ kinds { Tracker.reset with head := 99500 } locked .lock
          = [.lock, .classChange .none .play, .advance 99500 100000 true]
      ∧ kinds locked { locked with head := 100501 } .relocate = [.relocate 100000 100501]
      ∧ kinds locked { locked with head := 90000 } .relocate
          = [.relocate 100000 90000, .advance 100000 90000 true]
      ∧ kinds locked { locked with head := 100501 } .none = [.relocate 100000 100501] := by decide

/-- A change into PLAY, one within PLAY unsettled and settled, and one out of it; a step of 501 is a jump. -/
theorem test_meets_ChangesAreReportedInOrder :
    ((concludeChange .pal25 Tracker.reset locked .lock).1.cls = .play ∧ Tracker.reset.cls ≠ .play)
      ∧ ((concludeChange .pal25 locked { locked with head := 101200 } .none).1.cls = .play ∧ locked.cls = .play
          ∧ locked.settled = false ∧ locked.settleEnd = some 101200
          ∧ decide (100700 + 500 < 101200) = false)
      ∧ (concludeChange .pal25 { locked with settled := true } { locked with settled := true } .none).1.cls = .play
      ∧ (concludeChange .pal25 locked locked.toParked .none).1.cls ≠ .play
      ∧ decide (100000 + 500 < 100501) = true := by decide

/-- Nothing due; the timeout at 160,000 µs in ACQUIRING and LOCKED, short of the limit and at it; P at its place and
behind it; the limit position. -/
theorem test_meets_TrackerTimersActWhenDue :
    State.reset.tracker.timeoutDue State.reset.rate 0 = false
      ∧ ({ locked with state := .acquiring }.timeoutDue .pal25 160000 = true
          ∧ { locked with state := .acquiring }.state = .acquiring)
      ∧ (locked.timeoutDue .pal25 160000 = true ∧ advOf .pal25 0 locked.speed 160000 < locked.settings.freewheelLimit * 100)
      ∧ locked.settings.freewheelLimit * 100 ≤ advOf .pal25 0 locked.speed 400000
      ∧ locked.toParked.timeoutDue .pal25 160000 = true
      ∧ (headAt .pal25 1000 .forward (min (advOf .pal25 0 1000 0) 99) = locked.head
          ∧ headAt .pal25 1000 .forward (min (advOf .pal25 0 1000 400) 99) ≠ locked.head)
      ∧ ({ locked with state := .freewheel }.state = .freewheel
          ∧ headAt .pal25 1000 .forward (advOf .pal25 0 1000 399999) ≠ locked.head
          ∧ advOf .pal25 0 1000 399999 < locked.settings.freewheelLimit * 100)
      ∧ (headAt .pal25 1000 .forward (locked.settings.freewheelLimit * 100) ≤ 100999 + 1
          ∧ 100999 ≤ headAt .pal25 1000 .forward (locked.settings.freewheelLimit * 100) + 1
          ∧ 100998 + 1 < headAt .pal25 1000 .forward (locked.settings.freewheelLimit * 100))
      ∧ (tracking locked).tracker.state = .locked
      ∧ (Tracker.reset.state ≠ .locked ∧ Tracker.reset.state ≠ .freewheel ∧ Tracker.reset.state ≠ .acquiring) := by
  decide

/-- A state in FREEWHEEL with adv past 5 frames. -/
def wheeling : State := { tracking { locked with state := .freewheel } with counter := 200000 }

/-- A read; values at and beyond the ends of each range; a changed offset in LOCKED and in SILENT; the limit's condition,
met by a limit lowered to adv in FREEWHEEL and by no other. -/
theorem test_meets_SetTrackingReplacesAndActs :
    State.reset.canTake (.setTracking 0 ⟨none, none, none, none, none, none⟩) = true
      ∧ (((0xF6 : Byte).toInt = -10 ∧ (10 : Byte).toInt = 10 ∧ (0xF5 : Byte).toInt < -10 ∧ 10 < (11 : Byte).toInt)
          ∧ ((1 : Byte).toNat < 2 ∧ 16 < (17 : Byte).toNat ∧ 50 < (51 : Byte).toNat ∧ 48 < (49 : Byte).toNat)
          ∧ ((499 : Half).toNat < 500 ∧ 1000 < (1001 : Half).toNat ∧ (999 : Half).toNat < 1000
            ∧ 2000 < (2001 : Half).toNat))
      ∧ ((tracking locked).canTake (.setTracking 0 ⟨some 1, none, none, none, none, none⟩) = true
          ∧ max (-10) (min (1 : Byte).toInt 10) ≠ locked.settings.offset ∧ locked.state ≠ .silent
          ∧ Tracker.reset.state = .silent)
      ∧ (wheeling.canTake (.setTracking 0 ⟨none, none, some 5, none, none, none⟩) = true
          ∧ ∃ (w : Word) (b : Byte), wheeling.tracker.state = .freewheel ∧ wheeling.tracker.accepted = some w
              ∧ (⟨none, none, some 5, none, none, none⟩ : TrackingItems).freewheelLimit = some b
              ∧ min b.toNat 50 ≠ wheeling.tracker.settings.freewheelLimit
              ∧ min b.toNat 50 * 100 ≤ advOf wheeling.rate w.stamp wheeling.tracker.speed wheeling.counter)
      ∧ ¬ ∃ (w : Word) (b : Byte), (tracking locked).tracker.state = .freewheel ∧ (tracking locked).tracker.accepted = some w
          ∧ (⟨some 1, none, none, none, none, none⟩ : TrackingItems).freewheelLimit = some b :=
  ⟨by decide, by decide, by decide,
    ⟨by decide, ⟨1000, .forward, 0⟩, 5, by decide, by decide, by decide, by decide, by decide⟩,
    fun ⟨_, _, h, _⟩ => absurd h (by decide)⟩

/-- A lock count out of range alone: 16 is kept, every other setting stays, and the reply is ADJUSTED (02 R36). -/
theorem test_set_tracking_clamps :
    (after (.setTracking 0 ⟨none, some 200, none, none, none, none⟩) (tracking locked)).tracker
        = { locked with settings := { locked.settings with lockCount := 16 } }
      ∧ (after (.setTracking 0 ⟨none, some 200, none, none, none, none⟩) (tracking locked)).link.replies.map
          (fun r => r.body.head?) = [some 1] := by decide +kernel

/-- Channel 7 with a burst at 0, a burst with time left, a period that is over and one that is not, and an idle unit. -/
theorem test_meets_ToneTimersAct :
    120 * 1000 ≤ (Channel.reset 7).settings.beepLength * 1000
      ∧ (elapseTo 1000 State.reset).channels[7]? = some (Channel.reset 7) ∧ (Channel.reset 7).tone.state = .idle
      ∧ ({ Tone.idle with state := .burst }.state = .burst ∧ { Tone.idle with state := .burst }.remaining = 0)
      ∧ { Tone.idle with state := .burst, remaining := 1 }.remaining ≠ 0
      ∧ (1000000 / 1000 ≤ elapsed 0 1000 ∧ elapsed 0 999 < 1000000 / 1000) := by decide

/-- A fired event of cue 31. -/
def fired (kind : EventKind) : FiredEvent :=
  ⟨kind, ⟨31, none⟩, true, 500000, some ⟨500000, 510000, 48, true, some [72, 73], 48⟩⟩

/-- Each event in each mode: a BEEP on an idle, a sounding and a held unit; a LINE_IN of the last holder, of one of two,
and of none; an event of another kind; a changed tone mode; a unit at level 0 and above. -/
theorem test_meets_ToneTimersAct_events :
    ((fired (.beep 1)).kind = .beep 1 ∧ (Channel.reset 0).settings.steady = false
        ∧ { (Channel.reset 0).settings with steady := true }.steady = true
        ∧ Tone.idle.state = .idle ∧ { Tone.idle with state := .burst }.state = .burst
        ∧ { Tone.idle with state := .held }.state = .held)
      ∧ ((fired .lineIn).kind = .lineIn
          ∧ ((fired .lineIn).key ∈ [(⟨31, none⟩ : Key)]
            ∧ ([(⟨31, none⟩ : Key)].filter fun k => decide (k ≠ (fired .lineIn).key)) = [])
          ∧ ((fired .lineIn).key ∈ [(⟨31, none⟩ : Key), ⟨32, none⟩]
            ∧ ([(⟨31, none⟩ : Key), ⟨32, none⟩].filter fun k => decide (k ≠ (fired .lineIn).key)) ≠ [])
          ∧ (fired .lineIn).key ∉ [(⟨32, none⟩ : Key)])
      ∧ (∀ k : Nat, (fired .lineOut).kind ≠ .beep k) ∧ (fired .lineOut).kind ≠ .lineIn
      ∧ (∃ x, (Channel.reset 0).changeSettings (State.reset.channelEnv 0) 0
            { (Channel.reset 0).settings with steady := true } = x)
      ∧ ((Channel.reset 0).settings.steady ≠ { (Channel.reset 0).settings with steady := true }.steady
          ∧ { Tone.idle with state := .held, period := some ⟨1000, 0⟩ }.period = some ⟨1000, 0⟩
          ∧ (Channel.reset 0).settings.level ≠ 0 ∧ { (Channel.reset 0).settings with level := 0 }.level = 0) :=
  ⟨by decide, by decide, fun k h => by simp [fired] at h, by decide, ⟨_, rfl⟩, by decide⟩

/-- Two BEEPs hold a STEADY tone for two cues; the first LINE_IN leaves it and the second ends it (06 R98). -/
theorem test_steady_holders :
    ((Tone.idle.take { (Channel.reset 0).settings with steady := true } 0 (fired (.beep 1))).take
        { (Channel.reset 0).settings with steady := true } 5 { fired (.beep 1) with key := ⟨32, none⟩ }).holders
        = [⟨31, none⟩, ⟨32, none⟩]
      ∧ (Tone.idle.take { (Channel.reset 0).settings with steady := true } 0 (fired (.beep 1))).take
          { (Channel.reset 0).settings with steady := true } 5 (fired .lineIn) = Tone.idle := by decide

theorem test_meets_VideoEventsDrawAndClear :
    (State.reset.video.ahead = false ∧ { State.reset.video with ahead := true }.ahead = true ∧ State.reset.video.lastStart = 0)
      ∧ ({ State.reset.video with present := true }.present = true ∧ 100000 ≤ elapsed 0 100000)
      ∧ (State.reset.video.present = false ∧ elapsed 0 99999 < 100000)
      ∧ ((fired .streamerStart).copy = some ⟨500000, 510000, 48, true, some [72, 73], 48⟩
          ∧ (fired .streamerStart).kind = .streamerStart ∧ (fired .lineIn).kind = .lineIn
          ∧ (fired .textShow).kind = .textShow ∧ (fired .textClear).kind = .textClear
          ∧ (fired .lineOut).kind = .lineOut ∧ (fired (.beep 4)).kind = .beep 4)
      ∧ (0 ≤ 7 ∧ 7 ≤ 7) := by decide

/-- Lane 7's text strip ends at line 1079; punch white, code 7 orange (06 R105; 04 R70). -/
theorem test_colours :
    colourAt [.punch 7, .text 7 (colourOf 7) [72]] 1079 31 = some .orange
      ∧ colourAt [.punch 7, .text 7 (colourOf 7) [72]] 1079 32 = some .white
      ∧ colourAt [.punch 7, .text 7 (colourOf 7) [72]] 1080 31 = none := by decide

theorem test_meets_BarSweepsTheLane :
    0 < 48 ∧ (100 : Nat) ≤ 100 ∧ 100 + 48 * 100 ≤ 4900 ∧ (135 * 7 ≤ 945 ∧ 1052 < 135 * 7 + 108)
      ∧ ([944, 945, 1052, 1053].map fun line => (DrawItem.bar 7 .white 1896).covers line 1919)
          = [false, true, true, false]
      ∧ ([1895, 1896, 1919, 1920].map fun pixel => (DrawItem.bar 7 .white 1896).covers 945 pixel)
          = [false, true, true, false]
      ∧ { Overlay.clear with streamer := some ⟨0, 48, ⟨31, none⟩⟩ }.streamer = some ⟨0, 48, ⟨31, none⟩⟩ := by decide

/-- The first event and a later one, of each kind; a whole cue at a count of 47. -/
theorem test_meets_LampCountsFollowEvents :
    (48 ≤ 48 ∧ (⟨.lineIn, ⟨31, none⟩, true, 0, none⟩ : FiredEvent).kind = .lineIn
        ∧ (⟨.lineOut, ⟨31, none⟩, false, 0, none⟩ : FiredEvent).kind = .lineOut
        ∧ (⟨.textShow, ⟨31, none⟩, true, 0, none⟩ : FiredEvent).kind ≠ .lineIn
        ∧ (⟨.textShow, ⟨31, none⟩, true, 0, none⟩ : FiredEvent).kind ≠ .lineOut)
      ∧ 47 < 48 := by decide

/-- Numbers below, at, within, at and above a range; each request taken, with the window kept and changed. -/
theorem test_meets_NumberSettingsAreClamped :
    (50 ≤ 900 ∧ 49 < 50 ∧ ¬ 50 < 50 ∧ ¬ 900 < 900 ∧ 900 < 901)
      ∧ State.reset.canTake (.setSchedule 0 none) = true
      ∧ (clampField 50 900 State.reset.window none).1 = State.reset.window
      ∧ (State.reset.canTake (.setSchedule 0 (some 901)) = true
          ∧ clampField 50 900 State.reset.window (some 901) = (900, true) ∧ 900 ≠ State.reset.window)
      ∧ State.reset.canTake (.setTakeTiming 0 ⟨none, some 101, none⟩) = true
      ∧ State.reset.canTake (.setPassTiming 0 ⟨some 1501, none, none⟩) = true := by decide

/-- A position on the wire in a notice; MOTION with a class and of NONE; each kind of notice that names a channel or a key, one
that names neither, and a PASS notice with no key (10 R178, R179). -/
theorem test_meets_FaultsAndNoticesAreKeptOrLost_items :
    (∃ pos : Nat → List Byte, ∀ a : Nat, pos a = wirePosItem (wirePos .pal25 a))
      ∧ ((MotionClass.still ≠ .none)
          ∧ (Notice.motion .play 100000 1000).build .pal25 = ⟨0x41, [2, 1, 0, 0, 0x28, 0, 0, 0x03, 0xE8]⟩
          ∧ (Notice.motion .none 100000 0).build .pal25 = ⟨0x41, [0, 0, 0, 0]⟩)
      ∧ ((Notice.line 3 ⟨31, none⟩ false 0 0).lostChannel = some 3 ∧ (Notice.line 3 ⟨31, none⟩ false 0 0).lostKey = some ⟨31, none⟩
          ∧ (Notice.cuePassed 7 ⟨9999, some 25⟩ .settle 0).lostChannel = some 7
          ∧ (Notice.take 1 ⟨1, none⟩ .complete 0 .host 0 false).lostChannel = none
          ∧ (Notice.take 1 ⟨1, none⟩ .complete 0 .host 0 false).lostKey = some ⟨1, none⟩
          ∧ (Notice.armLapsed 3 ⟨1, none⟩ .pass .time).lostKey = some ⟨1, none⟩)
      ∧ ((Notice.lock 0 .still).kind = .lock ∧ (Notice.motion .still 0 0).kind = .motion
          ∧ (Notice.relocate 0 1).kind = .relocate ∧ (Notice.bankCancelled .a .pal25 0).kind = .bank
          ∧ (FaultLog.reset.notice .owed).kind = .fault)
      ∧ (FaultLog.reset.firstPending = none
          ∧ busy.faults.firstPending = some 0 ∧ busy.faults.slots[0]? = some (some fault1)
          ∧ (FaultLog.reset.slots[7]? = some none)) := by
  exact ⟨⟨_, fun _ => rfl⟩, by decide, by decide, by decide, by decide⟩

/-- A SET_CHANNEL with every field absent. -/
def noChange : ChannelItems := ⟨none, none, none, none, none, none, none, none, none, none⟩

/-- Channel 8; a flag of 2; a good request; settings that enable, disable, rebuild, and change the level alone. -/
theorem test_meets_SetChannelReplacesAndRederives :
    (State.reset.canTake (.setChannel 0 8 noChange) = true ∧ State.reset.channels[(8 : Byte).toNat]? = none)
      ∧ (State.reset.canTake (.setChannel 0 7 { noChange with enabled := some 2 }) = true
          ∧ State.reset.channels[(7 : Byte).toNat]? = some (Channel.reset 7)
          ∧ (Channel.reset 7).settings.update { noChange with enabled := some 2 } = none)
      ∧ ((Channel.reset 7).settings.update { noChange with enabled := some 1 }).isSome = true
      ∧ ((Channel.reset 7).settings.enabled = false ∧ { (Channel.reset 7).settings with enabled := true }.enabled = true)
      ∧ { (Channel.reset 7).settings with enabled := true }.rederives
          { (Channel.reset 7).settings with enabled := true, textLead := 49 } = true
      ∧ { (Channel.reset 7).settings with enabled := true }.rederives
          { (Channel.reset 7).settings with enabled := true, level := 9 } = false := by decide

/-- A SET_CHANNEL with each number at an end of its range, and one with each just outside (04 R65). -/
theorem test_meets_SetChannelReplacesAndRederives_fields :
    ((Channel.reset 7).settings.update ⟨some 1, some 5, some 7, some 250, some 0, some 7, some 0, some 300, some 15, some 400⟩)
        = some
            (⟨true, 5, 7, 250, 0, 7, false, 300, 15, 400⟩, false)
      ∧ ((Channel.reset 7).settings.update
            ⟨none, none, none, some 251, some 8, some 8, some 1, some 3001, some 16, some 19⟩)
          = some (⟨false, 0, 0, 250, 7, 7, true, 3000, 15, 20⟩, true)
      ∧ (Channel.reset 7).settings.update { noChange with toneMode := some 2 } = none
      ∧ { noChange with level := some 16 }.level = some 16 ∧ 15 < (16 : Byte).toNat := by decide

/-- An enabled channel with cue 31 QUEUED at 500,000, cue 32 ACTIVE, cue 33 WAITING and cue 34 DONE. -/
def playing : Channel :=
  { Channel.reset 0 with
    settings := { (Channel.reset 0).settings with enabled := true },
    map :=
      [⟨⟨31, none⟩, .queued, some ⟨500000, 510000, 48, true, none, 48⟩⟩,
        ⟨⟨32, none⟩, .active, some ⟨400000, 600000, 48, true, none, 48⟩⟩, ⟨⟨33, none⟩, .waiting, none⟩,
        ⟨⟨34, none⟩, .done, none⟩],
    schedule := [⟨.lineIn, 500000, ⟨31, none⟩, 500000⟩, ⟨.lineOut, 600000, ⟨32, none⟩, 600000⟩] }

/-- A channel's view of a bank with cues 31 to 34, of in points 500,000, 400,000, 500,000 and 700,000. -/
def playEnv : ChannelEnv :=
  { no := 0,
    cues :=
      [{ cue31 with key := ⟨32, none⟩, inPt := 400000, outPt := 600000 }, cue31, { cue31 with key := ⟨33, none⟩ },
        { cue31 with key := ⟨34, none⟩, inPt := 700000, outPt := 710000 }],
    window := 300, present := true, now := 0, rate := .pal25 }

/-- A longer text lead keeps the ACTIVE cue 32 with its entry, gives the others a fresh status, and drops and makes anew the
rest; enabling classifies by E against P = 450,000 (04 R66, R68). -/
theorem test_meets_SetChannelReplacesAndRederives_rebuilds :
    (∃ toned : Channel → Channel, ∀ u : Channel, toned u = { u with tone := if true = true then u.tone else Tone.idle })
      ∧ ((playing.changeSettings playEnv 450000 { playing.settings with textLead := 49 }).2 = 1
          ∧ (playing.changeSettings playEnv 450000 { playing.settings with textLead := 49 }).1.1.map.map
              (fun m => (m.key.num, m.status))
              = [(32, .active), (31, .waiting), (33, .waiting), (34, .waiting)]
          ∧ (playing.changeSettings playEnv 450000 { playing.settings with textLead := 49 }).1.1.schedule
              = [⟨.lineOut, 600000, ⟨32, none⟩, 600000⟩])
      ∧ ((Channel.reset 0).changeSettings playEnv 450000 playing.settings).1.1.map.map (fun m => (m.key.num, m.status))
          = [(32, .passed .skipped), (31, .waiting), (33, .waiting), (34, .waiting)] :=
  ⟨⟨_, fun _ => rfl⟩, by decide +kernel, by decide +kernel⟩

/-- An entry of a map at which each clause applies, at P = 500,000 or beside it, and one at which it does not. -/
theorem test_meets_SettledAdvanceFiresCrossedEntries :
    (playing.settings.enabled = true ∧ (Channel.reset 0).settings.enabled = false)
      ∧ ((∃ c : (MapEntry → Prop) → CueStatus → List MapEntry → Prop, ∀ hit st map, c hit st map ↔
            map.length = playing.map.length
              ∧ ∀ (i : Nat) (m : MapEntry), playing.map[i]? = some m →
                  (hit m → map[i]? = some { m with status := st, copy := none }) ∧ (¬ hit m → map[i]? = some m))
          ∧ (∃ l : (MapEntry → Prop) → List Entry → Prop, ∀ hit schedule, l hit schedule ↔
            schedule.Sublist playing.schedule
              ∧ ∀ e ∈ playing.schedule, (e ∈ schedule ↔ ∀ m ∈ playing.map, hit m → m.key ≠ e.key))
          ∧ ∃ f : PassReason → List Key → List Emit, ∀ r keys, f r keys =
              keys.map fun k => .notice (.cuePassed playEnv.no k r 500000))
      ∧ ((playing.entryOf ⟨31, none⟩).map MapEntry.status = some .queued
          ∧ (playing.entryOf ⟨32, none⟩).map MapEntry.status = some .active
          ∧ playing.acceptsKey playEnv.cues ⟨32, none⟩ = true ∧ playing.acceptsKey [] ⟨32, none⟩ = false
          ∧ playing.schedule = ⟨.lineIn, 500000, ⟨31, none⟩, 500000⟩ :: [⟨.lineOut, 600000, ⟨32, none⟩, 600000⟩]
          ∧ 500000 ≤ 500000 ∧ ∀ e ∈ playing.schedule, 499999 < e.point)
      ∧ ((playing.map.map MapEntry.key).Nodup
          ∧ (playing.map[2]?.map MapEntry.key) = some ⟨33, none⟩
          ∧ (findCue playEnv.cues ⟨33, none⟩).map (fun q => earliestPoint q playing.settings.textLead) = some 491000
          ∧ ∀ e ∈ playing.schedule, e.key ≠ (⟨33, none⟩ : Key))
      ∧ ((findCue playEnv.cues ⟨33, none⟩).map Cue.outPt = some 510000 ∧ 510000 ≤ 510000)
      ∧ ((findCue playEnv.cues ⟨34, none⟩).map (fun q => earliestPoint q playing.settings.textLead) = some 691000
          ∧ 500000 < 691000)
      ∧ ({ locked with settled := true }.snap.cls = .play ∧ { locked with settled := true }.snap.settled = true
          ∧ locked.snap.settled = false ∧ stopped.snap.cls ≠ .play ∧ 499999 < 500000 ∧ 500000 ≤ 500000) :=
  ⟨by decide, ⟨⟨_, fun _ _ _ => Iff.rfl⟩, ⟨_, fun _ _ => Iff.rfl⟩, ⟨_, fun _ _ => rfl⟩⟩, by decide, by decide +kernel,
    by decide, by decide +kernel, by decide⟩

/-- An expansion pass at P = 470,000 with a window of three seconds takes cue 33 alone, its eight entries after those of the
schedule; with a schedule of 41 entries it takes none, and with 40 it takes it (05 R72, R74, R76). -/
theorem test_meets_SettledAdvanceFiresCrossedEntries_expansion :
    (∃ due : Cue → Prop, ∀ q : Cue, due q ↔
        findCue playEnv.cues q.key = some q ∧ (∃ m ∈ playing.map, m.key = q.key ∧ m.status = .waiting)
          ∧ earliestPoint q playing.settings.textLead ≤ 470000 + playEnv.window * 100 ∧ 470000 < q.outPt)
      ∧ ((playing.expand playEnv 470000).map.map MapEntry.status = [.queued, .active, .queued, .done]
          ∧ (playing.expand playEnv 470000).schedule.length = 10
          ∧ ((playing.expand playEnv 470000).schedule.take 3).map (fun e => (e.kind, e.point))
              = [(.beep 1, 491000), (.beep 2, 494000), (.textShow, 495200)])
      ∧ ({ playing with schedule := List.replicate 41 ⟨.lineOut, 600000, ⟨32, none⟩, 600000⟩ }.expand playEnv 470000).map
          = playing.map
      ∧ ({ playing with schedule := List.replicate 40 ⟨.lineOut, 600000, ⟨32, none⟩, 600000⟩ }.expand
            playEnv 470000).schedule.length = 48
      ∧ ((⟨.beep 1, 500000, ⟨31, none⟩, 500000⟩ : Entry).before ⟨.beep 2, 500000, ⟨31, none⟩, 500000⟩ = true
          ∧ (⟨.lineOut, 500000, ⟨9, none⟩, 400000⟩ : Entry).before ⟨.lineIn, 500000, ⟨1, none⟩, 500000⟩ = true
          ∧ (⟨31, none⟩ : Key).before ⟨31, some 0⟩ = true ∧ (⟨31, some 25⟩ : Key).before ⟨32, none⟩ = true)
      ∧ ({ cue31 with text := none, streamer := 0, beeps := 0 }.text = none
          ∧ eventPoints { cue31 with text := none, streamer := 0, beeps := 0 } 48
              = [(.lineIn, 500000), (.lineOut, 510000)]) :=
  ⟨⟨_, fun _ => Iff.rfl⟩, by decide +kernel, by decide +kernel, by decide +kernel, by decide, by decide⟩

/-- PLAY just before P = 500,000 with the streamer of key 31 set, the word of frame 5,000 to come and a frame start at its
instant, which the arbiter's choice puts among its reports. -/
def meeting (choices : List (List Block)) : State :=
  { tracking
      { locked with accepted := some ⟨4999, .forward, 0⟩, head := 499999, settled := true, settleEnd := some 100 } with
    channels :=
      [{ playing with overlay := { Overlay.clear with streamer := some ⟨495200, 48, ⟨31, none⟩⟩ } }],
    arbiter := choices, pending := [.videoFrameStart 40000] }

/-- The word of frame 5,000. -/
def word5000 : Instr := .wordArrival ⟨0, 3, 20, 0⟩ .forward 30000 40000

/-- 06's example: a frame start taken ahead of the LINE_IN at P = 500,000 draws the bar at x = 1,896 and leaves the two
punch frames; without it nothing is drawn yet. Its own command then does nothing more (06 R113). -/
theorem test_frame_meets_line_in :
    (after word5000 (meeting [[.overlay]])).video.drawing = [.bar 0 .white 1896]
      ∧ (after word5000 (meeting [[.overlay]])).channels.map (fun c => (c.overlay.punch, c.overlay.streamer))
          = [(2, none)]
      ∧ (after (.videoFrameStart 40000) (after word5000 (meeting [[.overlay]]))).video.drawing = [.bar 0 .white 1896]
      ∧ (after word5000 (meeting [])).video.drawing = []
      ∧ ((after word5000 (meeting [])).channels.map fun c => c.overlay.streamer) = [none] := by decide +kernel

/-- A report of a kind, from a locked tracker. -/
def report (k : ReportKind) : Report := { kind := k, snap := locked.snap }

/-- A switch that is pending at the safe point and one that waits; an arbiter with nothing left and with a choice that names
the overlay generator first; a report of each kind; a frame start that meets it, that was taken and that is not there. -/
theorem test_meets_ChangesAreReportedInOrder_delivery :
    (∃ t r, concludeChange State.reset.rate State.reset.tracker locked .lock = (t, r))
      ∧ (State.reset.table.switchPending = false ∧ State.reset.arbiter = []
          ∧ (meeting [[.overlay, .takes]]).arbiter = [.overlay, .takes] :: [])
      ∧ ((report (.classChange .play .still)).kind = .classChange .play .still ∧ (report .lock).kind = .lock
          ∧ (report (.relocate 0 1)).kind = .relocate 0 1 ∧ (report .settle).kind = .settle
          ∧ (report (.advance 0 1 false)).kind = .advance 0 1 false)
      ∧ (∃ d es, playing.takeReport playEnv (report .lock) = (d, es))
      ∧ ({ banked.table with switchPending := true }.switchPending = true ∧ banked.safePoint = true
          ∧ (tracking locked).safePoint = false)
      ∧ ({ meeting [] with counter := 40000 }.pending.head? = some (.videoFrameStart 40000)
          ∧ (meeting []).video.ahead = false ∧ (meeting []).counter ≠ 40000) :=
  ⟨⟨_, _, rfl⟩, by decide, by decide, ⟨_, _, rfl⟩, by decide, by decide⟩

/-- At P = 500,000 the LINE_IN fires: cue 31 becomes ACTIVE and its notice is offered; a stop passes the
ACTIVE cue alone (05 R79, R84). -/
theorem test_firing_and_leaving :
    (playing.fireCrossed playEnv 500000).1.map.map MapEntry.status = [.active, .active, .waiting, .done]
      ∧ (playing.fireCrossed playEnv 500000).2 = [.notice (.line 0 ⟨31, none⟩ false 500000 500000)]
      ∧ (playing.leavePlay playEnv 450000).2 = [.notice (.cuePassed 0 ⟨32, none⟩ .interrupted 450000)] := by
  decide +kernel

/-- Cue banks: a pending switch; rate codes 5 and 6; a staged bank that is empty, and one that holds cue 31. -/
theorem test_meets_StagedBankRequestsAct :
    ({ banked.table with switchPending := true }.switchPending = true
        ∧ banked.canTake (.bankSetup 0 6) = true ∧ banked.canTake (.loadCue 0 wire31 (items31 none)) = true
        ∧ banked.canTake (.dropCue 0 wire31) = true ∧ banked.canTake (.clearBank 0) = true)
      ∧ (banked.table.switchPending = false ∧ 5 < (6 : Byte).toNat ∧ Rate.ntsc30.code = (5 : Byte).toNat)
      ∧ (banked.table.stagedBank.cues ≠ [] ∧ State.reset.table.stagedBank.cues = [])
      ∧ (keyOf ⟨0, 0⟩ = none ∧ keyOf wire31 = some ⟨31, none⟩
          ∧ findCue State.reset.table.stagedBank.cues ⟨31, none⟩ = none
          ∧ findCue banked.table.stagedBank.cues ⟨31, none⟩ = some cue31) := by decide

/-- A key of 10000, points out of order, a full bank without the key, and a good record. -/
theorem test_meets_LoadCueStoresALegalRecord :
    State.reset.canTake (.loadCue 0 wire31 (items31 none)) = true ∧ State.reset.table.switchPending = false
      ∧ keyOf ⟨10000, 0⟩ = none ∧ keyOf wire31 = some ⟨31, none⟩
      ∧ cueOfItems .pal25 ⟨31, none⟩ { items31 none with outPt := wirePos .pal25 500099 } = none
      ∧ (cueOfItems .pal25 ⟨31, none⟩ { items31 none with outPt := wirePos .pal25 500100 }).isSome = true
      ∧ findCue (List.replicate 512 { cue31 with key := ⟨1, none⟩ }) ⟨31, none⟩ = none
      ∧ 512 ≤ (List.replicate 512 cue31).length ∧ banked.table.stagedBank.cues.length < 512 := by decide +kernel

/-- The ends of each range: streamer, beeps, interval, punch, points, texts, keys and labels (01 R10 to R12; 03 R40 to R43). -/
theorem test_meets_LoadCueStoresALegalRecord_ranges :
    (([0, 7, 8, 120, 121] : List Byte).map fun b =>
          (cueOfItems .pal25 ⟨31, none⟩ { items31 none with streamer := b }).map fun x => (x.1.streamer, x.2))
        = [some (0, false), some (8, true), some (8, false), some (120, false), some (120, true)]
      ∧ (([4, 5] : List Byte).map fun b =>
          (cueOfItems .pal25 ⟨31, none⟩ { items31 none with beeps := b }).map fun x => (x.1.beeps, x.2))
        = [some (4, false), some (4, true)]
      ∧ (([5, 6, 50, 51] : List Byte).map fun b =>
          (cueOfItems .pal25 ⟨31, none⟩ { items31 none with interval := b }).map fun x => (x.1.interval, x.2))
        = [some (6, true), some (6, false), some (50, false), some (50, true)]
      ∧ cueOfItems .pal25 ⟨31, none⟩ { items31 none with punch := 2 } = none
      ∧ (cueOfItems .pal25 ⟨31, none⟩ { items31 none with outPt := wirePos .pal25 1100000 }).isSome = true
      ∧ cueOfItems .pal25 ⟨31, none⟩ { items31 none with outPt := wirePos .pal25 1100001 } = none
      ∧ (storeText (some [0x1F, 0x20, 0x7E, 0x7F]) = (some [0x3F, 0x20, 0x7E, 0x3F], true)
          ∧ (storeText (some (List.replicate 96 65))).2 = false ∧ (storeText (some (List.replicate 97 65))).2 = true)
      ∧ (keyOf ⟨0, 0⟩ = none ∧ keyOf ⟨9999, 26⟩ = some ⟨9999, some 25⟩ ∧ keyOf ⟨10000, 0⟩ = none ∧ keyOf ⟨1, 27⟩ = none)
      ∧ (posField .pal25 ⟨0, 0, 0, 25, 0⟩ = none ∧ posField .pal25 ⟨0, 0, 0, 24, 99⟩ = some (2499, false)
          ∧ posField .pal25 ⟨0, 0, 0, 24, 100⟩ = none
          ∧ (⟨0, 1, 0, 1⟩ : Label).wellFormed .drop2997 = true ∧ (⟨0, 1, 0, 1⟩ : Label).skipped .drop2997 = true) := by
  decide +kernel

theorem test_meets_SwitchWaitsForTheSafePoint :
    State.reset.canTake (.switchBank 0) = true ∧ State.reset.canTake (.cancelSwitch 0) = true
      ∧ State.reset.table.switchPending = false ∧ { banked.table with switchPending := true }.switchPending = true
      ∧ (tracking locked).tracker.cls = .play
      ∧ (State.reset.tracker.cls ≠ .play ∧ State.reset.takes.openCount = 0 ∧ State.reset.pass.state = .idle) := by
  decide

/-- A switch between banks of one rate and of two, with an enabled channel. -/
theorem test_meets_SwitchCompletionExchangesTheBanks :
    busy.takes.entries.length = 4 ∧ busy.channels.length = 8
      ∧ (completeSwitch busy).rate = busy.rate
      ∧ (completeSwitch { busy with table := { busy.table with bankB := { cues := [], rate := .film24 } } }).rate
          ≠ busy.rate
      ∧ ((completeSwitch { busy with channels := busy.channels.map fun c =>
            { c with settings := { c.settings with enabled := true } } }).channels[7]?.map
              fun c => c.settings.enabled) = some true
      ∧ (∃ e ∈ busy.takes.inUse, e.opened = false ∧ e.key = ⟨31, none⟩ ∧ ∃ x ∈ e.items, x.track = 5)
      ∧ (⟨⟨31, none⟩, 5, 498800, 512400, .provisional 0⟩ : Slot) ∈ busy.slots
      ∧ (completeSwitch busy).slots = [] := by decide +kernel

/-- The notices of a switch of `busy` to another rate, from PLAY stopped: the arm lapses for BANK, the class goes to NONE, and
the switch is DONE last (03 R54). -/
theorem test_switch_notices :
    (completeSwitch
        { busy with
          tracker := stopped,
          table := { busy.table with bankB := { cues := [], rate := .film24 } },
          link := { Link.reset with mask := { NoticeMask.reset with motion := true } } }).link.notices
      = [(Notice.armLapsed 0 ⟨31, none⟩ .host .bank).build .film24, (Notice.motion .none 100000 0).build .film24,
          (Notice.bankDone .b .film24 0 true).build .film24] := by decide +kernel

/-- A new bank of the same rate and of another; a used-up arbiter and one that names channel 7 first; a class of NONE and
another. -/
theorem test_meets_SwitchCompletionExchangesTheBanks_steps :
    busy.channels.length = 8 ∧ busy.table.stagedBank.rate = busy.rate
      ∧ { busy.table with bankB := { cues := [], rate := .film24 } }.stagedBank.rate ≠ busy.rate
      ∧ (busy.arbiter = [] ∧ { busy with arbiter := [[.channel 7]] }.arbiter = [.channel 7] :: [])
      ∧ (State.reset.tracker.cls = .none ∧ busy.tracker.cls ≠ .none)
      ∧ (State.reset.channels[7]? = some (Channel.reset 7) ∧ (Channel.reset 7).settings.enabled = false
          ∧ playing.settings.enabled = true) := by decide

/-- A channel that is enabled and one that is not; a map with no key twice; a rebuild at P = 450,000, whose notice is that of
the ACTIVE cue 32, and whose map has the cue with E behind P SKIPPED; two ACTIVE cues in key order (05 R78). -/
theorem test_meets_SwitchCompletionExchangesTheBanks_rebuild :
    (busy.channels[0]?.map fun c => c.settings.enabled) = some false
      ∧ (playing.map.map MapEntry.key).Nodup
      ∧ (∃ d es, playing.rebuild playEnv 450000 = (d, es))
      ∧ (playing.rebuild playEnv 450000).2 = [.notice (.cuePassed 0 ⟨32, none⟩ .interrupted 450000)]
      ∧ (playing.rebuild playEnv 450000).1.map.map MapEntry.status = [.passed .skipped, .waiting, .waiting, .waiting]
      ∧ ({ playing with map := [⟨⟨32, some 3⟩, .active, none⟩, ⟨⟨32, none⟩, .active, none⟩] }.rebuild playEnv 450000).2
          = [.notice (.cuePassed 0 ⟨32, none⟩ .interrupted 450000),
              .notice (.cuePassed 0 ⟨32, some 3⟩ .interrupted 450000)] :=
  ⟨by decide, by decide, ⟨_, _, rfl⟩, by decide +kernel, by decide +kernel, by decide +kernel⟩

/-- An edit of the streamer alone. -/
def edit31 : CueEdit := ⟨0, none, none, none, some 8, none, none, none, none, none⟩

/-- A bad key, a good one that is absent or present, an edit of nothing, one that fits and one that does not. -/
theorem test_meets_UpdateCueEditsTheActiveBank :
    banked.canTake (.updateCue 0 wire31 edit31) = true ∧ keyOf ⟨0, 0⟩ = none
      ∧ (keyOf wire31 = some ⟨31, none⟩ ∧ editFields banked.rate edit31 = some ⟨none, none, none⟩)
      ∧ editFields banked.rate { edit31 with extraFlags := 64 } = none
      ∧ (findCue State.reset.cues ⟨31, none⟩ = none ∧ findCue banked.cues ⟨31, none⟩ = some cue31)
      ∧ (editSelectsNothing { edit31 with streamer := none } = true ∧ editSelectsNothing edit31 = false)
      ∧ pointsFit (applyEdit ⟨none, none, none⟩ edit31 cue31).1.inPt (applyEdit ⟨none, none, none⟩ edit31 cue31).1.outPt
          = true
      ∧ pointsFit (applyEdit ⟨none, some (500099, false), none⟩ edit31 cue31).1.inPt
          (applyEdit ⟨none, some (500099, false), none⟩ edit31 cue31).1.outPt = false := by decide

/-- An edit of every field at the ends of its range, one of none, and fields that no edit takes (03 R56). -/
theorem test_meets_UpdateCueEditsTheActiveBank_fields :
    (∃ f, editFields .pal25
        ⟨0, some 9, some (wirePos .pal25 0), some (wirePos .pal25 600000), some 7, some 5, some 51, some 1, some 1,
          some none⟩ = some f
        ∧ applyEdit f
            ⟨0, some 9, some (wirePos .pal25 0), some (wirePos .pal25 600000), some 7, some 5, some 51, some 1, some 1,
              some none⟩ cue31
          = ({ key := ⟨31, none⟩, tag := 9, inPt := 0, outPt := 600000, streamer := 8, beeps := 4, interval := 50,
               punch := true, tracks := 1, text := none }, true))
      ∧ (∃ f, editFields .pal25 edit31 = some f ∧ applyEdit f edit31 cue31 = ({ cue31 with streamer := 8 }, false))
      ∧ editFields .pal25 { edit31 with punch := some 2 } = none
      ∧ editFields .pal25 { edit31 with inPt := some ⟨0, 0, 0, 25, 0⟩ } = none
      ∧ editSelectsNothing ⟨0, none, none, none, none, none, none, none, none, none⟩ = true
      ∧ editSelectsNothing ⟨0, none, none, none, none, none, none, none, none, some none⟩ = false :=
  ⟨⟨_, rfl, by decide⟩, ⟨_, rfl, by decide⟩, by decide, by decide, by decide, by decide⟩

/-- Cue 31 with a tag that a masked filter refuses. -/
def retagged : Cue := { cue31 with tag := 1 }

/-- A channel that accepts tag 0 alone. -/
def picky : Channel := { playing with settings := { playing.settings with filterMask := 1 } }

/-- Each row of R57: an enabled channel and a disabled one; a new tag accepted and not; the key in no map, WAITING or
QUEUED, ACTIVE, and DONE; and an ARMED entry of the cue with its slot, an OPEN one, and one of another cue. -/
theorem test_meets_UpdateCueEditsTheActiveBank_reach :
    ((Channel.reset 0).settings.enabled = false ∧ playing.settings.enabled = true
        ∧ playing.acceptsTag retagged.tag = true ∧ picky.acceptsTag retagged.tag = false
        ∧ picky.acceptsTag cue31.tag = true)
      ∧ ({ playing with map := [] }.entryOf retagged.key = none
          ∧ (playing.entryOf retagged.key).map MapEntry.status = some .queued
          ∧ (playing.entryOf ⟨32, none⟩).map MapEntry.status = some .active
          ∧ (playing.entryOf ⟨34, none⟩).map MapEntry.status = some .done)
      ∧ ((busy.takes.entryAt 0).map (fun e => (e.opened, e.key)) = some (false, cue31.key)
          ∧ (⟨⟨31, none⟩, 5, 498800, 512400, .provisional 0⟩ : Slot).firmness ≠ .firm
          ∧ (findSlot busy.slots ⟨31, none⟩ 5).isSome = true ∧ findSlot busy.slots ⟨31, none⟩ 6 = none)
      ∧ cue31.key ≠ (⟨32, none⟩ : Key) := by decide

/-- A later out point moves the armed take's window end and its slot's (07 R134). -/
theorem test_edit_reaches_arm :
    ((editEntry { cue31 with outPt := 520000 } busy 0).takes.entryAt 0).map TakeEntry.winEnd = some 522400
      ∧ (editEntry { cue31 with outPt := 520000 } busy 0).slots.map Slot.fin = [522400] := by decide +kernel

/-- A take record of number 7. -/
def record7 : TakeRecord :=
  { number := 7, key := ⟨31, none⟩, rate := .pal25, passNumber := 0, status := .complete, winStart := 498800,
    winEnd := 512400, closePos := 512400, disarmAfter := false, tracks := [], collected := false }

/-- A reset state whose log holds record 7. -/
def logged : State := { State.reset with log := { records := [record7], reservations := 0, nextNumber := 8 } }

theorem test_meets_ReadingRequestsReport :
    (banked.canTake (.readCue 0 1 wire31) = true ∧ 1 < (2 : Byte).toNat ∧ keyOf ⟨0, 0⟩ = none
        ∧ keyOf wire31 = some ⟨31, none⟩ ∧ (1 : Byte).toNat ≤ 1
        ∧ findCue State.reset.table.activeBank.cues ⟨31, none⟩ = none
        ∧ findCue banked.table.stagedBank.cues ⟨31, none⟩ = some cue31)
      ∧ (banked.canTake (.listCues 0 0 511) = true ∧ 511 < (512 : Half).toNat ∧ (511 : Half).toNat ≤ 511)
      ∧ (banked.canTake (.cueState 0 wire31) = true ∧ findCue banked.cues ⟨31, none⟩ ≠ none)
      ∧ (logged.canTake (.readTake 0 (.number 7)) = true ∧ (7 : Half) ≠ 0 ∧ logged.log.recordOf 7 = some record7
          ∧ logged.log.recordOf 8 = none ∧ State.reset.canTake (.readTake 0 (.number 0)) = true)
      ∧ (logged.canTake (.readTake 0 .oldestUncollected) = true ∧ logged.log.oldestUncollected = some record7
          ∧ State.reset.log.oldestUncollected = none)
      ∧ banked.canTake (.readSlots 0 wire31) = true := by decide

/-- A channel that is disabled, one without the key, and one with a cue of each status; a QUEUED cue's copy and a WAITING one
without; E of the record and of the held points (05 R94, log 15). -/
theorem test_meets_ReadingRequestsReport_standing :
    (Channel.reset 0).settings.enabled = false
      ∧ (playing.settings.enabled = true ∧ (∀ m ∈ playing.map, m.key ≠ ⟨35, none⟩))
      ∧ (playing.entryOf ⟨33, none⟩ = some ⟨⟨33, none⟩, .waiting, none⟩
          ∧ (findCue playEnv.cues ⟨33, none⟩).map (fun q => earliestPoint q 48) = some 491000
          ∧ playing.entryOf ⟨31, none⟩ = some ⟨⟨31, none⟩, .queued, some ⟨500000, 510000, 48, true, none, 48⟩⟩
          ∧ earliestHeld ⟨31, none⟩ ⟨500000, 510000, 48, true, none, 48⟩ playing.schedule = 495200)
      ∧ standingItem { banked with channels := [playing] } ⟨31, none⟩ 0
          = 1 :: (posItem .pal25 495200 ++ [1, 1, 2])
      ∧ standingItem { banked with channels := [{ playing with map := [⟨⟨31, none⟩, .passed .settle, none⟩] }] } ⟨31, none⟩ 0
          = 4 :: 2 :: (posItem .pal25 491000 ++ [1, 1, 2]) := by decide +kernel

/-- A full armed-take table whose entries hold no track. -/
def elsewhere : Takes :=
  { busy.takes with entries := List.replicate 4 ((busy.takes.entryAt 0).map fun e => { e with items := [] }) }

/-- Each refusal of an arm, and an arm that passes. -/
theorem test_meets_ArmTakeArms :
    banked.canTake (.armTake 0 wire31 none) = true ∧ (keyOf ⟨0, 0⟩ = none ∧ keyOf wire31 = some ⟨31, none⟩)
      ∧ armTest ⟨31, none⟩ none State.reset = .error .unknownKey
      ∧ (findCue banked.cues ⟨31, none⟩ = some cue31 ∧ armTracks cue31 (some 0) = none ∧ armTracks cue31 none = some [5])
      ∧ (findCue busy.cues ⟨31, none⟩ = some cue31 ∧ 5 ∈ busy.takes.heldTracks)
      ∧ (5 ∉ State.reset.takes.heldTracks ∧ none ∈ State.reset.takes.entries)
      ∧ (5 ∉ elsewhere.heldTracks ∧ none ∉ elsewhere.entries)
      ∧ (512 < (List.replicate 512 (⟨⟨1, none⟩, 0, 0, 1, .firm⟩ : Slot)).length
            + slotsNeeded (List.replicate 512 ⟨⟨1, none⟩, 0, 0, 1, .firm⟩) ⟨31, none⟩ [5]
          ∧ 0 + slotsNeeded [] ⟨31, none⟩ [5] ≤ 512)
      ∧ ((⟨List.replicate 256 record7, 0, 8⟩ : TakeLog).isFull = true
          ∧ (⟨List.replicate 256 record7, 0, 8⟩ : TakeLog).collected = 0)
      ∧ armTest ⟨31, none⟩ none banked = .ok (cue31, [5], 0) ∧ banked.log.isFull = false := by decide +kernel

/-- The tracks of an arm: a subset within the cue's set, one that reaches outside it, none of them; a log that is full with its
second record collected; a track with a FIRM slot that cuts its window and one without a slot. -/
theorem test_meets_ArmTakeArms_items :
    (armTracks { cue31 with tracks := 0x8021 } (some 0x8001) = some [0, 15]
        ∧ armTracks { cue31 with tracks := 0x8021 } (some 2) = none ∧ armTracks { cue31 with tracks := 0 } none = none)
      ∧ ((⟨record7 :: { record7 with collected := true } :: List.replicate 254 record7, 0, 8⟩ : TakeLog).isFull = true
          ∧ (⟨record7 :: { record7 with collected := true } :: List.replicate 254 record7, 0, 8⟩ : TakeLog).reserve
              = ⟨record7 :: List.replicate 254 record7, 1, 8⟩)
      ∧ ((armEntry .host cue31 [4, 5] 3 { banked with slots := [⟨⟨31, none⟩, 4, 500000, 512400, .firm⟩] }).slots
            = [⟨⟨31, none⟩, 4, 500000, 512400, .firm⟩, ⟨⟨31, none⟩, 5, 498800, 512400, .provisional 3⟩]
          ∧ ((armEntry .host cue31 [4, 5] 3 { banked with slots := [⟨⟨31, none⟩, 4, 500000, 512400, .firm⟩] }).takes.entryAt
                3).map (fun e => e.items.map fun x => (x.winStart, x.winEnd, x.truncated))
              = some [(500000, 512400, true), (498800, 512400, false)]) := by decide +kernel

/-- The entry of `busy`, OPEN. -/
def opened : State :=
  { busy with
    takes := { busy.takes with
      entries := busy.takes.entries.map (Option.map fun e => { e with opened := true, deadline := none }),
      gateLines := 0x20 } }

/-- The same states with an empty intake, so that a request arrives and is taken at once. -/
def free (s : State) : State := { s with link := Link.reset }

/-- A cue is in use when ACTIVE on a channel, or when an OPEN entry has its key; an ARMED entry is no use (03 R58). -/
theorem test_meets_UpdateCueEditsTheActiveBank_inUse :
    { State.reset with channels := [playing] }.cueInUse ⟨32, none⟩ = true
      ∧ { State.reset with channels := [playing] }.cueInUse ⟨31, none⟩ = false
      ∧ opened.cueInUse ⟨31, none⟩ = true ∧ opened.cueInUse ⟨32, none⟩ = false
      ∧ busy.cueInUse ⟨31, none⟩ = false := by decide

theorem test_meets_EntriesAreFreedAndClosed :
    ((free busy).canTake (.disarm 0 .all) = true ∧ keyOrAll (.key ⟨0, 0⟩) = none ∧ keyOrAll .all = some none
        ∧ State.reset.takes.numbersOf (fun e => !e.opened && wanted none e.key) = []
        ∧ State.reset.takes.numbersOf (fun e => e.opened && wanted none e.key) = []
        ∧ busy.takes.numbersOf (fun e => !e.opened && wanted none e.key) = [0])
      ∧ ((free opened).canTake (.abortTake 0 .all) = true
          ∧ opened.takes.numbersOf (fun e => e.opened && wanted none e.key) = [0])
      ∧ ((busy.takes.entryAt 0).map TakeEntry.opened = some false
          ∧ (busy.takes.entryAt 0).bind TakeEntry.deadline = some 120000000
          ∧ elapsed 120000000 120000000 < 2147483648 ∧ 2147483648 ≤ elapsed 120000000 119999999) := by decide

/-- An ARMED entry of origin HOST and of origin PASS, and an OPEN one, freed by DISARM and by a lapse; two OPEN entries closed
by one abort at take number 65535. -/
theorem test_meets_EntriesAreFreedAndClosed_causes :
    ((busy.takes.entryAt 0).map (fun e => (e.opened, e.origin)) = some (false, .host)
        ∧ (opened.takes.entryAt 0).map TakeEntry.opened = some true
        ∧ ((armEntry .pass cue31 [5] 0 banked).takes.entryAt 0).map (fun e => (e.opened, e.origin)) = some (false, .pass))
      ∧ ((freeArmed .disarm 0 busy).link.notices = []
          ∧ (freeArmed (.lapse .time) 0 busy).link.notices = [(Notice.armLapsed 0 ⟨31, none⟩ .host .time).build .pal25])
      ∧ ((flagEntry opened 0).takes.entryAt 0).map TakeEntry.disarmAfter = some true
      ∧ (abortEntries [0, 1]
            { opened with
              takes := { opened.takes with
                entries :=
                  [opened.takes.entryAt 0, (opened.takes.entryAt 0).map fun e => { e with items := [] }, none, none] },
              log := { records := [], reservations := 2, nextNumber := 65535 } }).2 = [65535, 1] := by decide +kernel

/-- A crossing from one below the window start to it; a window end reached and one that is not; an advance that is a
step 0, one backward, one in PLAY settled and unsettled; a table of four entries with one OPEN and no switch pending. -/
theorem test_meets_EntriesAreFreedAndClosed_reports :
    ((busy.takes.entryAt 0).map (fun e => (e.opened, e.winStart, e.winEnd)) = some (false, 498800, 512400)
        ∧ 498799 < 498800 ∧ 498800 ≤ 498800 ∧ ¬ 498800 < 498800)
      ∧ ((opened.takes.entryAt 0).map (fun e => (e.opened, e.winEnd)) = some (true, 512400)
          ∧ 512400 ≤ 512400 ∧ 512399 < 512400)
      ∧ (locked.snap.cls = .play ∧ locked.snap.settled = false ∧ { locked with settled := true }.snap.settled = true
          ∧ stopped.snap.cls ≠ .play)
      ∧ (opened.takes.entries.length = 4 ∧ opened.table.switchPending = false ∧ opened.takes.openCount = 1
          ∧ (opened.takes.entryAt 0).map TakeEntry.origin = some .host) := by decide

/-- A settled advance across the window start opens the take and its gate; a relocate closes it BROKEN at the P before
it. -/
theorem test_open_and_break :
    (takesReport { kind := .advance 498799 498800 false, snap := { locked with settled := true }.snap } busy).takes.gateLines
        = 0x20
      ∧ (takesReport { kind := .relocate 500000 900000, snap := locked.snap } opened).log.records.map
          (fun r => (r.number, r.status, r.closePos)) = [(1, .broken, 500000)] := by decide +kernel

theorem test_meets_FreedAndClosedEntriesLeaveTheTable :
    (∃ e : TakeEntry, busy.takes.entries[0]? = some (some e))
      ∧ (∃ e : TakeEntry, ∃ y : Slot, opened.takes.entries[0]? = some (some e)
          ∧ findSlot opened.slots e.key 5 = some y ∧ y.firmness ≠ .firm)
      ∧ findSlot (⟨⟨31, none⟩, 5, 498800, 512400, .firm⟩ :: opened.slots) ⟨31, none⟩ 5
          = some ⟨⟨31, none⟩, 5, 498800, 512400, .firm⟩ :=
  ⟨⟨_, rfl⟩, ⟨_, _, rfl, rfl, by decide⟩, by decide⟩

theorem test_meets_RecordsAreCollectedAndSlotsCleared :
    (logged.canTake (.collectTakes 0 0) = true ∧ logged.canTake (.collectTakes 0 7) = true ∧ (7 : Half) ≠ 0
        ∧ logged.log.records = [] ++ record7 :: [] ∧ record7.number = (7 : Half).toNat
        ∧ (∀ r ∈ logged.log.records, r.number ≠ (8 : Half).toNat))
      ∧ ((free busy).canTake (.clearSlots 0 .all) = true ∧ keyOrAll (.key ⟨0, 0⟩) = none
          ∧ keyOrAll .all = some none ∧ (∃ x ∈ busy.slots, wanted none x.key = true ∧ ∃ e ∈ busy.takes.inUse,
            e.key = x.key ∧ ∃ y ∈ e.items, y.track = x.track)
          ∧ (∀ x ∈ State.reset.slots, wanted none x.key = true → ∀ e ∈ State.reset.takes.inUse, e.key = x.key →
            ∀ y ∈ e.items, y.track ≠ x.track)) := by decide +kernel

theorem test_meets_GuardsShutGates :
    (State.reset.canTake (.setGuard 0 8 ⟨none, none, none, none⟩) = true
        ∧ State.reset.takes.guards[(8 : Byte).toNat]? = none)
      ∧ (State.reset.takes.guards[(7 : Byte).toNat]? = some ⟨false, 0, 0, 0⟩
          ∧ (⟨false, 0, 0, 0⟩ : Guard).update .pal25 ⟨some 2, none, none, none⟩ = none
          ∧ (⟨false, 0, 0, 0⟩ : Guard).update .pal25 ⟨some 1, none, none, none⟩ = some (⟨true, 0, 0, 0⟩, false))
      ∧ (opened.takes.entries.length = 4
          ∧ ((evalGates .play 500000 opened).takes.entryAt 0).map TakeEntry.opened = some true) := by decide +kernel

/-- A SET_GUARD with every field, with a label that is moved and with one that is ill-formed (07 R126). -/
theorem test_meets_GuardsShutGates_fields :
    (⟨false, 0, 7, 9⟩ : Guard).update .pal25 ⟨some 1, some 3, some ⟨0, 0, 0, 1, 0⟩, none⟩ = some (⟨true, 3, 100, 9⟩, false)
      ∧ (⟨false, 0, 7, 9⟩ : Guard).update .pal25 ⟨none, none, some ⟨24, 0, 0, 0, 0⟩, none⟩ = none
      ∧ (⟨false, 0, 7, 9⟩ : Guard).update .drop2997 ⟨none, none, none, some ⟨0, 1, 0, 0, 0⟩⟩
          = some (⟨false, 0, 7, 180000⟩, true) := by decide

/-- `opened` evaluated: at the window start its gate opens with first-open P and its slot is FIRM; one before it, nothing; at
the window end an open gate shuts with last-close P; under a guard it stays in WAIT and is GUARDED (07 R123, R124; 08 R147). -/
theorem test_meets_GuardsShutGates_items :
    ((((evalGates .play 498800 opened).takes.entryAt 0).map fun e =>
          e.items.map fun x => (x.gate, x.firstOpen, x.lastClose, x.guarded))
        = some [(.opened, some 498800, none, false)]
      ∧ (evalGates .play 498800 opened).slots.map Slot.firmness = [.firm]
      ∧ (evalGates .play 498800 opened).takes.gateLines = 0x20)
      ∧ ((evalGates .play 498799 opened).takes.entryAt 0 = opened.takes.entryAt 0
          ∧ (evalGates .play 498799 opened).slots = opened.slots)
      ∧ ((((evalGates .play 512400 (evalGates .play 498800 opened)).takes.entryAt 0).map fun e =>
            e.items.map fun x => (x.gate, x.firstOpen, x.lastClose)) = some [(.shut, some 498800, some 512400)])
      ∧ ((((evalGates .play 498800
              { opened with takes := { opened.takes with guards := [⟨true, 0x20, 498800, 498800⟩] } }).takes.entryAt
            0).map fun e => e.items.map fun x => (x.gate, x.firstOpen, x.guarded)) = some [(.wait, none, true)])
      ∧ (∃ shut : TrackItem → Prop, ∀ x : TrackItem, shut x ↔
          ∃ g ∈ opened.takes.guards,
            g.enabled = true ∧ g.tracks.getLsbD x.track = true ∧ g.base ≤ 498800 ∧ 498800 ≤ g.limit) :=
  ⟨by decide +kernel, by decide +kernel, by decide +kernel, by decide +kernel, _, fun _ => Iff.rfl⟩

/-- A queued SINGLE of cue 31. -/
def queued31 : QueuedPass :=
  { mode := .single, first := some ⟨31, none⟩, last := none, target := none, cycles := 0, record := false }

/-- A reset state whose active bank holds cue 31 and, after it in table order, cue 32. -/
def twoCues : State :=
  { State.reset with
    table := { CueTable.reset with
      bankA := { cues := [cue31, { cue31 with key := ⟨32, none⟩, inPt := 505000, outPt := 8639999 }], rate := .pal25 } } }

/-- A pass of cue 31, with the queue flag. -/
def pass31 (mode queue : Byte) : PassItems := ⟨mode, some wire31, none, none, 0, 0, queue⟩

theorem test_meets_PassRequestsAct :
    (banked.canTake (.startPass 0 (pass31 0 0)) = true ∧ passFields banked.rate (pass31 4 0) = none
        ∧ ((passFields banked.rate (pass31 0 0)).map fun q => banked.passRefusal q.pass) = some none
        ∧ ((passFields banked.rate (pass31 2 0)).map fun q => banked.passRefusal q.pass) = some (some .mode)
        ∧ banked.pass.state = .idle)
      ∧ ((free busy).canTake (.startPass 0 (pass31 0 1)) = true ∧ busy.pass.state ≠ .idle ∧ busy.pass.queued = none
          ∧ (passFields busy.rate (pass31 0 1)).map PassRequest.queue = some true
          ∧ (passFields busy.rate (pass31 0 0)).map PassRequest.queue = some false)
      ∧ (State.reset.pass.inHand = none ∧ State.reset.canTake (.stopCycle 0) = true
          ∧ State.reset.canTake (.abandonPass 0) = true)
      ∧ (busy.pass.inHand.isSome = true ∧ (free busy).canTake (.stopCycle 0) = true
          ∧ (free busy).canTake (.abandonPass 0) = true ∧ busy.takes.entries.length = 4) := by decide

/-- The fields of START_PASS at the ends of their ranges; each of R154's tests 2 to 4 met and not met, the earlier ones passed;
and the pass points of a cue in the bank, of two cues and of a target (09 R154, R157). -/
theorem test_meets_PassRequestsAct_tests :
    (passFields .pal25 (pass31 3 0) ≠ none ∧ passFields .pal25 (pass31 4 0) = none
        ∧ passFields .pal25 { pass31 0 0 with last := some ⟨0, 0⟩ } = none
        ∧ passFields .pal25 { pass31 0 0 with target := some ⟨24, 0, 0, 0, 0⟩ } = none
        ∧ passFields .pal25 { pass31 0 0 with record := 2 } = none ∧ passFields .pal25 (pass31 0 2) = none
        ∧ ((passFields .pal25 { pass31 1 1 with cycles := 99, record := 1 }).map fun q =>
            (q.pass.cycles, q.adjusted, q.pass.record, q.queue)) = some (99, false, true, true)
        ∧ ((passFields .pal25 { pass31 1 0 with cycles := 100 }).map fun q => (q.pass.cycles, q.adjusted))
            = some (99, true)
        ∧ ((passFields .pal25 { pass31 0 0 with cycles := 100 }).map fun q => (q.pass.cycles, q.adjusted))
            = some (99, false))
      ∧ (banked.passRefusal queued31 = none
          ∧ banked.passRefusal { queued31 with target := some 0 } = some .mode
          ∧ banked.passRefusal { queued31 with first := some ⟨32, none⟩ } = some .unknownKey
          ∧ banked.passRefusal { queued31 with first := some ⟨32, none⟩, last := some ⟨31, none⟩ } = some .mode
          ∧ twoCues.passRefusal { queued31 with mode := .run, last := some ⟨32, none⟩ } = none
          ∧ twoCues.passRefusal
              { queued31 with mode := .run, first := some ⟨32, none⟩, last := some ⟨31, none⟩ } = some .mode)
      ∧ (findCue twoCues.cues ⟨31, none⟩ = some cue31
          ∧ findCue twoCues.cues ⟨32, none⟩ = some { cue31 with key := ⟨32, none⟩, inPt := 505000, outPt := 8639999 }
          ∧ twoCues.passPoints .run (some ⟨31, none⟩) (some ⟨32, none⟩) none
              = (500000 - twoCues.pass.preroll * 100, some (8639999 + twoCues.pass.postroll * 100))
          ∧ twoCues.passPoints .locate none none (some 77) = (77, none)) := by
  decide +kernel

/-- The pass of `busy`, and each phase's motion: a park two frames off, settled PLAY short of the end point and at it. -/
theorem test_meets_PassPhasesFollowAnswersAndMotion :
    busy.pass.inHand.map PassInHand.arms = some false ∧ busy.pass.inHand.map PassInHand.answered = some false
      ∧ busy.pass.inHand.map PassInHand.mode ≠ some .locate ∧ busy.pass.state = .locating
      ∧ (locked.toParked.snap.state = .parked ∧ frameOf 485000 ≤ frameOf 484800 + 2 ∧ frameOf 485299 ≤ frameOf 485000 + 2)
      ∧ locked.snap.state ≠ .parked
      ∧ { locked with settled := true }.snap.cls = .play
      ∧ busy.pass.inHand.map (fun h => h.atEnd 514999) = some false
      ∧ busy.pass.inHand.map (fun h => h.atEnd 515000) = some true := by decide

/-- The pass of `busy` in hand with some fields set, in a phase. -/
def inPhase (st : PassState) (f : PassInHand → PassInHand) (s : State) : State :=
  { s with pass := { s.pass with state := st, inHand := s.pass.inHand.map f } }

/-- The stamp a timeout runs from, with a changed offset and without; adv and P at their edges; and each of LOCK_LOST's four
cases (02 R18, R26, R30, R37). -/
theorem test_meets_TrackerTimersActWhenDue_values :
    ({ locked with timeoutFrom := some 9 }.timeoutDue .pal25 160008 = false
        ∧ { locked with timeoutFrom := some 9 }.timeoutDue .pal25 160009 = true
        ∧ locked.timeoutDue .pal25 159999 = false ∧ Tracker.reset.timeoutDue .pal25 160000 = false)
      ∧ (elapsed 4294967295 1 = 2 ∧ advOf .pal25 0 1001 20000 = 50
          ∧ headAt .pal25 0 .reverse 1 = 0 ∧ headAt .pal25 2159999 .forward 100 = Rate.pal25.lastPos)
      ∧ ((0 < opened.takes.openCount ∧ opened.pass.state ≠ .rolling)
          ∧ (busy.takes.openCount = 0 ∧ (inPhase .rolling id busy).pass.state = .rolling)
          ∧ (inPhase .rolling id opened).takes.openCount = 1
          ∧ (opened.lockLostDetail, (inPhase .rolling id busy).lockLostDetail, (inPhase .rolling id opened).lockLostDetail)
              = (1, 2, 3)) := by decide

/-- The hypotheses of each further clause: a recording start that arms and one refused; a LOCATE; a park three frames off;
class changes in each phase; a relocate with and without PLAY; a pass arm ARMED; the last cycle and one that goes on; a queued
pass whose key is there, gone, or behind; a request that the pass owns and one that nobody does. -/
theorem test_meets_PassPhasesFollowAnswersAndMotion_more :
    ((queued31.inHand.record = false ∧ { queued31.inHand with record := true }.mode = .single
          ∧ { queued31.inHand with record := true }.first = some ⟨31, none⟩)
        ∧ armTest ⟨31, none⟩ none banked = .ok (cue31, [5], 0) ∧ armTest ⟨31, none⟩ none State.reset = .error .unknownKey)
      ∧ ((inPhase .locating (fun h => { h with answered := true, mode := .locate }) busy).pass.inHand.map
            (fun h => (h.mode, h.answered)) = some (.locate, true)
          ∧ (stopped.snap.state = .parked ∧ frameOf stopped.snap.head + 2 < frameOf 100300))
      ∧ ((inPhase .ending (fun h => { h with answered := true }) busy).pass.state = .ending
          ∧ (inPhase .rollingUp (fun h => { h with playReached := true }) busy).pass.state = .rollingUp
          ∧ (inPhase .rolling id busy).pass.state = .rolling
          ∧ stopped.snap.cls ≠ .play ∧ locked.snap.cls = .play ∧ MotionClass.still ≠ .none
          ∧ MotionClass.still ≠ .play)
      ∧ (busy.takes.entries.length = 4
          ∧ (armEntry .pass cue31 [5] 0 banked).takes.entries[0]?.map (Option.map fun e => (e.opened, e.origin))
              = some (some (false, .pass))
          ∧ (busy.pass.inHand.map (fun h => decide (h.arm = some 0)) = some false)
          ∧ ((inPhase .ending (fun h => { h with arm := some 0 }) busy).pass.inHand.map fun h => decide (h.arm = some 0))
              = some true)
      ∧ ((PassMode.cycle = .cycle ∧ 1 < 2 ∧ 1 < 65535 ∧ ¬ 2 < 2)
          ∧ (State.reset.pass.queued = none ∧ findCue banked.cues ⟨31, none⟩ ≠ none
            ∧ findCue State.reset.cues ⟨31, none⟩ = none
            ∧ indexOfKey ⟨31, none⟩ playEnv.cues ≤ indexOfKey ⟨33, none⟩ playEnv.cues
            ∧ indexOfKey ⟨32, none⟩ playEnv.cues < indexOfKey ⟨31, none⟩ playEnv.cues))
      ∧ (busy.pass.inHand ≠ none ∧ (⟨1, none⟩ : RequestOwner).number = busy.pass.number
          ∧ ({ kind := .stop, text := stopText, owner := none } : TransportRequest).owner = none) := by decide +kernel

/-- A report of each kind in the phases that test it and in ROLLING; a relocate at the end point with PLAY and with another
class; and the last ordinal, of a cycle that goes on with no arm. -/
theorem test_meets_PassPhasesFollowAnswersAndMotion_reports :
    ([ReportKind.lock, .settle, .advance 484999 485000 false, .relocate 400000 485000].all fun k =>
          decide (passReport (report k) (inPhase .rollingUp id busy)
            = phaseTest locked.snap (inPhase .rollingUp id busy)))
      ∧ ([ReportKind.lock, .settle, .advance 514999 515000 false].all fun k =>
          decide (passReport (report k) (inPhase .ending id busy) = phaseTest locked.snap (inPhase .ending id busy)))
      ∧ ([ReportKind.lock, .settle, .advance 514998 514999 false, .relocate 400000 514999].all fun k =>
          decide (passReport (report k) (inPhase .rolling id busy) = inPhase .rolling id busy))
      ∧ (locked.snap.cls = .play ∧ stopped.snap.cls ≠ .play)
      ∧ (busy.pass.inHand.map fun h =>
          let g := { h with mode := .cycle, cycles := 0, ordinal := 65535 }
          (g.arm, g.goesOn, decide (65535 ≤ g.ordinal))) = some (none, true, true) := by decide +kernel

/-- A settle report in ROLLING_UP enters ROLLING (09 R159), and one in ENDING with the class STILL completes the pass
(09 R161). -/
theorem test_settle_moves_the_pass :
    (passReport { kind := .settle, snap := { locked with settled := true }.snap }
        (inPhase .rollingUp (fun h => { h with answered := true }) busy)).pass.state = .rolling
      ∧ (passReport { kind := .settle, snap := stopped.snap }
          (inPhase .ending (fun h => { h with answered := true }) busy)).pass.state = .idle := by decide +kernel

/-- The pass takes a relocate to its end point, and the class change out of PLAY of the same change, before the takes act: the
OPEN take closes BROKEN once, at the P before the relocate (07 R128; 09 R163). -/
theorem test_relocate_closes_at_the_old_place :
    (passReport { kind := .classChange .play .still, snap := stopped.snap }
        (passReport { kind := .relocate 505000 600000, snap := stopped.snap } (inPhase .rolling id opened))).log.records.map
      (fun r => (r.status, r.closePos)) = [(.broken, 505000)] := by decide +kernel

/-- A PASS notice with the class NONE and with another; the arm of an abort, which a close leaves ARMED; and an abort's notices,
the ARM_LAPSED before the PASS (09 R166, R167). -/
theorem test_meets_PassPhasesFollowAnswersAndMotion_notice :
    (State.reset.tracker.cls = .none ∧ busy.tracker.cls ≠ .none)
      ∧ ((closeAllOpen .broken 100000 (inPhase .rolling (fun h => { h with arm := some 0 }) busy)).pass.inHand.map
            PassInHand.arm = some (some 0)
          ∧ ((freeArmed (.lapse .pass) 0 (inPhase .rolling (fun h => { h with arm := some 0 }) busy)).pass.inHand.isSome
              = true))
      ∧ (abortPass .motion none (inPhase .rolling (fun h => { h with arm := some 0 }) busy)).link.notices.map
          NoticeFrame.kind = [0x46, 0x47] := by decide +kernel

/-- A class of NONE in ENDING aborts LOST; a transport stopped in ENDING completes the pass with its arm freed (09 R161,
R163). -/
theorem test_ending :
    (passReport { kind := .classChange .play .none, snap := Tracker.reset.snap }
        (inPhase .ending (fun h => { h with answered := true }) busy)).pass.state = .idle
      ∧ (passReport { kind := .classChange .play .still, snap := stopped.snap }
          (inPhase .ending (fun h => { h with answered := true }) opened)).log.records.map TakeRecord.status
          = [.broken] := by decide +kernel

/-- A request as it stands before and after its carriage return. -/
def stopRequest : TransportRequest := { kind := .stop, text := stopText, owner := none }

theorem test_meets_TransportAndPhaseEventsAct :
    State.reset.transport.line = []
      ∧ ((Transport.reset.launch stopRequest).line = [stopText ++ [0x0D]]
          ∧ (Transport.reset.launch stopRequest).outstanding = some { request := stopRequest, deadline := none })
      ∧ { Transport.reset with line := [stopText, stopText] }.line = stopText :: stopText :: []
      ∧ ((0x0A : Byte) ≠ 0x0D ∧ (0x4F : Byte) ≠ 0x0A ∧ State.reset.transport.gathered.length ≤ 8
          ∧ 9 ≤ (List.replicate 9 (0x4F : Byte)).length)
      ∧ ({ Transport.reset with outstanding := some ⟨stopRequest, some 250000⟩, gathered := [0x4F, 0x4B] }.outstanding
            = some { request := stopRequest, deadline := some 250000 }
          ∧ elapsed 250000 250000 < 2147483648 ∧ 2147483648 ≤ elapsed 250000 249999
          ∧ ([] : List Byte) ≠ [0x4F, 0x4B] ∧ ([] : List Byte) ≠ [0x4E, 0x4F])
      ∧ State.reset.transport.outstanding = none
      ∧ (State.reset.pass.deadline = none ∧ busy.pass.deadline = some 30000000
          ∧ elapsed 30000000 30000000 < 2147483648 ∧ 2147483648 ≤ elapsed 30000000 29999999) := by decide

theorem test_meets_RestartReturnsEveryBlock :
    (free busy).canTake (.restart 0) = true ∧ busy.takes.entries.length = 4 ∧ busy.channels.length = 8 := by decide

/-- An opened state with an enabled channel, notices and a line waiting, and FIRM and provisional slots. -/
def restarting (f : FaultLog) : State :=
  { free opened with
    channels := playing :: (List.range 7).map Channel.reset, faults := f,
    link := { Link.reset with mask := ⟨true, true, true, true, true, true, true, true, true, true⟩,
                              notices := List.replicate 32 ⟨0x40, []⟩ },
    transport := { Transport.reset with line := [stopText] },
    slots := ⟨⟨32, none⟩, 5, 498800, 512400, .firm⟩ :: opened.slots,
    takes := { opened.takes with
      entries := opened.takes.entries.map
        (Option.map fun e => { e with items := e.items.map fun x => { x with gate := .opened } }) } }

/-- The hypotheses of each clause: an entry, an enabled and a disabled channel, a FIRM slot and a provisional one; a fault log
that is empty, holds a record, and has its overflow flag or its owed flag set. -/
theorem test_meets_RestartReturnsEveryBlock_clauses :
    ((restarting busy.faults).canTake (.restart 0) = true ∧ (restarting busy.faults).takes.entries.length = 4
        ∧ (restarting busy.faults).channels.length = 8 ∧ (restarting busy.faults).takes.inUse.length = 1)
      ∧ (restarting busy.faults).channels.map (fun c => c.settings.enabled)
          = [true, false, false, false, false, false, false, false]
      ∧ (FaultLog.reset.order = [] ∧ busy.faults.order ≠ [] ∧ busy.faults.slots[0]? = some (some fault1)
          ∧ (fullLog true).overflow = true ∧ { busy.faults with owed := true }.owed = true)
      ∧ (after (.restart 0) (restarting (fullLog true))).faults = fullLog true
      ∧ (after (.restart 0) (restarting FaultLog.reset)).faults.order = [0, 1, 2, 3]
      ∧ ((after (.restart 0) (restarting busy.faults)).log.records.map fun r => (r.status, r.closePos))
          = [(.broken, 100000)] := by decide +kernel

theorem test_meets_RestartReturnsEveryBlock_coherent : (restarting FaultLog.reset).takes.coherent := by
  refine ⟨by decide, by decide, by decide, fun k h => ?_, by decide⟩
  have hk : k < 16 := BitVec.lt_of_getLsbD h
  revert h
  revert k
  decide

theorem test_meets_EventsKeepSettings :
    Instr.isRequest (.videoFrameStart 0) = false ∧ Instr.videoFrameStart 0 ≠ .powerOn
      ∧ exec (.videoFrameStart 0) State.reset = .next (after (.videoFrameStart 0) State.reset) :=
  ⟨by decide, by decide, rfl⟩

/-! ### The named operations of the statements -/

/-- The class table of R32 at the ends of the cue band 900..1100; a word in SILENT; the RESTART column of R17. -/
theorem test_meets_ChangesAreReportedInOrder_classes :
    (Tracker.reset.classify, { locked with state := .acquiring }.classify, stopped.classify) = (.none, .none, .still)
      ∧ ([899, 900, 1100, 1101].map fun v => { locked with speed := v }.classify) = [.spool, .play, .play, .spool]
      ∧ ([899, 1000].map fun v => { locked with state := .freewheel, heading := .reverse, speed := v }.classify)
          = [.reverse, .reverse]
      ∧ (Tracker.reset.takeWord .pal25 ⟨1000, .reverse, 40000⟩).1.state = .acquiring
      ∧ { locked.toSilent with head := 0 } = Tracker.reset
      ∧ ((1 : Nat) < 2 ∧ (⟨1, .forward, 0⟩ : Word).sense = .forward ∧ (⟨1, .reverse, 0⟩ : Word).sense = .reverse) := by
  decide

/-- A disabled channel, an enabled one and a number past the last; and the statuses of `playing` with their points (05 R73,
R75). -/
theorem test_meets_NumberSettingsAreClamped_expansion :
    (busy.channels[0]?.map (fun c => c.settings.enabled) = some false
        ∧ (restarting FaultLog.reset).channels[0]?.map (fun c => c.settings.enabled) = some true
        ∧ busy.channels.length ≤ 8)
      ∧ (playing.map.map fun m => (outPointOf playEnv m, playing.earliestOf playEnv m))
          = [(some 510000, some 495200), (none, some 395200), (some 510000, some 491000), (none, some 691000)]
      ∧ (playing.acceptsKey playEnv.cues ⟨31, none⟩ = true ∧ playing.acceptsKey playEnv.cues ⟨9, none⟩ = false) := by
  decide +kernel

/-- Both roles of the banks; a key in the second record and one that is absent; a pending switch at the safe point and off
it (03 R39, R45, R53). -/
theorem test_meets_StagedBankRequestsAct_banks :
    (banked.table.active = .a ∧ { banked.table with active := .b }.active = .b)
      ∧ (twoCues.cues = [cue31] ++ { cue31 with key := ⟨32, none⟩, inPt := 505000, outPt := 8639999 } :: []
          ∧ indexOfKey ⟨32, none⟩ twoCues.cues = 1 ∧ findCue twoCues.cues ⟨33, none⟩ = none)
      ∧ (State.reset.safePoint = true ∧ busy.safePoint = false
          ∧ { State.reset.table with switchPending := true }.switchPending = true)
      ∧ ([100, 600000].map fun d => pointsFit 500 (500 + d)) = [true, true]
      ∧ ([99, 600001].map fun d => pointsFit 500 (500 + d)) = [false, false] := by decide +kernel

/-- Records with the collected one first; slots out of track order (08 R145, R149). -/
theorem test_meets_ReadingRequestsReport_order :
    (∃ l : TakeLog, l.records = [{ record7 with collected := true }] ++ { record7 with number := 8 } :: []
        ∧ l.recordOf 8 = some { record7 with number := 8 } ∧ l.oldestUncollected = some { record7 with number := 8 }
        ∧ l.recordOf 9 = none)
      ∧ (sortBy (fun a b : Slot => decide (a.track < b.track))
            [⟨⟨31, none⟩, 7, 0, 1, .firm⟩, ⟨⟨31, none⟩, 2, 0, 1, .firm⟩]).map Slot.track = [2, 7] :=
  ⟨⟨⟨_, 0, 9⟩, rfl, by decide, by decide, by decide⟩, by decide⟩

/-- An arm that no test refuses, in the lowest free entry of a table with entry 0 in use; the last test met with room and with
a full log that holds a collected record (07 R119, R120). -/
theorem test_meets_ArmTakeArms_passes :
    (findCue banked.cues ⟨31, none⟩ = some cue31 ∧ armTracks cue31 none = some [5] ∧ State.reset.log.isFull = false
        ∧ (⟨record7 :: { record7 with collected := true } :: List.replicate 254 record7, 0, 8⟩ : TakeLog).collected ≠ 0)
      ∧ (elsewhere.entries.set 1 none)[1]? = some none ∧ (elsewhere.entries.set 1 none)[0]? ≠ some none
      ∧ armTest ⟨31, none⟩ none { banked with takes := { elsewhere with entries := elsewhere.entries.set 1 none } }
          = .ok (cue31, [5], 1)
      ∧ (slotsNeeded busy.slots ⟨31, none⟩ [5, 6] = 1 ∧ findSlot busy.slots ⟨31, none⟩ 6 = none) := by decide +kernel

/-- A request wanted in IDLE and in WAITING; an answer with a request waiting and with none; a carriage return of nobody's
request; a fault with an owner and with none; and R168's example of a label, "00:05:54:00", and one at the drop rate. -/
theorem test_meets_TransportAndPhaseEventsAct_requests :
    (Transport.reset.outstanding = none ∧ (Transport.reset.launch stopRequest).outstanding ≠ none
        ∧ Transport.reset.waiting = none
        ∧ ((Transport.reset.launch stopRequest).send stopRequest).waiting = some stopRequest)
      ∧ ({ Transport.reset with line := [stopText] }.line = [stopText]
          ∧ { Transport.reset with line := [stopText] }.outstanding = none)
      ∧ (stopRequest.owner = none ∧ stopRequest.kind = .stop
          ∧ { stopRequest with owner := some ⟨1, some ⟨31, none⟩⟩ }.owner = some ⟨1, some ⟨31, none⟩⟩
          ∧ State.reset.tracker.cls = .none ∧ busy.tracker.cls ≠ .none)
      ∧ locLabel .pal25 0 885000 = [0x30, 0x30, 0x3A, 0x30, 0x35, 0x3A, 0x35, 0x34, 0x3A, 0x30, 0x30]
      ∧ (locLabel .drop2997 1 0)[8]? = some 0x3B
      ∧ (∃ two : Nat → List Byte, ∀ v : Nat,
          two v = [BitVec.ofNat 8 (0x30 + v / 10 % 10), BitVec.ofNat 8 (0x30 + v % 10)]) :=
  ⟨by decide, by decide, by decide, by decide, by decide, _, fun _ => rfl⟩

end Sys2Proof.Tests
end

section
/-! Labels, counts and positions (01): the label of a count and the count of a label, at the rates that skip no label and
at the drop rate, and the positions that a label carries. -/

namespace Sys2Proof.Machine

/-! ### Rates that skip no label (01 R4) -/

/-- A label's four ranges, one by one (01 R2). -/
theorem Label.wellFormed_iff (r : Rate) (l : Label) :
    l.wellFormed r = true ↔ l.h ≤ 23 ∧ l.m ≤ 59 ∧ l.s ≤ 59 ∧ l.f < r.base := by
  simp only [Label.wellFormed, Bool.and_eq_true, decide_eq_true_eq, and_assoc]

theorem Rate.isDrop_iff (r : Rate) : r.isDrop = true ↔ r = .drop2997 := by
  cases r <;> decide

theorem Rate.base_le (r : Rate) : r.base ≤ 30 := by
  cases r <;> decide

theorem Rate.dayLen_pos (r : Rate) : 0 < r.dayLen := by
  cases r <;> decide

/-- The day of a rate that skips no label is 86,400 seconds of labels (01 R1). -/
theorem Rate.dayLen_plain {r : Rate} (h : r.isDrop = false) : r.dayLen = 86400 * r.base := by
  cases r with
  | drop2997 => exact absurd h (by decide)
  | _ => rfl

theorem Label.skipped_plain {r : Rate} (h : r.isDrop = false) (l : Label) : l.skipped r = false := by
  simp [Label.skipped, h]

theorem Label.count_plain {r : Rate} (h : r.isDrop = false) (l : Label) :
    l.count r = ((l.h * 60 + l.m) * 60 + l.s) * r.base + l.f := by
  simp [Label.count, h]

theorem Label.ofCount_plain {r : Rate} (h : r.isDrop = false) (a : Nat) :
    Label.ofCount r a =
      { h := a / (r.base * 3600), m := a / (r.base * 60) % 60, s := a / r.base % 60, f := a % r.base } := by
  simp [Label.ofCount, h]

/-- Without skipped labels, the label of a count of the day is well-formed and has that count. -/
theorem Label.count_ofCount_plain {r : Rate} (h : r.isDrop = false) {a : Nat} (ha : a < 86400 * r.base) :
    (Label.ofCount r a).wellFormed r = true ∧ (Label.ofCount r a).count r = a := by
  rw [Label.wellFormed_iff, Label.count_plain h, Label.ofCount_plain h]
  cases r with
  | drop2997 => exact absurd h (by decide)
  | _ => simp only [Rate.base] at *; omega

/-- Without skipped labels, a well-formed label lies in the day and is the label of its count. -/
theorem Label.ofCount_count_plain {r : Rate} (h : r.isDrop = false) {l : Label} (hl : l.wellFormed r = true) :
    l.count r < 86400 * r.base ∧ Label.ofCount r (l.count r) = l := by
  obtain ⟨hh, hm, hs, hf⟩ := (Label.wellFormed_iff r l).mp hl
  rw [Label.count_plain h, Label.ofCount_plain h]
  obtain ⟨lh, lm, ls, lf⟩ := l
  simp only [Label.mk.injEq] at *
  cases r with
  | drop2997 => exact absurd h (by decide)
  | _ => simp only [Rate.base] at *; omega

/-! ### The drop rate (01 R2, R5, R6)

Ten minutes hold 17,982 counts: a minute of 1,800 and nine of 1,798. A count is `17982 * d + 1798 * k + x`, frame `x` of
minute `10 * d + k`, and its label is the one that `18000 * d + 1800 * k + x` has without skipped labels. -/

/-- The label of frame `x` of minute `10 * d + k` (01 R6). -/
theorem Label.ofCount_drop {d k x : Nat} (hk : k ≤ 9) (hx : x < 1800) (h2 : k ≠ 0 → 2 ≤ x) :
    Label.ofCount .drop2997 (17982 * d + 1798 * k + x) = Label.ofCount .nonDrop2997 (18000 * d + 1800 * k + x) := by
  have hd : (17982 * d + 1798 * k + x) / 17982 = d := by omega
  have hm : (17982 * d + 1798 * k + x) % 17982 = 1798 * k + x := by omega
  have hadd : (if 1798 * k + x < 2 then 18 * d else 18 * d + 2 * ((1798 * k + x - 2) / 1798)) = 18 * d + 2 * k := by
    split <;> omega
  have hl : 17982 * d + 1798 * k + x + (18 * d + 2 * k) = 18000 * d + 1800 * k + x := by omega
  rw [Label.ofCount_plain (r := .nonDrop2997) rfl]
  simp only [Label.ofCount, Rate.isDrop, if_true, hd, hm, hadd, hl, Rate.base]

/-- Every count is some frame of some minute that is not skipped there. -/
theorem dropCount_splits (a : Nat) :
    ∃ d k x : Nat, a = 17982 * d + 1798 * k + x ∧ k ≤ 9 ∧ x < 1800 ∧ (k ≠ 0 → 2 ≤ x) := by
  refine ⟨a / 17982, (a % 17982 - 2) / 1798, a % 17982 - 1798 * ((a % 17982 - 2) / 1798), ?_⟩
  omega

/-- The drop count of a label is the count without skips, less two for each minute that is no tenth (01 R5). -/
theorem Label.count_drop (l : Label) :
    l.count .drop2997 =
      l.count .nonDrop2997 - 2 * ((60 * l.h + l.m) - (60 * l.h + l.m) / 10) := by
  rw [Label.count_plain (r := .nonDrop2997) rfl]
  simp only [Label.count, Rate.isDrop, if_true, Rate.base]
  omega

theorem Label.skipped_drop (l : Label) :
    l.skipped .drop2997 = true ↔ l.s = 0 ∧ l.f ≤ 1 ∧ l.m % 10 ≠ 0 := by
  simp only [Label.skipped, Rate.isDrop, Bool.true_and, Bool.and_eq_true, decide_eq_true_eq, and_assoc]

theorem Label.count_ofCount_drop {a : Nat} (ha : a < 2589408) :
    (Label.ofCount .drop2997 a).wellFormed .drop2997 = true ∧ (Label.ofCount .drop2997 a).skipped .drop2997 = false
      ∧ (Label.ofCount .drop2997 a).count .drop2997 = a := by
  obtain ⟨d, k, x, rfl, hk, hx, h2⟩ := dropCount_splits a
  have hb : 18000 * d + 1800 * k + x < 86400 * Rate.base .nonDrop2997 := by simp only [Rate.base]; omega
  obtain ⟨wf, hc⟩ := Label.count_ofCount_plain rfl hb
  rw [Label.ofCount_drop hk hx h2, Label.count_drop, hc, ← Bool.not_eq_true, Label.skipped_drop,
    Label.ofCount_plain (r := .nonDrop2997) rfl]
  refine ⟨by rw [Label.ofCount_plain rfl] at wf; exact wf, ?_⟩
  simp only [Rate.base]
  have hN : 18000 * d + 1800 * k + x = 1800 * (10 * d + k) + x := by omega
  generalize 18000 * d + 1800 * k + x = n at hN
  have minute : 60 * (n / (30 * 3600)) + n / (30 * 60) % 60 = 10 * d + k := by omega
  have tenth : n / (30 * 60) % 60 % 10 = k := by omega
  refine ⟨?_, by rw [minute]; omega⟩
  rintro ⟨hs, hf, hm⟩
  omega

theorem Label.ofCount_count_drop {l : Label} (hl : l.wellFormed .drop2997 = true)
    (hs : l.skipped .drop2997 = false) :
    l.count .drop2997 < 2589408 ∧ Label.ofCount .drop2997 (l.count .drop2997) = l := by
  have hn : l.wellFormed .nonDrop2997 = true := hl
  obtain ⟨hh, hm, hsec, hf⟩ := (Label.wellFormed_iff _ _).mp hl
  rw [← Bool.not_eq_true, Label.skipped_drop] at hs
  have hc : l.count .drop2997 =
      17982 * ((60 * l.h + l.m) / 10) + 1798 * (l.m % 10) + (30 * l.s + l.f) := by
    rw [Label.count_drop, Label.count_plain (r := .nonDrop2997) rfl]
    simp only [Rate.base]
    omega
  have hp : 18000 * ((60 * l.h + l.m) / 10) + 1800 * (l.m % 10) + (30 * l.s + l.f) = l.count .nonDrop2997 := by
    rw [Label.count_plain (r := .nonDrop2997) rfl]
    simp only [Rate.base]
    omega
  simp only [Rate.base] at hf
  refine ⟨by omega, ?_⟩
  rw [hc, Label.ofCount_drop (by omega) (by omega) (by omega), hp]
  exact (Label.ofCount_count_plain rfl hn).2

/-! ### Every rate (01 R4 to R6) -/

theorem Label.count_ofCount (r : Rate) {a : Nat} (ha : a < r.dayLen) :
    (Label.ofCount r a).wellFormed r = true ∧ (Label.ofCount r a).skipped r = false
      ∧ (Label.ofCount r a).count r = a := by
  cases h : r.isDrop with
  | false =>
    rw [Rate.dayLen_plain h] at ha
    obtain ⟨wf, hc⟩ := Label.count_ofCount_plain h ha
    exact ⟨wf, Label.skipped_plain h _, hc⟩
  | true =>
    obtain rfl := (Rate.isDrop_iff r).mp h
    exact Label.count_ofCount_drop ha

theorem Label.ofCount_count (r : Rate) {l : Label} (hl : l.wellFormed r = true) (hs : l.skipped r = false) :
    l.count r < r.dayLen ∧ Label.ofCount r (l.count r) = l := by
  cases h : r.isDrop with
  | false =>
    rw [Rate.dayLen_plain h]
    exact Label.ofCount_count_plain h hl
  | true =>
    obtain rfl := (Rate.isDrop_iff r).mp h
    exact Label.ofCount_count_drop hl hs

/-! ### Positions (01 R10 to R13) -/

/-- A position of the day leaves as the label of its frame (01 R13). -/
theorem labelOfField_wirePos {r : Rate} {p : Nat} (h : p ≤ r.lastPos) :
    labelOfField (wirePos r p) = Label.ofCount r (frameOf p) ∧ (wirePos r p).sub.toNat = p % 100 := by
  have day : frameOf p < r.dayLen := by
    have := r.dayLen_pos
    simp only [Rate.lastPos, frameOf] at *
    omega
  have hmin : min (frameOf p) (r.dayLen - 1) = frameOf p := by omega
  obtain ⟨hh, hm, hs, hf⟩ := (Label.wellFormed_iff _ _).mp (Label.count_ofCount r day).1
  have := r.base_le
  refine ⟨?_, ?_⟩
  · simp only [labelOfField, wirePos, hmin, BitVec.toNat_ofNat]
    rw [Nat.mod_eq_of_lt (by omega), Nat.mod_eq_of_lt (by omega), Nat.mod_eq_of_lt (by omega),
      Nat.mod_eq_of_lt (by omega)]
  · simp only [wirePos, BitVec.toNat_ofNat]
    omega

/-- A position field that is well-formed, in its three parts (01 R10 to R12). -/
theorem posField_of_wellFormed {r : Rate} {w : WirePos} (h : (labelOfField w).wellFormed r = true)
    (hs : w.sub.toNat ≤ 99) :
    posField r w =
      some (((labelOfField w).moveForward r).count r * 100 + w.sub.toNat, (labelOfField w).skipped r) := by
  simp [posField, h, hs]

theorem Label.moveForward_of_not_skipped {r : Rate} {l : Label} (h : l.skipped r = false) : l.moveForward r = l := by
  simp [Label.moveForward, h]

theorem posField_wirePos {r : Rate} {p : Nat} (h : p ≤ r.lastPos) : posField r (wirePos r p) = some (p, false) := by
  obtain ⟨hl, hsub⟩ := labelOfField_wirePos h
  have day : frameOf p < r.dayLen := by
    have := r.dayLen_pos
    simp only [Rate.lastPos, frameOf] at *
    omega
  obtain ⟨wf, ns, hc⟩ := Label.count_ofCount r day
  rw [posField_of_wellFormed (by rw [hl]; exact wf) (by omega), hl, hsub, Label.moveForward_of_not_skipped ns, hc, ns]
  simp only [frameOf, Option.some.injEq, Prod.mk.injEq, and_true]
  omega

/-- Settles O5: both rates' kinds of counting, and the label that a position of the day leaves as. -/
theorem labelsAndCountsAgree : Obligations.LabelsAndCountsAgree :=
  ⟨fun r _ h => Label.count_ofCount r h, fun r _ h hs => Label.ofCount_count r h hs, fun _ _ h => posField_wirePos h⟩

end Sys2Proof.Machine
end

section
/-! Requests as the handler takes them (11 R189), and the snapshot of GET_STATUS (11 R196). -/

namespace Sys2Proof.Machine

/-! ### A request that can be taken -/

/-- A request that can be taken leaves what its performance leaves, with the performance's body in its reply (11 R189). -/
theorem request_answers {i : Instr} {f : Frame} {perform : State → State × List Byte} {s t : State} {body : List Byte}
    (h : requestFrame i = some f) (c : s.canTake i = true) (p : perform s.taken = (t, body)) :
    request i perform s = .next (t.answered (replyKind f.kind) f.tag body) := by
  rw [request_taken perform h c, p]

/-- A request that only reads is answered and changes nothing else (11 R189). -/
theorem request_reads {i : Instr} {f : Frame} (body : State → List Byte) {s : State} (h : requestFrame i = some f)
    (c : s.canTake i = true) :
    request i (fun s => (s, body s)) s
      = .next (s.taken.answered (replyKind f.kind) f.tag (body s.taken)) :=
  request_answers h c rfl

/-! ### Items of a reply (11 R188) -/

theorem b1_toNat {n : Nat} (h : n < 256) : (b1 n).map BitVec.toNat = [n] := by
  simp [b1, Nat.mod_eq_of_lt h]

theorem b2_toNat {n : Nat} (h : n < 65536) : (b2 n).map BitVec.toNat = [n / 256, n % 256] := by
  simp only [b2, List.map_cons, List.map_nil, BitVec.toNat_ofNat, List.cons.injEq, and_true]
  omega

theorem half_toNat (v : Half) : (half v).map BitVec.toNat = [v.toNat / 256, v.toNat % 256] := by
  have := v.isLt
  simp only [half, List.map_cons, List.map_nil, BitVec.extractLsb'_toNat, Nat.shiftRight_eq_div_pow,
    List.cons.injEq, and_true]
  omega

theorem stampBytes_toNat (t : Stamp) :
    (stampBytes t).map BitVec.toNat =
      [t.toNat / 16777216, t.toNat / 65536 % 256, t.toNat / 256 % 256, t.toNat % 256] := by
  have := t.isLt
  simp only [stampBytes, List.map_cons, List.map_nil, BitVec.extractLsb'_toNat, Nat.shiftRight_eq_div_pow,
    List.cons.injEq, and_true, true_and]
  omega

/-! ### The counts of takes (07 R115) -/

theorem Takes.mem_inUse (t : Takes) (e : TakeEntry) : e ∈ t.inUse ↔ some e ∈ t.entries := by
  simp [Takes.inUse]

theorem Takes.armedCount_eq (t : Takes) : t.armedCount = (t.inUse.filter fun e => !e.opened).length :=
  List.countP_eq_length_filter

theorem Takes.openCount_eq (t : Takes) : t.openCount = (t.inUse.filter TakeEntry.opened).length :=
  List.countP_eq_length_filter

/-! ### GET_STATUS -/

/-- Settles O20: the request only reads, and each item's code is read off its definition. -/
theorem getStatusReportsTheSnapshot : Obligations.GetStatusReportsTheSnapshot := by
  refine ⟨fun tag s c => ?_, by decide, fun n t p => ?_, fun t => ?_⟩
  · exact request_reads statusBody rfl c
  · exact ⟨b1_toNat, b2_toNat, stampBytes_toNat t, rfl⟩
  · exact ⟨t.armedCount_eq, t.openCount_eq, t.mem_inUse⟩

end Sys2Proof.Machine
end

section
/-! Timecode words (01 R8, 02 R14, R15): which words are invalid, and what a word does at the reader. -/

namespace Sys2Proof.Machine

/-! ### The count of a word (01 R8) -/

theorem readWord_eq_none_iff (r : Rate) (offset : Int) (w : WordLabel) :
    readWord r offset w = none ↔
      (labelOfWord w).wellFormed r = false ∨ (labelOfWord w).skipped r = true
        ∨ ((labelOfWord w).count r : Int) + offset < 0
        ∨ (r.dayLen : Int) ≤ ((labelOfWord w).count r : Int) + offset := by
  unfold readWord
  cases wf : (labelOfWord w).wellFormed r with
  | false => simp [wf]
  | true =>
    cases sk : (labelOfWord w).skipped r with
    | true => simp [sk]
    | false =>
      simp only [wf, sk, Bool.not_false, Bool.and_self, if_true, ite_eq_right_iff, reduceCtorEq, imp_false,
        not_and, not_lt, Bool.true_eq_false, Bool.false_eq_true, false_or]
      omega

theorem readWord_eq_some {r : Rate} {offset : Int} {w : WordLabel} {a : Nat} (h : readWord r offset w = some a) :
    (a : Int) = ((labelOfWord w).count r : Int) + offset := by
  unfold readWord at h
  dsimp only at h
  split at h
  · split at h
    · cases h
      omega
    · cases h
  · cases h

/-! ### A word at the reader (02 R14, R15) -/

theorem Reader.cuts_iff (took : Stamp) (r : Reader) : r.cuts took = true ↔ r.sinceCut < took.toNat :=
  decide_eq_true_iff

/-- A decoding begun before the cut is one longer than the time since it, which the reader measures up to 2^32. -/
theorem elapseTo_cuts_iff (took stamp : Stamp) (s : State) :
    (elapseTo stamp s).reader.cuts took = true ↔ s.reader.sinceCut + elapsed s.counter stamp < took.toNat := by
  have := took.isLt
  rw [Reader.cuts_iff]
  simp only [elapseTo_reader, Reader.elapse_sinceCut]
  omega

theorem execWordArrival_cut {label : WordLabel} {sense : Sense} {took stamp : Stamp} {s : State}
    (h : s.reader.sinceCut + elapsed s.counter stamp < took.toNat) :
    execWordArrival label sense took stamp s = .next (elapseTo stamp s) :=
  if_pos ((elapseTo_cuts_iff took stamp s).mpr h)

theorem execWordArrival_whole {label : WordLabel} {sense : Sense} {took stamp : Stamp} {s : State}
    (h : took.toNat ≤ s.reader.sinceCut + elapsed s.counter stamp) :
    execWordArrival label sense took stamp s = .next (readerTakes label sense stamp (elapseTo stamp s)) :=
  if_neg (by rw [elapseTo_cuts_iff]; omega)

theorem readerTakes_invalid {label : WordLabel} {sense : Sense} {stamp : Stamp} {s : State}
    (h : readWord s.rate s.tracker.settings.offset label = none) :
    readerTakes label sense stamp s = countInvalid s := by
  simp only [readerTakes, h]

theorem readerTakes_valid {label : WordLabel} {sense : Sense} {stamp : Stamp} {s : State} {a : Nat}
    (h : readWord s.rate s.tracker.settings.offset label = some a) :
    readerTakes label sense stamp s =
      changeTracker (s.tracker.takeWord s.rate { a, sense, stamp }).1 (s.tracker.takeWord s.rate { a, sense, stamp }).2
        false { s with reader := { s.reader with invalidRun := 0 } } := by
  simp only [readerTakes, h]

theorem countInvalid_early {s : State} (h : s.reader.invalidRun + 1 < 8) :
    countInvalid s = { s with reader := { s.reader with invalidRun := s.reader.invalidRun + 1 } } :=
  if_pos h

theorem countInvalid_eighth {s : State} (h : 8 ≤ s.reader.invalidRun + 1) :
    countInvalid s =
      recordFault
        { kind := .tcRateMismatch, position := s.faultPosition, channel := none, key := none, detail := s.rate.code }
        { s with reader := { s.reader with invalidRun := 0 } } :=
  if_neg (by omega)

/-- Settles O27: the four ways of a word at the reader, then the readings of 01 R8. -/
theorem wordsReachTheTracker : Obligations.WordsReachTheTracker := by
  refine ⟨fun label sense took stamp s reader hr => ?_, ?_⟩
  · obtain rfl := funext hr
    refine ⟨fun cut => ⟨execWordArrival_cut cut, rfl⟩, fun whole bad few => ?_, fun whole bad many => ?_,
      fun whole a good t ev ht => ?_⟩
    · exact (execWordArrival_whole whole).trans
        (congrArg _ ((readerTakes_invalid (s := elapseTo stamp s) bad).trans (countInvalid_early few)))
    · exact (execWordArrival_whole whole).trans
        (congrArg _ ((readerTakes_invalid (s := elapseTo stamp s) bad).trans (countInvalid_eighth many)))
    · refine (execWordArrival_whole whole).trans
        (congrArg _ ((readerTakes_valid (s := elapseTo stamp s) good).trans ?_))
      rw [elapseTo_tracker, elapseTo_rate, ht]
      rfl
  · rintro r offset label l rfl
    exact ⟨readWord_eq_none_iff r offset label, fun a h => readWord_eq_some h⟩

end Sys2Proof.Machine
end

section
/-! The tracker's timers (02 R16, R18, R26, R28, R30): when each is due, where P stands, and what each does to the
tracker's record. -/

namespace Sys2Proof.Machine

/-! ### Elapsed time, adv and P (02 R16, R18, R26; 01 R7) -/

theorem elapsed_eq_emod (x now : Stamp) : (elapsed x now : Int) = ((now.toNat : Int) - x.toNat) % 4294967296 := by
  have := x.isLt
  have := now.isLt
  simp only [elapsed, BitVec.toNat_sub]
  omega

theorem Rate.tn_pos (r : Rate) : 0 < r.tn := by
  cases r <;> decide

/-- adv is the quotient of `e·S·100` by Tn, rounded down. -/
theorem advOf_bounds (r : Rate) (x now : Stamp) (speed : Nat) :
    advOf r x speed now * r.tn ≤ elapsed x now * speed * 100
      ∧ elapsed x now * speed * 100 < (advOf r x speed now + 1) * r.tn :=
  ⟨Nat.div_mul_le_self _ _, Nat.lt_mul_of_div_lt (Nat.lt_succ_self _) r.tn_pos⟩

theorem headAt_reverse (r : Rate) (a adv : Nat) :
    (headAt r a .reverse adv : Int) = max 0 (min ((a * 100 : Nat) - (adv : Int)) r.lastPos) := by
  simp only [headAt, clampDay]
  omega

theorem Tracker.timeoutDue_iff (r : Rate) (now : Stamp) (t : Tracker) :
    t.timeoutDue r now = true ↔
      ∃ x : Stamp, (t.timeoutFrom = some x ∨ (t.timeoutFrom = none ∧ t.lastArrival = some x))
        ∧ r.wordTimeout ≤ elapsed x now := by
  unfold Tracker.timeoutDue Tracker.timeoutBase
  cases t.timeoutFrom with
  | some y => simp
  | none => cases t.lastArrival <;> simp

theorem oneToward_cases (p goal : Nat) :
    (p < goal → oneToward p goal = p + 1) ∧ (goal < p → oneToward p goal + 1 = p)
      ∧ (goal = p → oneToward p goal = p) := by
  unfold oneToward
  refine ⟨fun h => if_pos h, fun h => ?_, fun h => ?_⟩
  · rw [if_neg (by omega), if_pos h]
    omega
  · rw [if_neg (by omega), if_neg (by omega)]

@[simp] theorem oneToward_self (p : Nat) : oneToward p p = p := (oneToward_cases p p).2.2 rfl

/-- The step toward a place reaches it exactly when the place is at most one subframe away. -/
theorem oneToward_eq_iff (p goal : Nat) : oneToward p goal = goal ↔ goal ≤ p + 1 ∧ p ≤ goal + 1 := by
  obtain ⟨up, down, stay⟩ := oneToward_cases p goal
  omega

theorem oneToward_ne {p goal : Nat} (h : goal ≠ p) : oneToward p goal ≠ p := by
  obtain ⟨up, down, stay⟩ := oneToward_cases p goal
  omega

/-! ### A timer's change (02 R34, log 2) -/

/-- A timer that changes nothing reports nothing. -/
theorem timerChange_same {t : Tracker} {s : State} (h : t = s.tracker) : timerChange (t, false) s = s :=
  if_pos ⟨h, rfl⟩

/-- A timer that changes the tracker, or parks it, reports the change. -/
theorem timerChange_moved {t : Tracker} {parked : Bool} {s : State} (h : t ≠ s.tracker ∨ parked = true) :
    timerChange (t, parked) s = changeTracker t .none parked s := by
  refine if_neg fun ⟨same, still⟩ => ?_
  rcases h with h | h
  · exact h same
  · exact absurd (h.symm.trans still) (by decide)

theorem Tracker.ne_of_state {t u : Tracker} (h : t.state ≠ u.state) : t ≠ u := fun e => h (by rw [e])

theorem Tracker.ne_of_head {t u : Tracker} (h : t.head ≠ u.head) : t ≠ u := fun e => h (by rw [e])

/-! ### What each timer makes of the tracker -/

theorem Tracker.timeOut_idle {r : Rate} {now : Stamp} {t : Tracker} (h : t.timeoutDue r now = false) :
    t.timeOut r now = (t, false) := by
  simp [Tracker.timeOut, h]

section
variable {r : Rate} {now : Stamp} {t : Tracker} (h : t.timeoutDue r now = true)
include h

theorem Tracker.timeOut_acquiring (st : t.state = .acquiring) : t.timeOut r now = (t.toSilent, false) := by
  simp only [Tracker.timeOut, h, st, if_true]

theorem Tracker.timeOut_locked (st : t.state = .locked) : t.timeOut r now = t.dropOut r now := by
  simp only [Tracker.timeOut, h, st, if_true]

theorem Tracker.timeOut_elsewhere (st : t.state ≠ .acquiring) (st' : t.state ≠ .locked) :
    t.timeOut r now = (t, false) := by
  simp only [Tracker.timeOut, h, if_true]

end

theorem Tracker.limitReached_iff {r : Rate} {now : Stamp} {t : Tracker} {w : Word} (h : t.accepted = some w) :
    t.limitReached r now = true ↔ t.settings.freewheelLimit * 100 ≤ advOf r w.stamp t.speed now := by
  simp [Tracker.limitReached, h]

theorem Tracker.limitReached_early {r : Rate} {now : Stamp} {t : Tracker} {w : Word} (h : t.accepted = some w)
    (lim : advOf r w.stamp t.speed now < t.settings.freewheelLimit * 100) : t.limitReached r now = false :=
  Bool.eq_false_iff.mpr fun late => Nat.not_le.mpr lim ((Tracker.limitReached_iff h).mp late)

theorem Tracker.headNow_locked {r : Rate} {now : Stamp} {t : Tracker} {w : Word} (h : t.accepted = some w)
    (st : t.state = .locked) : t.headNow r now = headAt r w.a t.heading (min (advOf r w.stamp t.speed now) 99) := by
  simp [Tracker.headNow, h, st]

/-- In FREEWHEEL P lies adv beyond the frame until the limit is reached. -/
theorem Tracker.headNow_before {r : Rate} {now : Stamp} {t : Tracker} {w : Word} (h : t.accepted = some w)
    (st : t.state = .freewheel) (lim : advOf r w.stamp t.speed now < t.settings.freewheelLimit * 100) :
    t.headNow r now = headAt r w.a t.heading (advOf r w.stamp t.speed now) := by
  simp only [Tracker.headNow, h, st, Nat.min_eq_left lim.le]

/-- In FREEWHEEL P stands at the limit position once the limit is reached. -/
theorem Tracker.headNow_limit {r : Rate} {now : Stamp} {t : Tracker} {w : Word} (h : t.accepted = some w)
    (st : t.state = .freewheel) (lim : t.settings.freewheelLimit * 100 ≤ advOf r w.stamp t.speed now) :
    t.headNow r now = headAt r w.a t.heading (t.settings.freewheelLimit * 100) := by
  simp only [Tracker.headNow, h, st, Nat.min_eq_right lim]

/-- The record in FREEWHEEL that a dropped-out LOCKED tests against the limit (02 R28). -/
def Tracker.toFreewheel (t : Tracker) : Tracker := { t with state := .freewheel, candidate := none, repeatRun := 0 }

theorem Tracker.dropOut_eq (r : Rate) (now : Stamp) (t : Tracker) :
    t.dropOut r now =
      if t.toFreewheel.limitReached r now then (t.toFreewheel.parkAtLimit r now, true)
      else ({ t.toFreewheel with head := t.toFreewheel.headNow r now }, false) := rfl

/-- LOCKED with the limit ahead goes to FREEWHEEL with P recomputed (02 R28). -/
theorem Tracker.dropOut_freewheel {r : Rate} {now : Stamp} {t : Tracker} {w : Word} (h : t.accepted = some w)
    (lim : advOf r w.stamp t.speed now < t.settings.freewheelLimit * 100) :
    t.dropOut r now =
      ({ t with
          state := .freewheel, candidate := none, repeatRun := 0,
          head := headAt r w.a t.heading (advOf r w.stamp t.speed now) }, false) := by
  have early := Tracker.limitReached_early (t := t.toFreewheel) h lim
  rw [Tracker.dropOut_eq, early, Tracker.headNow_before (t := t.toFreewheel) h rfl lim]
  rfl

/-- LOCKED with the limit reached parks at once (02 R28, R30). -/
theorem Tracker.dropOut_park {r : Rate} {now : Stamp} {t : Tracker} {w : Word} (h : t.accepted = some w)
    (lim : t.settings.freewheelLimit * 100 ≤ advOf r w.stamp t.speed now) :
    t.dropOut r now =
      ({ t with
          state := .parked, candidate := none, repeatRun := 0, heading := .still, speed := 0, history := [],
          head := headAt r w.a t.heading (t.settings.freewheelLimit * 100) }, true) := by
  have late := (Tracker.limitReached_iff (t := t.toFreewheel) h).mpr lim
  rw [Tracker.dropOut_eq, late, Tracker.parkAtLimit, Tracker.headNow_limit (t := t.toFreewheel) h rfl lim]
  rfl

theorem Tracker.advance_locked {r : Rate} {now : Stamp} {t : Tracker} (st : t.state = .locked) :
    t.advance r now = ({ t with head := oneToward t.head (t.headNow r now) }, false) := by
  simp [Tracker.advance, st]

/-- In FREEWHEEL a change of adv moves P one subframe, unless it is the one that reaches the limit position. -/
theorem Tracker.advance_moves {r : Rate} {now : Stamp} {t : Tracker} (st : t.state = .freewheel)
    (h : t.limitReached r now = false ∨ oneToward t.head (t.headNow r now) ≠ t.headNow r now) :
    t.advance r now = ({ t with head := oneToward t.head (t.headNow r now) }, false) := by
  simp only [Tracker.advance, st]
  refine if_neg ?_
  simp only [Bool.and_eq_true, decide_eq_true_eq, not_and]
  rcases h with h | h
  · simp [h]
  · exact fun _ => h

theorem Tracker.advance_parks {r : Rate} {now : Stamp} {t : Tracker} (st : t.state = .freewheel)
    (lim : t.limitReached r now = true) (h : oneToward t.head (t.headNow r now) = t.headNow r now) :
    t.advance r now = (t.parkAtLimit r now, true) := by
  simp only [Tracker.advance, st]
  exact if_pos (by simp [lim, h])

theorem Tracker.advance_idle {r : Rate} {now : Stamp} {t : Tracker} (h : t.state ≠ .locked) (k : t.state ≠ .freewheel) :
    t.advance r now = (t, false) := by
  unfold Tracker.advance
  cases st : t.state with
  | locked => exact absurd st h
  | freewheel => exact absurd st k
  | _ => rfl

theorem Tracker.reachLimit_idle {r : Rate} {now : Stamp} {t : Tracker}
    (h : t.state ≠ .freewheel ∨ t.limitReached r now = false) : t.reachLimit r now = (t, false) := by
  unfold Tracker.reachLimit
  cases st : t.state with
  | freewheel =>
    have lim := h.resolve_left (fun n => n st)
    simp [lim]
  | _ => rfl

theorem Tracker.reachLimit_parks {r : Rate} {now : Stamp} {t : Tracker} (st : t.state = .freewheel)
    (lim : t.limitReached r now = true) : t.reachLimit r now = (t.parkAtLimit r now, true) := by
  simp [Tracker.reachLimit, st, lim]

/-! ### The commands of the timers -/

/-- A timer command moves the counter, then makes its change of the tracker. -/
theorem execWordTimeout_eq {now : Stamp} {s : State} {t : Tracker} {parked : Bool}
    (h : s.tracker.timeOut s.rate now = (t, parked)) :
    exec (.wordTimeout now) s = .next (timerChange (t, parked) (elapseTo now s)) := by
  rw [← h]
  rfl

theorem execPlayHeadAdvance_eq {now : Stamp} {s : State} {t : Tracker} {parked : Bool}
    (h : s.tracker.advance s.rate now = (t, parked)) :
    exec (.playHeadAdvance now) s = .next (timerChange (t, parked) (elapseTo now s)) := by
  rw [← h]
  rfl

theorem execFreewheelLimitReached_eq {now : Stamp} {s : State} {t : Tracker} {parked : Bool}
    (h : s.tracker.reachLimit s.rate now = (t, parked)) :
    exec (.freewheelLimitReached now) s = .next (timerChange (t, parked) (elapseTo now s)) := by
  rw [← h]
  rfl

/-- A timer whose change leaves the tracker as it is moves the counter alone (log 2). -/
theorem timerChange_idle (now : Stamp) (s : State) :
    timerChange (s.tracker, false) (elapseTo now s) = elapseTo now s := timerChange_same rfl

/-- A step of P to where it stands is no change, and any other step is reported. -/
theorem timerChange_step (now : Stamp) (s : State) (goal : Nat) :
    (goal = s.tracker.head →
        timerChange ({ s.tracker with head := oneToward s.tracker.head goal }, false) (elapseTo now s)
          = elapseTo now s)
      ∧ (goal ≠ s.tracker.head →
          timerChange ({ s.tracker with head := oneToward s.tracker.head goal }, false) (elapseTo now s)
            = changeTracker { s.tracker with head := oneToward s.tracker.head goal } .none false (elapseTo now s)) := by
  refine ⟨?_, fun h => timerChange_moved (.inl (Tracker.ne_of_head (oneToward_ne h)))⟩
  rintro rfl
  rw [oneToward_self]
  exact timerChange_same rfl

/-! ### WORD_TIMEOUT when it is due (02 R18, R19, R28) -/

section
variable {now : Stamp} {s : State} (due : s.tracker.timeoutDue s.rate now = true)
include due

theorem execWordTimeout_acquiring (st : s.tracker.state = .acquiring) :
    exec (.wordTimeout now) s = .next (changeTracker s.tracker.toSilent .none false (elapseTo now s)) := by
  rw [execWordTimeout_eq (Tracker.timeOut_acquiring due st),
    timerChange_moved (.inl (Tracker.ne_of_state (by simp [st, Tracker.toSilent])))]

theorem execWordTimeout_freewheels {w : Word} (st : s.tracker.state = .locked) (hw : s.tracker.accepted = some w)
    (lim : advOf s.rate w.stamp s.tracker.speed now < s.tracker.settings.freewheelLimit * 100) :
    exec (.wordTimeout now) s =
      .next
        (changeTracker
          { s.tracker with
            state := .freewheel, candidate := none, repeatRun := 0,
            head := headAt s.rate w.a s.tracker.heading (advOf s.rate w.stamp s.tracker.speed now) }
          .none false (elapseTo now s)) := by
  rw [execWordTimeout_eq ((Tracker.timeOut_locked due st).trans (Tracker.dropOut_freewheel hw lim)),
    timerChange_moved (.inl (Tracker.ne_of_state (by simp [st])))]

theorem execWordTimeout_parks {w : Word} (st : s.tracker.state = .locked) (hw : s.tracker.accepted = some w)
    (lim : s.tracker.settings.freewheelLimit * 100 ≤ advOf s.rate w.stamp s.tracker.speed now) :
    exec (.wordTimeout now) s =
      .next
        (changeTracker
          { s.tracker with
            state := .parked, candidate := none, repeatRun := 0, heading := .still, speed := 0, history := [],
            head := headAt s.rate w.a s.tracker.heading (s.tracker.settings.freewheelLimit * 100) }
          .none true (elapseTo now s)) := by
  rw [execWordTimeout_eq ((Tracker.timeOut_locked due st).trans (Tracker.dropOut_park hw lim)),
    timerChange_moved (.inr rfl)]

theorem execWordTimeout_elsewhere (st : s.tracker.state ≠ .acquiring) (st' : s.tracker.state ≠ .locked) :
    exec (.wordTimeout now) s = .next (elapseTo now s) := by
  rw [execWordTimeout_eq (Tracker.timeOut_elsewhere due st st'), timerChange_idle]

end

/-! ### P in LOCKED and FREEWHEEL (02 R26, R30) -/

/-- PLAY_HEAD_ADVANCE in LOCKED: P goes toward its place within the frame (02 R26). -/
theorem execPlayHeadAdvance_locked {now : Stamp} {s : State} {w : Word} (hw : s.tracker.accepted = some w)
    (st : s.tracker.state = .locked) (goal : Nat)
    (hg : goal = headAt s.rate w.a s.tracker.heading (min (advOf s.rate w.stamp s.tracker.speed now) 99)) :
    (goal = s.tracker.head → exec (.playHeadAdvance now) s = .next (elapseTo now s))
      ∧ (goal ≠ s.tracker.head →
          exec (.playHeadAdvance now) s =
            .next
              (changeTracker { s.tracker with head := oneToward s.tracker.head goal } .none false
                (elapseTo now s))) := by
  have adv := Tracker.advance_locked (r := s.rate) (now := now) st
  rw [Tracker.headNow_locked hw st, ← hg] at adv
  rw [execPlayHeadAdvance_eq adv]
  obtain ⟨same, moved⟩ := timerChange_step now s goal
  exact ⟨fun h => congrArg _ (same h), fun h => congrArg _ (moved h)⟩

/-- Both timers of FREEWHEEL before the limit: P goes toward its place, and nothing parks (02 R26, R30). -/
theorem freewheelTimers_before {now : Stamp} {s : State} {w : Word} (hw : s.tracker.accepted = some w)
    (st : s.tracker.state = .freewheel)
    (lim : advOf s.rate w.stamp s.tracker.speed now < s.tracker.settings.freewheelLimit * 100) (goal : Nat)
    (hg : goal = headAt s.rate w.a s.tracker.heading (advOf s.rate w.stamp s.tracker.speed now)) :
    (goal = s.tracker.head →
        exec (.playHeadAdvance now) s = .next (elapseTo now s)
          ∧ exec (.freewheelLimitReached now) s = .next (elapseTo now s))
      ∧ (goal ≠ s.tracker.head →
          exec (.playHeadAdvance now) s =
              .next
                (changeTracker { s.tracker with head := oneToward s.tracker.head goal } .none false
                  (elapseTo now s))
            ∧ exec (.freewheelLimitReached now) s = .next (elapseTo now s)) := by
  have early := Tracker.limitReached_early (r := s.rate) hw lim
  have adv := Tracker.advance_moves (r := s.rate) (now := now) st (.inl early)
  rw [Tracker.headNow_before hw st lim, ← hg] at adv
  have stays : exec (.freewheelLimitReached now) s = .next (elapseTo now s) := by
    rw [execFreewheelLimitReached_eq (Tracker.reachLimit_idle (.inr early)), timerChange_idle]
  rw [execPlayHeadAdvance_eq adv]
  obtain ⟨same, moved⟩ := timerChange_step now s goal
  exact ⟨fun h => ⟨congrArg _ (same h), stays⟩, fun h => ⟨congrArg _ (moved h), stays⟩⟩

/-- Both timers of FREEWHEEL at the limit: the limit parks at its position, and so does the step of P that reaches it (02
R30; log 8). -/
theorem freewheelTimers_limit {now : Stamp} {s : State} {w : Word} (hw : s.tracker.accepted = some w)
    (st : s.tracker.state = .freewheel)
    (lim : s.tracker.settings.freewheelLimit * 100 ≤ advOf s.rate w.stamp s.tracker.speed now) (goal : Nat)
    (parks : State) (hg : goal = headAt s.rate w.a s.tracker.heading (s.tracker.settings.freewheelLimit * 100))
    (hp : parks =
      changeTracker
        { s.tracker with
          state := .parked, heading := .still, speed := 0, history := [], candidate := none, head := goal }
        .none true (elapseTo now s)) :
    exec (.freewheelLimitReached now) s = .next parks
      ∧ (goal ≤ s.tracker.head + 1 → s.tracker.head ≤ goal + 1 → exec (.playHeadAdvance now) s = .next parks)
      ∧ (s.tracker.head + 1 < goal ∨ goal + 1 < s.tracker.head →
          exec (.playHeadAdvance now) s =
            .next
              (changeTracker { s.tracker with head := oneToward s.tracker.head goal } .none false
                (elapseTo now s))) := by
  have late : s.tracker.limitReached s.rate now = true := (Tracker.limitReached_iff hw).mpr lim
  have place : s.tracker.headNow s.rate now = goal := (Tracker.headNow_limit hw st lim).trans hg.symm
  have parked : timerChange (s.tracker.parkAtLimit s.rate now, true) (elapseTo now s) = parks := by
    rw [timerChange_moved (.inr rfl), hp, Tracker.parkAtLimit, place]
    rfl
  refine ⟨?_, fun above below => ?_, fun far => ?_⟩
  · rw [execFreewheelLimitReached_eq (Tracker.reachLimit_parks st late), parked]
  · have arrives : oneToward s.tracker.head (s.tracker.headNow s.rate now) = s.tracker.headNow s.rate now := by
      rw [place, oneToward_eq_iff]
      exact ⟨above, below⟩
    rw [execPlayHeadAdvance_eq (Tracker.advance_parks st late arrives), parked]
  · have short : oneToward s.tracker.head (s.tracker.headNow s.rate now) ≠ s.tracker.headNow s.rate now := by
      rw [place, Ne, oneToward_eq_iff]
      omega
    have adv := Tracker.advance_moves (r := s.rate) (now := now) st (.inr short)
    rw [place] at adv
    rw [execPlayHeadAdvance_eq adv, (timerChange_step now s goal).2 (by omega)]

/-! ### LOCK_LOST (02 R30) -/

theorem recordLockLost_none {s : State} (h : s.takes.openCount = 0) (k : s.pass.state ≠ .rolling) :
    recordLockLost s = s := by
  simp [recordLockLost, State.lockLostDetail, h, k]

theorem recordLockLost_detail {s : State} {detail : Nat}
    (h : (0 < s.takes.openCount ∧ s.pass.state ≠ .rolling ∧ detail = 1)
      ∨ (s.takes.openCount = 0 ∧ s.pass.state = .rolling ∧ detail = 2)
      ∨ (0 < s.takes.openCount ∧ s.pass.state = .rolling ∧ detail = 3)) :
    recordLockLost s =
      recordFault
        { kind := .lockLost, position := some s.tracker.head, channel := none, key := none, detail } s := by
  have code : s.lockLostDetail = detail := by
    unfold State.lockLostDetail
    rcases h with ⟨opened, rolling, rfl⟩ | ⟨opened, rolling, rfl⟩ | ⟨opened, rolling, rfl⟩
    · rw [if_pos opened, if_neg rolling]
    · rw [if_neg (by omega), if_pos rolling]
    · rw [if_pos opened, if_pos rolling]
  unfold recordLockLost
  rw [code]
  exact if_neg (by omega)

/-- Settles O31: each timer's command, when its cause holds and when it does not, then the quantities it reads. -/
theorem trackerTimersActWhenDue : Obligations.TrackerTimersActWhenDue := by
  refine ⟨fun now s => ⟨fun early => ?_, fun due => ?_, fun st => ?_, fun w hw => ?_, fun notLocked notFree => ?_⟩,
    fun t => rfl, oneToward_cases, fun r now t => t.timeoutDue_iff r now, by decide,
    fun r x now speed => ⟨elapsed_eq_emod x now, advOf_bounds r x now speed⟩,
    fun r a adv => ⟨rfl, headAt_reverse r a adv⟩, fun s detail => ⟨recordLockLost_none, recordLockLost_detail⟩⟩
  · rw [execWordTimeout_eq (Tracker.timeOut_idle early), timerChange_idle]
  · exact ⟨execWordTimeout_acquiring due, fun w st hw =>
        ⟨execWordTimeout_freewheels due st hw, execWordTimeout_parks due st hw⟩, execWordTimeout_elsewhere due⟩
  · rw [execFreewheelLimitReached_eq (Tracker.reachLimit_idle (.inl (by simp [st]))), timerChange_idle]
  · exact ⟨execPlayHeadAdvance_locked hw, freewheelTimers_before hw, freewheelTimers_limit hw⟩
  · rw [execPlayHeadAdvance_eq (Tracker.advance_idle notLocked notFree),
      execFreewheelLimitReached_eq (Tracker.reachLimit_idle (.inl notFree)), timerChange_idle]
    exact ⟨rfl, rfl⟩

end Sys2Proof.Machine
end

section
/-! SET_TRACKING (02 R36, R37; 01 R9): clamped fields, the settings they make, and the three effects on the tracker. -/

namespace Sys2Proof.Machine

/-! ### Clamped fields -/

theorem clampField_none {lo hi old n : Nat} {v : Option (BitVec n)} (h : v = none) :
    (clampField lo hi old (v.map BitVec.toNat)).1 = old := by
  subst h
  rfl

theorem clampField_some {lo hi old n : Nat} {v : Option (BitVec n)} {b : BitVec n} (h : v = some b) :
    (clampField lo hi old (v.map BitVec.toNat)).1 = max lo (min b.toNat hi) := by
  subst h
  rfl

theorem clampField_some_zero {hi old n : Nat} {v : Option (BitVec n)} {b : BitVec n} (h : v = some b) :
    (clampField 0 hi old (v.map BitVec.toNat)).1 = min b.toNat hi :=
  (clampField_some h).trans (Nat.zero_max _)

/-- A field is adjusted when it is present and out of its range. -/
theorem clampField_adjusted_iff {lo hi old n : Nat} (v : Option (BitVec n)) :
    (clampField lo hi old (v.map BitVec.toNat)).2 = true ↔ ∃ b, v = some b ∧ (b.toNat < lo ∨ hi < b.toNat) := by
  cases v <;> simp [clampField, clampTo]

theorem clampField_zero_adjusted_iff {hi old n : Nat} (v : Option (BitVec n)) :
    (clampField 0 hi old (v.map BitVec.toNat)).2 = true ↔ ∃ b, v = some b ∧ hi < b.toNat := by
  simp [clampField_adjusted_iff]

theorem clampOffset_adjusted_iff (old : Int) (v : Option Byte) :
    (clampOffset old v).2 = true ↔ ∃ b, v = some b ∧ (b.toInt < -10 ∨ 10 < b.toInt) := by
  cases v <;> simp [clampOffset]

/-- OK or ADJUSTED as the first byte of a body (11 R190). -/
theorem okOr_item (adjusted : Bool) : (okOr adjusted).item = b1 (if adjusted then 1 else 0) := by
  cases adjusted <;> rfl

/-! ### The settings (02 R36) -/

theorem TrackSettings.update_adjusted_iff (x : TrackingItems) (s : TrackSettings) :
    (s.update x).2 = true ↔
      (∃ b : Byte, x.offset = some b ∧ (b.toInt < -10 ∨ 10 < b.toInt))
        ∨ (∃ b : Byte, x.lockCount = some b ∧ (b.toNat < 2 ∨ 16 < b.toNat))
        ∨ (∃ b : Byte, x.freewheelLimit = some b ∧ 50 < b.toNat)
        ∨ (∃ v : Half, x.bandLow = some v ∧ (v.toNat < 500 ∨ 1000 < v.toNat))
        ∨ (∃ v : Half, x.bandHigh = some v ∧ (v.toNat < 1000 ∨ 2000 < v.toNat))
        ∨ (∃ b : Byte, x.settleSpan = some b ∧ 48 < b.toNat) := by
  simp only [TrackSettings.update, Bool.or_eq_true, clampOffset_adjusted_iff, clampField_zero_adjusted_iff,
    clampField_adjusted_iff (lo := 2), clampField_adjusted_iff (lo := 500), clampField_adjusted_iff (lo := 1000),
    or_assoc]

/-- With no field present nothing is replaced. -/
theorem TrackSettings.update_nothing (s : TrackSettings) :
    s.update ⟨none, none, none, none, none, none⟩ = (s, false) := rfl

/-! ### The effects (02 R37) -/

/-- The settings to come lower the freewheel limit to where adv has passed it (02 R37 effect 2). -/
def Tracker.passesLimit (r : Rate) (now : Stamp) (new : TrackSettings) (t : Tracker) : Prop :=
  new.freewheelLimit ≠ t.settings.freewheelLimit ∧ t.state = .freewheel
    ∧ ({ t with settings := new } : Tracker).limitReached r now = true

theorem Tracker.setTracking_acquires {r : Rate} {now : Stamp} {new : TrackSettings} {t : Tracker}
    (h : new.offset ≠ t.settings.offset) (st : t.state ≠ .silent) :
    t.setTracking r now new =
      ({ t with
          settings := new, state := .acquiring, run := 0, reference := none, acqIntervals := [], acqRepeats := 0,
          history := [], candidate := none, speed := 0, heading := .still, timeoutFrom := some now }, false) := by
  have changed : ({ t with settings := new } : Tracker).offsetChanged now =
      { t with
        settings := new, state := .acquiring, run := 0, reference := none, acqIntervals := [], acqRepeats := 0,
        history := [], candidate := none, speed := 0, heading := .still, timeoutFrom := some now } := by
    unfold Tracker.offsetChanged
    cases k : t.state with
    | silent => exact absurd k st
    | _ => rfl
  simp [Tracker.setTracking, h, changed]

/-- Before the limit is looked at, SILENT and an unchanged offset take the settings alone. -/
theorem Tracker.setTracking_settles {r : Rate} {now : Stamp} {new : TrackSettings} {t : Tracker}
    (h : t.state = .silent ∨ new.offset = t.settings.offset) :
    t.setTracking r now new =
      if new.freewheelLimit ≠ t.settings.freewheelLimit ∧ t.state = .freewheel
          ∧ ({ t with settings := new } : Tracker).limitReached r now = true then
        (({ t with settings := new } : Tracker).toParked, true)
      else ({ t with settings := new }, false) := by
  have kept : (if new.offset = t.settings.offset then { t with settings := new }
      else ({ t with settings := new } : Tracker).offsetChanged now) = { t with settings := new } := by
    split
    · rfl
    · rename_i changed
      have st := h.resolve_right changed
      simp [Tracker.offsetChanged, st]
  simp only [Tracker.setTracking, kept]

theorem Tracker.setTracking_parks {r : Rate} {now : Stamp} {new : TrackSettings} {t : Tracker}
    (h : new.offset = t.settings.offset) (lim : t.passesLimit r now new) :
    t.setTracking r now new =
      ({ t with settings := new, state := .parked, heading := .still, speed := 0, history := [], candidate := none },
        true) :=
  (Tracker.setTracking_settles (.inr h)).trans (if_pos lim)

theorem Tracker.setTracking_keeps {r : Rate} {now : Stamp} {new : TrackSettings} {t : Tracker}
    (h : t.state = .silent ∨ new.offset = t.settings.offset) (lim : ¬ t.passesLimit r now new) :
    t.setTracking r now new = ({ t with settings := new }, false) :=
  (Tracker.setTracking_settles h).trans (if_neg lim)

/-- Whatever the effect, the tracker holds the new settings. -/
theorem Tracker.setTracking_settings (r : Rate) (now : Stamp) (new : TrackSettings) (t : Tracker) :
    (t.setTracking r now new).1.settings = new := by
  by_cases h : t.state = .silent ∨ new.offset = t.settings.offset
  · rw [Tracker.setTracking_settles h]
    split <;> rfl
  · obtain ⟨st, changed⟩ := not_or.mp h
    rw [Tracker.setTracking_acquires changed st]

theorem Tracker.limitReached_with {r : Rate} {now : Stamp} {new : TrackSettings} {t : Tracker} {w : Word}
    (h : t.accepted = some w) :
    ({ t with settings := new } : Tracker).limitReached r now = true ↔
      new.freewheelLimit * 100 ≤ advOf r w.stamp t.speed now :=
  Tracker.limitReached_iff (t := { t with settings := new }) h

/-- The limit of the settings to come, in terms of the field that carries it. -/
theorem Tracker.passesLimit_iff (r : Rate) (now : Stamp) (x : TrackingItems) (t : Tracker) :
    t.passesLimit r now (t.settings.update x).1 ↔
      ∃ (w : Word) (b : Byte), t.state = .freewheel ∧ t.accepted = some w ∧ x.freewheelLimit = some b
        ∧ min b.toNat 50 ≠ t.settings.freewheelLimit
        ∧ min b.toNat 50 * 100 ≤ advOf r w.stamp t.speed now := by
  have field : (t.settings.update x).1.freewheelLimit =
      (clampField 0 50 t.settings.freewheelLimit (x.freewheelLimit.map BitVec.toNat)).1 := rfl
  constructor
  · rintro ⟨changed, st, reached⟩
    cases hb : x.freewheelLimit with
    | none => exact absurd (field.trans (clampField_none hb)) changed
    | some b =>
      have new := field.trans (clampField_some_zero hb)
      cases hw : t.accepted with
      | none => simp [Tracker.limitReached, hw] at reached
      | some w =>
        rw [Tracker.limitReached_with hw] at reached
        exact ⟨w, b, st, rfl, rfl, new ▸ changed, new ▸ reached⟩
  · rintro ⟨w, b, st, hw, hb, changed, reached⟩
    have new := field.trans (clampField_some_zero hb)
    exact ⟨new ▸ changed, st, (Tracker.limitReached_with hw).mpr (new ▸ reached)⟩

/-- Settles O32: the six fields one by one, then the three effects by the offset and the limit. -/
theorem setTrackingReplacesAndActs : Obligations.SetTrackingReplacesAndActs := by
  intro tag x s limit c hlim
  rw [← Tracker.passesLimit_iff] at hlim
  refine ⟨(s.tracker.settings.update x).1, (s.tracker.settings.update x).2,
    (s.tracker.setTracking s.rate s.counter (s.tracker.settings.update x).1).1,
    (s.tracker.setTracking s.rate s.counter (s.tracker.settings.update x).1).2, ?_,
    fun h => ?_, clampField_none, clampField_none, clampField_none, clampField_none, clampField_none,
    fun b h => ?_, fun b => clampField_some, fun b => clampField_some_zero, fun v => clampField_some,
    fun v => clampField_some, fun b => clampField_some_zero, TrackSettings.update_adjusted_iff x _,
    Tracker.setTracking_settings _ _ _ _, fun h st => ?_, fun h l => ?_, fun h l => ?_, ?_⟩
  · refine (request_taken (setTrackingPerform x) rfl c).trans ?_
    simp only [setTrackingPerform, okOr_item, TrackSettings.item, List.append_assoc]
    rfl
  · simp [TrackSettings.update, clampOffset, h]
  · simp [TrackSettings.update, clampOffset, h]
  · rw [Tracker.setTracking_acquires h st]
    exact ⟨rfl, rfl⟩
  · rw [Tracker.setTracking_parks h (hlim.mp l)]
    exact ⟨rfl, rfl⟩
  · rw [Tracker.setTracking_keeps h fun k => l (hlim.mpr k)]
    exact ⟨rfl, rfl⟩
  · rintro rfl
    rw [TrackSettings.update_nothing, Tracker.setTracking_keeps (.inr rfl) fun k => k.1 rfl]
    exact ⟨rfl, rfl, rfl, rfl⟩

end Sys2Proof.Machine
end

section
/-! LOAD_CUE (03 R40 to R51): position and key fields, texts, the record that a request's items make, and its place in the
staged bank. -/

namespace Sys2Proof.Machine

/-! ### Position fields (01 R10 to R12) -/

theorem posField_eq_none_iff (r : Rate) (w : WirePos) :
    posField r w = none ↔ (labelOfField w).wellFormed r = false ∨ 99 < w.sub.toNat := by
  unfold posField
  cases wf : (labelOfField w).wellFormed r <;> simp [wf]

theorem posField_unmoved {r : Rate} {w : WirePos} (wf : (labelOfField w).wellFormed r = true) (sub : w.sub.toNat ≤ 99)
    (ns : (labelOfField w).skipped r = false) :
    posField r w = some ((labelOfField w).count r * 100 + w.sub.toNat, false) := by
  rw [posField_of_wellFormed wf sub, Label.moveForward_of_not_skipped ns, ns]

theorem posField_moved {r : Rate} {w : WirePos} (wf : (labelOfField w).wellFormed r = true) (sub : w.sub.toNat ≤ 99)
    (sk : (labelOfField w).skipped r = true) :
    posField r w = some ({ labelOfField w with f := 2 }.count r * 100 + w.sub.toNat, true) := by
  rw [posField_of_wellFormed wf sub, Label.moveForward, if_pos sk, sk]

/-- A position field that is read is well-formed, and is read as `posField_of_wellFormed` says. -/
theorem posField_eq_some {r : Rate} {w : WirePos} {p : Nat} {moved : Bool} (h : posField r w = some (p, moved)) :
    (labelOfField w).wellFormed r = true ∧ w.sub.toNat ≤ 99
      ∧ p = ((labelOfField w).moveForward r).count r * 100 + w.sub.toNat ∧ moved = (labelOfField w).skipped r := by
  have sound : ¬ ((labelOfField w).wellFormed r = false ∨ 99 < w.sub.toNat) := by
    rw [← posField_eq_none_iff, h]
    exact Option.some_ne_none _
  obtain ⟨wf, sub⟩ := not_or.mp sound
  have wf : (labelOfField w).wellFormed r = true := by simpa using wf
  rw [posField_of_wellFormed wf (by omega)] at h
  cases h
  exact ⟨wf, by omega, rfl, rfl⟩

/-- A skipped label moved to frame 2 is a label of the day that is not skipped (01 R12). -/
theorem Label.moveForward_sound {r : Rate} {l : Label} (h : l.wellFormed r = true) :
    (l.moveForward r).wellFormed r = true ∧ (l.moveForward r).skipped r = false := by
  unfold Label.moveForward
  split
  · rename_i skip
    have drop : r.isDrop = true := by
      simp only [Label.skipped, Bool.and_eq_true, and_assoc] at skip
      exact skip.1
    obtain rfl := (Rate.isDrop_iff r).mp drop
    rw [Label.wellFormed_iff] at h ⊢
    obtain ⟨hh, hm, hs, -⟩ := h
    exact ⟨⟨hh, hm, hs, by simp [Rate.base]⟩, by simp [Label.skipped]⟩
  · rename_i keep
    exact ⟨h, by simpa using keep⟩

/-- A position that a request carries lies in the day (01 R3, R10). -/
theorem posField_le_lastPos {r : Rate} {w : WirePos} {p : Nat} {moved : Bool} (h : posField r w = some (p, moved)) :
    p ≤ r.lastPos := by
  obtain ⟨wf, sub, rfl, -⟩ := posField_eq_some h
  obtain ⟨wf', ns⟩ := Label.moveForward_sound wf
  have day := (Label.ofCount_count r wf' ns).1
  unfold Rate.lastPos
  omega

/-! ### Keys (03 R40) -/

theorem keyOf_eq_none_iff (w : WireKey) :
    keyOf w = none ↔ w.num.toNat = 0 ∨ 9999 < w.num.toNat ∨ 26 < w.suffix.toNat := by
  unfold keyOf
  by_cases num : 1 ≤ w.num.toNat ∧ w.num.toNat ≤ 9999
  · rw [if_pos num]
    split
    · exact iff_of_false (Option.some_ne_none _) (by omega)
    · rename_i k code
      by_cases letter : k < 26
      · rw [dif_pos letter]
        exact iff_of_false (Option.some_ne_none _) (by omega)
      · rw [dif_neg letter]
        exact iff_of_true rfl (by omega)
  · rw [if_neg num]
    exact iff_of_true rfl (by omega)

theorem keyOf_eq_some {w : WireKey} {k : Key} (h : keyOf w = some k) :
    k.num = w.num.toNat ∧ (k.suffix = none ↔ w.suffix.toNat = 0)
      ∧ ∀ y : Fin 26, k.suffix = some y ↔ w.suffix.toNat = y.val + 1 := by
  unfold keyOf at h
  split at h
  · split at h
    · rename_i code
      cases h
      simp [code]
    · rename_i n code
      split at h
      · cases h
        simp [code, Fin.ext_iff]
      · cases h
  · cases h

/-- A key that is read has its number in range. -/
theorem keyOf_num {w : WireKey} {k : Key} (h : keyOf w = some k) : 1 ≤ k.num ∧ k.num ≤ 9999 := by
  have sound : ¬ (w.num.toNat = 0 ∨ 9999 < w.num.toNat ∨ 26 < w.suffix.toNat) := by
    rw [← keyOf_eq_none_iff, h]
    exact Option.some_ne_none _
  have num := (keyOf_eq_some h).1
  omega

/-! ### Flags and numbers -/

theorem yesNo_eq_none_iff (b : Byte) : yesNo b = none ↔ 1 < b.toNat := by
  unfold yesNo
  split
  · exact iff_of_false (Option.some_ne_none _) (by bv_omega)
  · split
    · exact iff_of_false (Option.some_ne_none _) (by bv_omega)
    · exact iff_of_true rfl (by bv_omega)

theorem yesNo_eq_some {b : Byte} {v : Bool} (h : yesNo b = some v) : v = true ↔ b = 1 := by
  unfold yesNo at h
  split at h
  · cases h
    simp [*]
  · split at h <;> cases h
    simp [*]

theorem storeStreamer_value (v : Nat) : (storeStreamer v).1 = if v = 0 then 0 else max 8 (min v 120) := by
  unfold storeStreamer
  split <;> rfl

theorem storeStreamer_adjusted_iff (v : Nat) : (storeStreamer v).2 = true ↔ (0 < v ∧ v < 8) ∨ 120 < v := by
  unfold storeStreamer
  split
  · exact iff_of_false Bool.false_ne_true (by omega)
  · simp only [clampTo, Bool.or_eq_true, decide_eq_true_eq]
    omega

theorem pointsFit_iff (a b : Nat) : pointsFit a b = true ↔ a + 100 ≤ b ∧ b ≤ a + 600000 := by
  simp [pointsFit]

/-! ### Texts (03 R43) -/

theorem printable_iff (b : Byte) : printable b = true ↔ 0x20 ≤ b.toNat ∧ b.toNat ≤ 0x7E := by
  simp [printable]

/-- A byte of a text as it is stored (03 R43). -/
def storeByte (b : Byte) : Byte := if printable b then b else 0x3F

theorem storeByte_printable (b : Byte) : printable (storeByte b) = true := by
  unfold storeByte
  split
  · assumption
  · decide

theorem storeText_some {chars : List Byte} (h : chars ≠ []) :
    storeText (some chars) =
      (some ((chars.map storeByte).take 96), chars.any (fun b => !printable b) || decide (96 < chars.length)) := by
  cases chars with
  | nil => exact absurd rfl h
  | cons b rest => rfl

/-- A stored text is neither empty nor longer than 96, and every byte of it is printable (03 R43). -/
theorem storeText_legal {t : Option (List Byte)} {u : List Byte} (h : (storeText t).1 = some u) :
    u ≠ [] ∧ u.length ≤ 96 ∧ ∀ b ∈ u, 0x20 ≤ b.toNat ∧ b.toNat ≤ 0x7E := by
  match t with
  | none => cases h
  | some [] => cases h
  | some (a :: rest) =>
    rw [storeText_some (by simp)] at h
    cases h
    refine ⟨by simp, by simp, fun b hb => ?_⟩
    obtain ⟨c, -, rfl⟩ := List.mem_map.mp (List.mem_of_mem_take hb)
    exact (printable_iff _).mp (storeByte_printable c)

theorem storeText_spells {chars : List Byte} (h : chars ≠ []) :
    ∃ (shown : List Byte) (cut : Bool),
      storeText (some chars) = (some shown, cut) ∧ shown.length = min chars.length 96
        ∧ (∀ (i : Nat) (b : Byte), i < 96 → chars[i]? = some b →
            shown[i]? = some (if 0x20 ≤ b.toNat ∧ b.toNat ≤ 0x7E then b else 0x3F))
        ∧ (cut = true ↔ 96 < chars.length ∨ ∃ b ∈ chars, b.toNat < 0x20 ∨ 0x7E < b.toNat) := by
  refine ⟨_, _, storeText_some h, by simp [Nat.min_comm], fun i b hi hb => ?_, ?_⟩
  · rw [List.getElem?_take_of_lt hi, List.getElem?_map, hb]
    simp only [Option.map_some, storeByte, printable_iff]
  · simp only [Bool.or_eq_true, List.any_eq_true, decide_eq_true_eq, Bool.not_eq_true', ← Bool.not_eq_true,
      printable_iff, not_and_or, not_le, or_comm]

/-! ### The record that the items make (03 R41, R44) -/

/-- A record made of a request's items, item by item. -/
theorem cueOfItems_eq_some {r : Rate} {k : Key} {x : CueItems} {cue : Cue} {adj : Bool}
    (h : cueOfItems r k x = some (cue, adj)) :
    ∃ inMoved outMoved : Bool,
      posField r x.inPt = some (cue.inPt, inMoved) ∧ posField r x.outPt = some (cue.outPt, outMoved)
        ∧ yesNo x.punch = some cue.punch ∧ pointsFit cue.inPt cue.outPt = true
        ∧ cue =
            { key := k, tag := x.tag, inPt := cue.inPt, outPt := cue.outPt,
              streamer := (storeStreamer x.streamer.toNat).1, beeps := (clampTo 0 4 x.beeps.toNat).1,
              interval := (clampTo 6 50 x.interval.toNat).1, punch := cue.punch, tracks := x.tracks,
              text := (storeText x.text).1 }
        ∧ adj =
            (inMoved || outMoved || (storeStreamer x.streamer.toNat).2 || (clampTo 0 4 x.beeps.toNat).2
              || (clampTo 6 50 x.interval.toNat).2 || (storeText x.text).2) := by
  unfold cueOfItems at h
  split at h
  · rename_i inPt inMoved outPt outMoved punch hin hout hpunch
    split at h
    · rename_i fits
      cases h
      exact ⟨inMoved, outMoved, hin, hout, hpunch, fits, rfl, rfl⟩
    · cases h
  · cases h

theorem cueOfItems_eq_none_iff (r : Rate) (k : Key) (x : CueItems) :
    cueOfItems r k x = none ↔
      posField r x.inPt = none ∨ posField r x.outPt = none ∨ 1 < x.punch.toNat
        ∨ ∃ (a b : Nat) (i j : Bool), posField r x.inPt = some (a, i) ∧ posField r x.outPt = some (b, j)
          ∧ (b < a + 100 ∨ a + 600000 < b) := by
  rw [← yesNo_eq_none_iff]
  unfold cueOfItems
  cases hin : posField r x.inPt with
  | none => simp
  | some i =>
    cases hout : posField r x.outPt with
    | none => simp
    | some o =>
      cases hp : yesNo x.punch with
      | none => simp
      | some p =>
        obtain ⟨a, mi⟩ := i
        obtain ⟨b, mo⟩ := o
        have fit := pointsFit_iff a b
        simp only [reduceCtorEq, false_or, Option.some.injEq, Prod.mk.injEq]
        constructor
        · intro h
          refine ⟨a, b, mi, mo, ⟨rfl, rfl⟩, ⟨rfl, rfl⟩, ?_⟩
          by_contra n
          rw [if_pos (fit.mpr (by omega))] at h
          cases h
        · rintro ⟨a', b', _, _, ⟨rfl, -⟩, ⟨rfl, -⟩, far⟩
          rw [if_neg (by rw [fit]; omega)]

theorem cueOfItems_key {r : Rate} {k : Key} {x : CueItems} {cue : Cue} {adj : Bool}
    (h : cueOfItems r k x = some (cue, adj)) : cue.key = k := by
  obtain ⟨_, _, -, -, -, -, shape, -⟩ := cueOfItems_eq_some h
  rw [shape]

/-- Every item of the record is as sent or as 03 R41 clamps it, and ADJUSTED says that one was not as sent (R44). -/
theorem cueOfItems_stores {r : Rate} {k : Key} {x : CueItems} {cue : Cue} {adj : Bool}
    (h : cueOfItems r k x = some (cue, adj)) :
    cue.key = k ∧ cue.tag = x.tag ∧ cue.tracks = x.tracks ∧ (cue.punch = true ↔ x.punch = 1)
      ∧ cue.streamer = (if x.streamer.toNat = 0 then 0 else max 8 (min x.streamer.toNat 120))
      ∧ cue.beeps = min x.beeps.toNat 4 ∧ cue.interval = max 6 (min x.interval.toNat 50)
      ∧ ∃ inMoved outMoved cut : Bool,
          posField r x.inPt = some (cue.inPt, inMoved) ∧ posField r x.outPt = some (cue.outPt, outMoved)
            ∧ storeText x.text = (cue.text, cut)
            ∧ (adj = true ↔
                inMoved = true ∨ outMoved = true
                  ∨ (0 < x.streamer.toNat ∧ x.streamer.toNat < 8) ∨ 120 < x.streamer.toNat
                  ∨ 4 < x.beeps.toNat ∨ x.interval.toNat < 6 ∨ 50 < x.interval.toNat ∨ cut = true) := by
  obtain ⟨inMoved, outMoved, hin, hout, hpunch, -, shape, rfl⟩ := cueOfItems_eq_some h
  have streamer : cue.streamer = (storeStreamer x.streamer.toNat).1 := by rw [shape]
  have beeps : cue.beeps = (clampTo 0 4 x.beeps.toNat).1 := by rw [shape]
  have text : cue.text = (storeText x.text).1 := by rw [shape]
  refine ⟨by rw [shape], by rw [shape], by rw [shape], yesNo_eq_some hpunch, streamer.trans (storeStreamer_value _),
    beeps.trans (Nat.zero_max _), by rw [shape]; rfl, inMoved, outMoved, (storeText x.text).2, hin, hout,
    by rw [text], ?_⟩
  simp only [Bool.or_eq_true, storeStreamer_adjusted_iff, clampTo, decide_eq_true_eq, Nat.not_lt_zero, false_or,
    or_assoc]

/-- A record made of a request's items may stand in a bank of the rate (03 R40, R41, R43). -/
theorem cueOfItems_legal {r : Rate} {w : WireKey} {k : Key} {x : CueItems} {cue : Cue} {adj : Bool}
    (hk : keyOf w = some k) (h : cueOfItems r k x = some (cue, adj)) : cue.legal r := by
  obtain ⟨_, _, -, hout, -, fits, shape, -⟩ := cueOfItems_eq_some h
  obtain ⟨key, -, -, -, streamer, beeps, interval, -⟩ := cueOfItems_stores h
  obtain ⟨near, far⟩ := (pointsFit_iff _ _).mp fits
  obtain ⟨lo, hi⟩ := keyOf_num hk
  have text : cue.text = (storeText x.text).1 := by rw [shape]
  refine ⟨by rw [key]; exact lo, by rw [key]; exact hi, near, far, posField_le_lastPos hout, ?_, by omega, by omega,
    by omega, fun t ht => storeText_legal (text.symm.trans ht)⟩
  rw [streamer]
  split <;> omega

/-! ### A record in its bank (03 R45, R48) -/

theorem find?_insertBy_of_false {α : Type} (lt : α → α → Bool) {p : α → Bool} {x : α} (h : p x = false) (l : List α) :
    (insertBy lt x l).find? p = l.find? p := by
  induction l with
  | nil => simp [insertBy, h]
  | cons y l ih =>
    unfold insertBy
    split
    · rw [List.find?_cons_of_neg (by simp [h])]
    · rw [List.find?_cons, List.find?_cons, ih]

theorem find?_insertBy_of_true {α : Type} (lt : α → α → Bool) {p : α → Bool} {x : α} (h : p x = true) {l : List α}
    (n : ∀ y ∈ l, p y = false) : (insertBy lt x l).find? p = some x := by
  induction l with
  | nil => simp [insertBy, h]
  | cons y l ih =>
    unfold insertBy
    split
    · exact List.find?_cons_of_pos h
    · rw [List.find?_cons_of_neg (by simp [n y])]
      exact ih fun z hz => n z (List.mem_cons_of_mem y hz)

theorem findCue_placeCue_self (c : Cue) (cues : List Cue) : findCue (placeCue c cues) c.key = some c := by
  refine find?_insertBy_of_true _ (by simp) fun d hd => ?_
  simpa [dropKey] using (List.mem_filter.mp hd).2

theorem findCue_dropKey_other {k q : Key} (h : q ≠ k) (cues : List Cue) :
    findCue (dropKey k cues) q = findCue cues q := by
  unfold findCue dropKey
  rw [List.find?_filter]
  refine congrArg (fun p => cues.find? p) (funext fun c => ?_)
  by_cases e : c.key = q
  · simp [e, h]
  · simp [e]

theorem findCue_placeCue_other {c : Cue} {q : Key} (h : q ≠ c.key) (cues : List Cue) :
    findCue (placeCue c cues) q = findCue cues q :=
  (find?_insertBy_of_false _ (by simp [h.symm]) _).trans (findCue_dropKey_other h cues)

/-! ### LOAD_CUE (03 R48) -/

theorem loadCuePerform_badKey {key : WireKey} {x : CueItems} {s : State} (p : s.table.switchPending = false)
    (h : keyOf key = none) : loadCuePerform key x s = refuseKey .range key s := by
  simp [loadCuePerform, p, h]

theorem loadCuePerform_badItems {key : WireKey} {x : CueItems} {s : State} {k : Key}
    (p : s.table.switchPending = false) (h : keyOf key = some k) (n : cueOfItems s.table.stagedBank.rate k x = none) :
    loadCuePerform key x s = refuseKey .range key s := by
  simp [loadCuePerform, p, h, n]

theorem loadCuePerform_full {key : WireKey} {x : CueItems} {s : State} {k : Key} {cue : Cue} {adj : Bool}
    (p : s.table.switchPending = false) (h : keyOf key = some k)
    (c : cueOfItems s.table.stagedBank.rate k x = some (cue, adj)) (new : findCue s.table.stagedBank.cues k = none)
    (full : 512 ≤ s.table.stagedBank.cues.length) : loadCuePerform key x s = refuseKey .full key s := by
  simp [loadCuePerform, p, h, c, new, full]

theorem loadCuePerform_stores {key : WireKey} {x : CueItems} {s : State} {k : Key} {cue : Cue} {adj : Bool}
    (p : s.table.switchPending = false) (h : keyOf key = some k)
    (c : cueOfItems s.table.stagedBank.rate k x = some (cue, adj))
    (room : findCue s.table.stagedBank.cues k ≠ none ∨ s.table.stagedBank.cues.length < 512) :
    loadCuePerform key x s =
      (s.withStagedCues (placeCue cue s.table.stagedBank.cues),
        (okOr adj).item ++ b2 (placeCue cue s.table.stagedBank.cues).length ++ keyItem k
          ++ cueItem s.table.stagedBank.rate cue ++ b1 s.table.active.other.code) := by
  have fits : ((findCue s.table.stagedBank.cues k).isNone && decide (512 ≤ s.table.stagedBank.cues.length)) = false := by
    rcases room with old | short
    · simp [old]
    · simp [short]
  simp only [loadCuePerform, p, h, c, fits, Bool.false_eq_true, if_false]
  rfl

theorem execLoadCue_answers {tag : Byte} {key : WireKey} {x : CueItems} {s t : State} {body : List Byte}
    (c : s.canTake (.loadCue tag key x) = true) (p : loadCuePerform key x s.taken = (t, body)) :
    exec (.loadCue tag key x) s = .next (t.answered 0x91 tag body) :=
  request_answers (f := ⟨0x11, tag, wireKeyItem key ++ cuePayload x⟩) rfl c p

/-- Settles O43: the tests of LOAD_CUE in their order, then what each kind of field is stored as. -/
theorem loadCueStoresALegalRecord : Obligations.LoadCueStoresALegalRecord := by
  refine ⟨fun tag key x s c pending => ⟨fun bad => ?_, fun k bank hk hb => ?_⟩,
    fun r k x => ⟨cueOfItems_eq_none_iff r k x, fun cue adj h => cueOfItems_stores h⟩,
    ⟨rfl, rfl, fun chars h => storeText_spells h⟩,
    fun w => ⟨keyOf_eq_none_iff w, fun k h => keyOf_eq_some h⟩, ?_⟩
  · exact execLoadCue_answers c (loadCuePerform_badKey (s := s.taken) pending bad)
  · subst hb
    refine ⟨fun bad => execLoadCue_answers c (loadCuePerform_badItems (s := s.taken) pending hk bad),
      fun cue adj hc => ?_⟩
    obtain rfl := cueOfItems_key hc
    refine ⟨rfl, cueOfItems_legal hk hc,
      fun new full => execLoadCue_answers c (loadCuePerform_full (s := s.taken) pending hk hc new full),
      fun room => ⟨placeCue cue s.table.stagedBank.cues, findCue_placeCue_self cue _,
        fun q h => findCue_placeCue_other h _, ?_⟩⟩
    rw [← okOr_item]
    exact execLoadCue_answers c (loadCuePerform_stores (s := s.taken) pending hk hc room)
  · rintro r w l rfl
    exact ⟨(posField_eq_none_iff r w).mpr, fun wf sub => ⟨posField_unmoved wf sub, posField_moved wf sub⟩⟩

end Sys2Proof.Machine
end

section
/-! The reading requests (03 R59, R60; 05 R94; 08 R145, R149): which bank, record and cue each reads, the order of its
list, and the standing of a cue on a channel. -/

namespace Sys2Proof.Machine

/-! ### Selectors and lookups -/

theorem yesNo_of_le_one {b : Byte} (h : b.toNat ≤ 1) : yesNo b = some (decide (b ≠ 0)) := by
  rcases hb : yesNo b with _ | v
  · exact absurd ((yesNo_eq_none_iff b).mp hb) (by omega)
  · have on := yesNo_eq_some hb
    have : b = 0 ∨ b = 1 := by bv_omega
    rcases this with rfl | rfl <;> simpa using on

/-- The bank that a selector names, with its letter (03 R59, 11 R188). -/
theorem CueTable.bankOfRole_selector (sel : Byte) (t : CueTable) :
    t.bankOfRole (decide (sel ≠ 0)) = if sel = 0 then (t.activeBank, t.active) else (t.stagedBank, t.active.other) := by
  by_cases h : sel = 0 <;> simp [CueTable.bankOfRole, h]

theorem findCue_key {cues : List Cue} {k : Key} {c : Cue} (h : findCue cues k = some c) : c.key = k := by
  simpa using List.find?_some h

/-- The first element that meets a test is found behind elements that do not. -/
theorem find?_append_cons {α : Type} {p : α → Bool} {older newer : List α} {r : α} (h : p r = true)
    (n : ∀ q ∈ older, p q = false) : (older ++ r :: newer).find? p = some r := by
  rw [List.find?_append, List.find?_eq_none.mpr fun q hq => by simp [n q hq], List.find?_cons_of_pos h]
  rfl

theorem TakeLog.recordOf_eq_none_iff (l : TakeLog) (n : Nat) : l.recordOf n = none ↔ ∀ r ∈ l.records, r.number ≠ n := by
  simp [TakeLog.recordOf]

theorem TakeLog.oldestUncollected_eq_none_iff (l : TakeLog) :
    l.oldestUncollected = none ↔ ∀ r ∈ l.records, r.collected = true := by
  simp [TakeLog.oldestUncollected]

theorem TakeLog.recordOf_first {l : TakeLog} {n : Nat} {older newer : List TakeRecord} {r : TakeRecord}
    (h : l.records = older ++ r :: newer) (hr : r.number = n) (no : ∀ q ∈ older, q.number ≠ n) :
    l.recordOf n = some r := by
  unfold TakeLog.recordOf
  rw [h]
  exact find?_append_cons (by simp [hr]) fun q hq => by simp [no q hq]

theorem TakeLog.oldestUncollected_first {l : TakeLog} {older newer : List TakeRecord} {r : TakeRecord}
    (h : l.records = older ++ r :: newer) (hr : r.collected = false) (no : ∀ q ∈ older, q.collected = true) :
    l.oldestUncollected = some r := by
  unfold TakeLog.oldestUncollected
  rw [h]
  exact find?_append_cons (by simp [hr]) fun q hq => by simp [no q hq]

/-! ### Ascending lists -/

theorem insertBy_ascending {α : Type} (f : α → Nat) (x : α) (l : List α) (h : l.Pairwise fun a b => f a ≤ f b) :
    (insertBy (fun a b => decide (f a < f b)) x l).Pairwise fun a b => f a ≤ f b := by
  induction l with
  | nil => simp [insertBy]
  | cons y l ih =>
    obtain ⟨first, tail⟩ := List.pairwise_cons.mp h
    unfold insertBy
    split
    · rename_i before
      have lt : f x < f y := by simpa using before
      refine List.pairwise_cons.mpr ⟨fun z hz => ?_, h⟩
      rcases List.mem_cons.mp hz with rfl | hz
      · exact lt.le
      · exact lt.le.trans (first z hz)
    · rename_i behind
      refine List.pairwise_cons.mpr ⟨fun z hz => ?_, ih tail⟩
      rcases (mem_insertBy _ _ _ _).mp hz with rfl | hz
      · simpa using behind
      · exact first z hz

/-- A list sorted by a number ascends in it. -/
theorem sortBy_ascending {α : Type} (f : α → Nat) (l : List α) :
    (sortBy (fun a b => decide (f a < f b)) l).Pairwise fun a b => f a ≤ f b := by
  have all : ∀ acc : List α, (acc.Pairwise fun a b => f a ≤ f b) →
      (l.foldl (fun acc x => insertBy (fun a b => decide (f a < f b)) x acc) acc).Pairwise fun a b => f a ≤ f b := by
    induction l with
    | nil => exact fun acc h => h
    | cons x l ih => exact fun acc h => ih _ (insertBy_ascending f x acc h)
  exact all [] .nil

/-! ### The earliest point and the standing of a cue (05 R73, R94) -/

/-- E of a cue without a copy is that of its record and the text lead. -/
theorem Channel.earliestOf_record {env : ChannelEnv} {m : MapEntry} {c : Channel} {cue : Cue} (h : m.copy = none)
    (hc : findCue env.cues m.key = some cue) :
    c.earliestOf env m = some (earliestPoint cue c.settings.textLead) := by
  simp only [Channel.earliestOf, h, hc, Option.map_some]
  split
  · contradiction
  · contradiction
  · rfl

/-- E of a QUEUED or ACTIVE cue is that of the points it holds. -/
theorem Channel.earliestOf_held {env : ChannelEnv} {m : MapEntry} {c : Channel} {x : CueCopy} (h : m.copy = some x)
    (st : m.status = .queued ∨ m.status = .active) :
    c.earliestOf env m = some (earliestHeld m.key x c.schedule) := by
  rcases st with st | st <;> simp only [Channel.earliestOf, h, st]

theorem standingItem_disabled {s : State} {k : Key} {n : Nat} {c : Channel} (hc : s.channels[n]? = some c)
    (h : c.settings.enabled = false) : standingItem s k n = [5] := by
  simp only [standingItem, hc, h]
  rfl

theorem standingItem_absent {s : State} {k : Key} {n : Nat} {c : Channel} (hc : s.channels[n]? = some c)
    (h : c.settings.enabled = true) (no : ∀ m ∈ c.map, m.key ≠ k) : standingItem s k n = [6] := by
  have absent : c.entryOf k = none := by simpa [Channel.entryOf] using no
  simp only [standingItem, hc, h, absent]
  rfl

/-- The standing of a cue in the map: its status, its E, its entries, its acceptance, the schedule's count. -/
theorem standingItem_present {s : State} {k : Key} {n e : Nat} {c : Channel} {m : MapEntry} {cue : Cue}
    (hc : s.channels[n]? = some c) (h : c.settings.enabled = true) (hm : c.entryOf k = some m)
    (hcue : findCue s.cues k = some cue) (he : c.earliestOf (s.channelEnv n) m = some e) :
    standingItem s k n =
      b1 m.status.code ++ m.status.reasonItem
        ++ (posItem s.rate e ++ b1 (c.schedule.countP fun y => decide (y.key = k))
          ++ flag (decide (cue.tag &&& c.settings.filterMask = c.settings.filterTag &&& c.settings.filterMask))
          ++ b1 c.schedule.length) := by
  have accepts : c.acceptsKey s.cues k = c.acceptsTag cue.tag := by simp only [Channel.acceptsKey, hcue]
  simp only [standingItem, hc, h, hm, he, accepts, Channel.acceptsTag, Option.getD_some, Bool.not_true,
    Bool.false_eq_true, if_false, List.append_assoc]

/-! ### The bodies of the replies -/

theorem readCueBody_refuses {sel : Byte} {key : WireKey} {s : State} (h : 1 < sel.toNat ∨ keyOf key = none) :
    readCueBody sel key s = [5] := by
  unfold readCueBody selectorIsStaged
  rcases h with h | h
  · rw [(yesNo_eq_none_iff sel).mpr h]
    rfl
  · rw [h]
    cases yesNo sel <;> rfl

section
variable {sel : Byte} {key : WireKey} {s : State} {k : Key} {b : Bank} {letter : BankName} (hk : keyOf key = some k)
  (h : sel.toNat ≤ 1)
  (hb : (b, letter) =
    if sel = 0 then (s.table.activeBank, s.table.active) else (s.table.stagedBank, s.table.active.other))
include hk h hb

theorem readCueBody_unknown (absent : findCue b.cues k = none) : readCueBody sel key s = [7] := by
  unfold readCueBody selectorIsStaged
  rw [yesNo_of_le_one h, hk]
  dsimp only
  rw [CueTable.bankOfRole_selector, ← hb, absent]
  rfl

theorem readCueBody_found {cue : Cue} (found : findCue b.cues k = some cue) :
    readCueBody sel key s =
      b1 0 ++ keyItem k ++ cueItem b.rate cue ++ b2 (indexOfKey k b.cues) ++ b1 letter.code := by
  unfold readCueBody selectorIsStaged
  rw [yesNo_of_le_one h, hk]
  dsimp only
  rw [CueTable.bankOfRole_selector, ← hb, found, ← findCue_key found]
  rfl

end

theorem listCuesBody_refuses {sel : Byte} {index : Half} {s : State} (h : 1 < sel.toNat ∨ 511 < index.toNat) :
    listCuesBody sel index s = [5] := by
  unfold listCuesBody selectorIsStaged
  rcases h with h | h
  · rw [(yesNo_eq_none_iff sel).mpr h]
    rfl
  · cases yesNo sel with
    | none => rfl
    | some _ => exact if_pos h

theorem listCuesBody_eq {sel : Byte} {index : Half} {s : State} {b : Bank} {letter : BankName} (h : sel.toNat ≤ 1)
    (hi : index.toNat ≤ 511)
    (hb : (b, letter) =
      if sel = 0 then (s.table.activeBank, s.table.active) else (s.table.stagedBank, s.table.active.other)) :
    listCuesBody sel index s =
      b1 0 ++ b1 letter.code ++ b1 b.rate.code ++ b2 b.cues.length ++ half index
        ++ listOf (fun c : Cue => keyItem c.key) ((b.cues.drop index.toNat).take 16) := by
  unfold listCuesBody selectorIsStaged
  rw [yesNo_of_le_one h]
  dsimp only
  rw [if_neg (by omega), CueTable.bankOfRole_selector, ← hb]
  rfl

theorem cueStateBody_eq {key : WireKey} {s : State} {k : Key} (hk : keyOf key = some k)
    (h : findCue s.cues k ≠ none) :
    cueStateBody key s = b1 0 ++ keyItem k ++ b1 s.table.active.code ++ (List.range 8).flatMap (standingItem s k) := by
  obtain ⟨cue, hc⟩ := Option.ne_none_iff_exists'.mp h
  simp only [cueStateBody, hk, hc]
  rfl

theorem cueStateBody_unknown {key : WireKey} {s : State} {k : Key} (hk : keyOf key = some k)
    (h : findCue s.cues k = none) : cueStateBody key s = [7] := by
  simp only [cueStateBody, hk, h]
  rfl

section
variable {n : Half} {s : State}

theorem readTakeBody_unknown (hn : n ≠ 0) (h : s.log.recordOf n.toNat = none) :
    readTakeBody (.number n) s = 7 :: s.log.countsItem := by
  simp only [readTakeBody, if_neg hn, h]
  rfl

theorem readTakeBody_found {r : TakeRecord} (hn : n ≠ 0) (h : s.log.recordOf n.toNat = some r) :
    readTakeBody (.number n) s = b1 0 ++ r.replyItem ++ s.log.countsItem := by
  simp only [readTakeBody, if_neg hn, h]
  rfl

theorem readTakeBody_allCollected (h : s.log.oldestUncollected = none) :
    readTakeBody .oldestUncollected s = 4 :: s.log.countsItem := by
  simp only [readTakeBody, h]
  rfl

theorem readTakeBody_oldest {r : TakeRecord} (h : s.log.oldestUncollected = some r) :
    readTakeBody .oldestUncollected s = b1 0 ++ r.replyItem ++ s.log.countsItem := by
  simp only [readTakeBody, h]
  rfl

end

theorem readSlotsBody_eq {key : WireKey} {s : State} {k : Key} (hk : keyOf key = some k) :
    readSlotsBody key s =
      b1 0 ++ keyItem k ++ b2 s.slots.length
        ++ listOf (Slot.replyItem s.rate)
          (sortBy (fun a b => decide (a.track < b.track)) (s.slots.filter fun y => decide (y.key = k))) := by
  simp only [readSlotsBody, hk]
  rfl

/-! ### The requests -/

section
variable {tag sel : Byte} {key : WireKey} {index : Half} {which : TakeSelector} {s : State} {body : List Byte}

theorem execReadCue_reads (c : s.canTake (.readCue tag sel key) = true) (h : readCueBody sel key s.taken = body) :
    exec (.readCue tag sel key) s = .next (s.taken.answered 0x97 tag body) :=
  h ▸ request_reads (f := ⟨0x17, tag, sel :: wireKeyItem key⟩) (readCueBody sel key) rfl c

theorem execListCues_reads (c : s.canTake (.listCues tag sel index) = true)
    (h : listCuesBody sel index s.taken = body) :
    exec (.listCues tag sel index) s = .next (s.taken.answered 0x98 tag body) :=
  h ▸ request_reads (f := ⟨0x18, tag, sel :: half index⟩) (listCuesBody sel index) rfl c

theorem execCueState_reads (c : s.canTake (.cueState tag key) = true) (h : cueStateBody key s.taken = body) :
    exec (.cueState tag key) s = .next (s.taken.answered 0x99 tag body) :=
  h ▸ request_reads (f := ⟨0x19, tag, wireKeyItem key⟩) (cueStateBody key) rfl c

theorem execReadTake_reads (c : s.canTake (.readTake tag which) = true) (h : readTakeBody which s.taken = body) :
    exec (.readTake tag which) s = .next (s.taken.answered 0xA3 tag body) :=
  h ▸ request_reads (f := ⟨0x23, tag, selectorPayload which⟩) (readTakeBody which) rfl c

theorem execReadSlots_reads (c : s.canTake (.readSlots tag key) = true) (h : readSlotsBody key s.taken = body) :
    exec (.readSlots tag key) s = .next (s.taken.answered 0xA6 tag body) :=
  h ▸ request_reads (f := ⟨0x26, tag, wireKeyItem key⟩) (readSlotsBody key) rfl c

end

/-! ### Codes and layouts (08 R140, R149; 11 R188) -/

theorem PassReason.passed_code (why : PassReason) : (CueStatus.passed why).code = 4 := rfl

theorem Slot.replyItem_firm {r : Rate} {z : Slot} (h : z.firmness = .firm) :
    z.replyItem r = b1 z.track ++ posItem r z.base ++ posItem r z.fin ++ [1, 0] := by
  simp only [Slot.replyItem, Slot.isProvisional, h, List.append_assoc]
  rfl

theorem Slot.replyItem_provisional {r : Rate} {z : Slot} {i : Nat} (h : z.firmness = .provisional i) :
    z.replyItem r = b1 z.track ++ posItem r z.base ++ posItem r z.fin ++ [0, 1] ++ b1 i := by
  simp only [Slot.replyItem, Slot.isProvisional, h, List.append_assoc]
  rfl

theorem keyItem_plain {k : Key} (h : k.suffix = none) : keyItem k = b2 k.num ++ [0] := by
  simp only [keyItem, Key.suffixCode, h]
  rfl

theorem keyItem_letter {k : Key} {a : Fin 26} (h : k.suffix = some a) : keyItem k = b2 k.num ++ b1 (a.val + 1) := by
  simp only [keyItem, Key.suffixCode, h]

/-- Settles O47: the five requests only read, so each body is read off; then the lookups, the order, the standing and the
layouts. -/
theorem readingRequestsReport : Obligations.ReadingRequestsReport := by
  refine ⟨fun tag sel key index which s => ⟨fun c => ⟨fun h => ?_, fun k b letter hk h hb => ?_⟩,
      fun c => ⟨fun h => ?_, fun b letter h hi hb => ?_⟩, fun c => ⟨fun h => ?_, fun k hk => ⟨fun h => ?_, fun h => ?_⟩⟩,
      fun c counts hcounts => ?_, fun c => ⟨fun h => ?_, fun k hk => ?_⟩⟩,
    fun l n => ⟨l.recordOf_eq_none_iff n, l.oldestUncollected_eq_none_iff, fun older newer r h =>
      ⟨TakeLog.recordOf_first h, TakeLog.oldestUncollected_first h⟩⟩,
    ?_, fun s k n c hc => ⟨standingItem_disabled hc, standingItem_absent hc, ?_⟩,
    fun r c x y z => ⟨rfl, rfl, rfl, Slot.replyItem_firm, fun i => Slot.replyItem_provisional⟩,
    ⟨by decide, PassReason.passed_code, by decide⟩,
    fun r p k t l v items => ⟨rfl, rfl, keyItem_plain, fun a => keyItem_letter, half_toNat v, rfl, rfl, ?_⟩⟩
  · exact execReadCue_reads c (readCueBody_refuses h)
  · exact ⟨fun absent => execReadCue_reads c (readCueBody_unknown (s := s.taken) hk h hb absent),
      fun cue found => execReadCue_reads c (readCueBody_found (s := s.taken) hk h hb found)⟩
  · exact execListCues_reads c (listCuesBody_refuses h)
  · exact execListCues_reads c (listCuesBody_eq (s := s.taken) h hi hb)
  · refine execCueState_reads c ?_
    simp only [cueStateBody, h]
    rfl
  · exact execCueState_reads c (cueStateBody_unknown (s := s.taken) hk h)
  · exact execCueState_reads c (cueStateBody_eq (s := s.taken) hk h)
  · subst hcounts
    refine ⟨?_, ?_, ?_⟩
    · rintro rfl
      exact execReadTake_reads c rfl
    · rintro n hn rfl
      exact ⟨fun absent => execReadTake_reads c (readTakeBody_unknown (s := s.taken) hn absent),
        fun r found => execReadTake_reads c (readTakeBody_found (s := s.taken) hn found)⟩
    · rintro rfl
      exact ⟨fun absent => execReadTake_reads c (readTakeBody_allCollected (s := s.taken) absent),
        fun r found => execReadTake_reads c (readTakeBody_oldest (s := s.taken) found)⟩
  · refine execReadSlots_reads c ?_
    simp only [readSlotsBody, h]
    rfl
  · exact execReadSlots_reads c (readSlotsBody_eq (s := s.taken) hk)
  · rintro l sorted rfl
    exact ⟨sortBy_perm _ l, sortBy_ascending Slot.track l⟩
  · rintro m cue rest e enabled hm hcue bare held rfl
    have key : m.key = k := by simpa using List.find?_some hm
    have earliest : c.earliestOf (s.channelEnv n) m = some e := by
      cases hx : m.copy with
      | none => rw [bare hx, Channel.earliestOf_record hx (by rw [key]; exact hcue)]
      | some x =>
        obtain ⟨st, he⟩ := held x hx
        rw [he, Channel.earliestOf_held hx st, key]
        rfl
    have standing := standingItem_present hc enabled hm hcue earliest
    refine ⟨fun st => ?_, fun st => ?_, fun st => ?_, fun st => ?_, fun why st => ?_⟩ <;>
    · rw [standing, st]
      rfl
  · rw [listOf, List.flatMap_id]

end Sys2Proof.Machine
end

section
/-! What only frees and closes entries of the armed-take table (07 R129, R133): the entries that are left are as they were,
and the pass controller and the transport link stay but for items of the pass in hand. -/

namespace Sys2Proof.Machine

/-! ### The entries of the table (07 R115) -/

theorem Takes.entryAt_setEntry_none {t : Takes} {i j : Nat} {e : TakeEntry}
    (h : (t.setEntry i none).entryAt j = some e) : t.entryAt j = some e := by
  simp only [Takes.entryAt, Takes.setEntry, List.getElem?_set] at h ⊢
  split at h
  · split at h <;> simp at h
  · exact h

theorem Takes.openAt_setEntry_none (t : Takes) (i : Nat) : (t.setEntry i none).openAt i = none := by
  simp only [Takes.openAt, Takes.entryAt, Takes.setEntry, List.getElem?_set_self']
  cases t.entries[i]? <;> rfl

/-- No entry is OPEN exactly when none is at any number of the table. -/
theorem Takes.openCount_eq_zero {t : Takes} (h : ∀ i < t.entries.length, t.openAt i = none) : t.openCount = 0 := by
  rw [Takes.openCount_eq, List.length_eq_zero_iff, List.filter_eq_nil_iff]
  intro e he opened
  obtain ⟨i, hi, get⟩ := List.getElem_of_mem ((t.mem_inUse e).mp he)
  have := h i hi
  simp [Takes.openAt, Takes.entryAt, hi, get, opened] at this

/-! ### Retiring entries -/

/-- The pass controller with the pass in hand changed, if there is one. -/
def PassCtl.editHand (f : PassInHand → PassInHand) (p : PassCtl) : PassCtl := { p with inHand := p.inHand.map f }

@[simp] theorem PassCtl.editHand_id (p : PassCtl) : p.editHand id = p := by
  rw [PassCtl.editHand, Option.map_id]
  rfl

@[simp] theorem PassCtl.editHand_editHand (f g : PassInHand → PassInHand) (p : PassCtl) :
    (p.editHand f).editHand g = p.editHand (g ∘ f) := by
  simp only [PassCtl.editHand, Option.map_map]

theorem PassCtl.editHand_none {p : PassCtl} (h : p.inHand = none) (f : PassInHand → PassInHand) : p.editHand f = p := by
  obtain ⟨_, _, _⟩ := p
  cases h
  rfl

/-- From `s` to `t` entries are at most freed or closed, and with them items of the pass in hand follow. -/
structure Retires (s t : State) : Prop where
  length : t.takes.entries.length = s.takes.entries.length
  entry : ∀ (i : Nat) (e : TakeEntry), t.takes.entryAt i = some e → s.takes.entryAt i = some e
  pass : ∃ f : PassInHand → PassInHand, t.pass = s.pass.editHand f
  transport : t.transport = s.transport

theorem Retires.of {s t : State} (takes : t.takes = s.takes) (pass : t.pass = s.pass)
    (transport : t.transport = s.transport) : Retires s t :=
  ⟨by rw [takes], fun i e h => by rwa [takes] at h, ⟨id, by rw [pass, PassCtl.editHand_id]⟩, transport⟩

theorem Retires.refl (s : State) : Retires s s := .of rfl rfl rfl

theorem Retires.trans {s t u : State} (h : Retires s t) (k : Retires t u) : Retires s u := by
  obtain ⟨f, hf⟩ := h.pass
  obtain ⟨g, hg⟩ := k.pass
  exact ⟨k.length.trans h.length, fun i e x => h.entry i e (k.entry i e x),
    ⟨g ∘ f, by rw [hg, hf, PassCtl.editHand_editHand]⟩, k.transport.trans h.transport⟩

theorem Retires.ite {c : Prop} [Decidable c] {s t u : State} (h : Retires s t) (k : Retires s u) :
    Retires s (if c then t else u) := by
  split
  · exact h
  · exact k

theorem Retires.foldl {α : Type} {f : State → α → State} (h : ∀ (s : State) (x : α), Retires s (f s x)) (l : List α)
    (s : State) : Retires s (l.foldl f s) := by
  induction l generalizing s with
  | nil => exact .refl s
  | cons x l ih => exact (h s x).trans (ih _)

/-- An entry set free, with whatever else changes outside the pass controller and the transport link. -/
theorem Retires.frees {s t : State} {i : Nat} (takes : t.takes.entries = (s.takes.setEntry i none).entries)
    (pass : t.pass = s.pass) (transport : t.transport = s.transport) : Retires s t := by
  refine ⟨by rw [takes]; exact List.length_set, fun j e h => Takes.entryAt_setEntry_none (i := i) ?_,
    ⟨id, by rw [pass, PassCtl.editHand_id]⟩, transport⟩
  rw [Takes.entryAt, ← takes]
  exact h

/-- Items of the pass in hand changed. -/
theorem Retires.inHand {s : State} {h : PassInHand} (hs : s.pass.inHand = some h) (h' : PassInHand) :
    Retires s { s with pass := { s.pass with inHand := some h' } } :=
  ⟨rfl, fun _ _ x => x, ⟨fun _ => h', by rw [PassCtl.editHand, hs]; rfl⟩, rfl⟩

theorem Retires.openAt {s t : State} (h : Retires s t) {i : Nat} (n : s.takes.openAt i = none) :
    t.takes.openAt i = none := by
  rcases he : t.takes.entryAt i with _ | e
  · simp [Takes.openAt, he]
  · have hs := h.entry i e he
    simp only [Takes.openAt, he, hs] at n ⊢
    exact n

theorem Retires.offer (n : Notice) (s : State) : Retires s (offer n s) := .of (by simp) (by simp) (by simp)

theorem Retires.onChannel (n : Nat) (f : Channel → Channel × List Emit) (s : State) : Retires s (onChannel n f s) := by
  unfold Machine.onChannel
  split
  · exact .refl s
  · exact .of (by simp) (by simp) (by simp)

theorem Retires.drawOrder (s : State) : Retires s s.drawOrder.2 := by
  unfold State.drawOrder
  split
  · exact .refl s
  · exact .of rfl rfl rfl

theorem Retires.passArmFreed (i : Nat) (c : FreeCause) (s : State) : Retires s (passArmFreed i c s) := by
  unfold Machine.passArmFreed
  split
  · exact .refl s
  · rename_i h hs
    exact .ite (.inHand hs _) (.refl s)

theorem Retires.passTakeClosed (i n : Nat) (st : TakeStatus) (d : Bool) (s : State) :
    Retires s (passTakeClosed i n st d s) := by
  unfold Machine.passTakeClosed
  split
  · exact .refl s
  · rename_i h hs
    exact .ite (.inHand hs _) (.refl s)

theorem Retires.freeArmed (c : FreeCause) (i : Nat) (s : State) : Retires s (freeArmed c i s) := by
  unfold Machine.freeArmed
  split
  · exact .refl s
  · rename_i e _
    have released : Retires s (releaseEntry i e s) := .frees rfl rfl rfl
    cases c with
    | disarm => exact .ite (released.trans (.passArmFreed i _ _)) released
    | lapse reason =>
      have offered := released.trans (.offer (.armLapsed i e.key e.origin reason) _)
      exact .ite (offered.trans (.passArmFreed i _ _)) offered

theorem Retires.offerReport (rep : Report) (s : State) : Retires s (offerReport rep s) := by
  unfold Machine.offerReport
  split
  · exact .refl s
  · exact .offer _ s

/-- A switch that completes frees every arm, and closes no take (03 R54). -/
theorem Retires.completeSwitch (s : State) : Retires s (completeSwitch s) := by
  have lapsed : Retires s (lapseArms (swapBanks s)) :=
    .trans (t := swapBanks s) (.of rfl rfl rfl) (.foldl (fun s i => .freeArmed (.lapse .bank) i s) _ _)
  have rebuilt : Retires s (rebuildChannels (lapseArms (swapBanks s))) :=
    lapsed.trans ((Retires.drawOrder _).trans (.foldl (fun s b => .onChannel _ _ s) _ _))
  have silenced (u : State) : Retires u (silenceForSwitch u) :=
    .trans (t := { u with tracker := (concludeChange u.rate u.tracker u.tracker.toSilent .none).1 }) (.of rfl rfl rfl)
      (.foldl (fun s rep => .offerReport rep s) _ _)
  have restarted (r : Rate) (u : State) : Retires u (restartAtRate r u) :=
    .ite (.refl u) ((silenced u).trans (.of rfl rfl rfl))
  exact (rebuilt.trans (restarted _ _)).trans (.offer _ _)

theorem Retires.testSafePoint (s : State) : Retires s (testSafePoint s) := .ite (.completeSwitch s) (.refl s)

/-- A close of an entry, which is then not OPEN (07 R129). -/
theorem Retires.closeEntry (st : TakeStatus) (pos i : Nat) (s : State) :
    Retires s (closeEntry st pos i s) ∧ (closeEntry st pos i s).takes.openAt i = none := by
  unfold Machine.closeEntry
  split
  · rename_i shut
    exact ⟨.refl s, shut⟩
  · rename_i e _
    have written : Retires s (writeClose st pos i e s) := .frees rfl rfl rfl
    have shut : (writeClose st pos i e s).takes.openAt i = none := s.takes.openAt_setEntry_none i
    have offered := Retires.offer (.take s.log.nextNumber e.key st pos e.origin e.passNumber e.disarmAfter)
      (writeClose st pos i e s)
    have told := offered.trans (.ite (c := e.origin = .pass) (.passTakeClosed i s.log.nextNumber st e.disarmAfter _) (.refl _))
    have tested := told.trans (.testSafePoint _)
    exact ⟨written.trans tested, tested.openAt shut⟩

theorem Retires.closeEntries (st : TakeStatus) (pos : Nat) (l : List Nat) (s : State) :
    Retires s (l.foldl (fun s i => Machine.closeEntry st pos i s) s)
      ∧ ∀ i ∈ l, (l.foldl (fun s i => Machine.closeEntry st pos i s) s).takes.openAt i = none := by
  induction l generalizing s with
  | nil => exact ⟨.refl s, by simp⟩
  | cons j l ih =>
    obtain ⟨first, shut⟩ := Retires.closeEntry st pos j s
    obtain ⟨rest, shuts⟩ := ih (Machine.closeEntry st pos j s)
    refine ⟨first.trans rest, fun i hi => ?_⟩
    rcases List.mem_cons.mp hi with rfl | hi
    · exact rest.openAt shut
    · exact shuts i hi

/-- Every OPEN entry of the four is closed (07 R128 to R130). -/
theorem closeAllOpen_openAt {s : State} (st : TakeStatus) (pos : Nat) {i : Nat} (h : i < 4) :
    (closeAllOpen st pos s).takes.openAt i = none :=
  (Retires.closeEntries st pos entryNumbers s).2 i (List.mem_range.mpr h)

theorem Retires.closeAllOpen (st : TakeStatus) (pos : Nat) (s : State) : Retires s (closeAllOpen st pos s) :=
  (Retires.closeEntries st pos entryNumbers s).1

theorem Retires.freePassArm (s : State) : Retires s (freePassArm s) := by
  unfold Machine.freePassArm
  split
  · exact .refl s
  · exact .freeArmed _ _ s

/-! ### Aborts (09 R166) -/

/-- Entry to IDLE, with the test of the safe point that it brings (09 R166 step 5). -/
theorem enterIdle_leaves (s : State) :
    (enterIdle s).pass = { s.pass with state := .idle, inHand := none, deadline := none }
      ∧ (enterIdle s).transport = s.transport ∧ (enterIdle s).takes.entries.length = s.takes.entries.length
      ∧ ∀ i : Nat, s.takes.openAt i = none → (enterIdle s).takes.openAt i = none := by
  have tested : Retires { s with pass := { s.pass with state := .idle, inHand := none, deadline := none } } (enterIdle s) :=
    .testSafePoint _
  obtain ⟨f, hf⟩ := tested.pass
  exact ⟨hf.trans (PassCtl.editHand_none rfl f), tested.transport, tested.length, fun i shut => tested.openAt shut⟩

/-- An abort with a pass in hand, from the state `u` that its closes and its freed arm leave (09 R166 steps 3 to 6). -/
theorem abortPass_eq {s u : State} {h : PassInHand} {reason : PassEnd} (refusal : Option ResultCode)
    (hu : freePassArm (closeAllOpen reason.closeStatus s.tracker.head s) = u) (held : u.pass.inHand = some h) :
    ∃ n : Notice,
      abortPass reason refusal s =
        if reason.stops then sendAbortStop (enterIdle (offer n { u with pass := { u.pass with queued := none } }))
        else enterIdle (offer n { u with pass := { u.pass with queued := none } }) := by
  unfold abortPass
  rw [hu]
  dsimp only
  split
  · rename_i absent
    rw [held] at absent
    cases absent
  · exact ⟨_, rfl⟩

/-- What an abort leaves: nothing in hand or queued, no OPEN entry, and a STOP wanted by its reason (09 R166). -/
theorem abortPass_leaves {s : State} {h : PassInHand} (reason : PassEnd) (refusal : Option ResultCode)
    (hs : s.pass.inHand = some h) (entries : s.takes.entries.length = 4) :
    (abortPass reason refusal s).pass = { s.pass with state := .idle, inHand := none, queued := none, deadline := none }
      ∧ (abortPass reason refusal s).takes.openCount = 0
      ∧ (abortPass reason refusal s).transport =
          if reason.stops then s.transport.send { kind := .stop, text := stopText, owner := none }
          else s.transport := by
  have freed := Retires.freePassArm (closeAllOpen reason.closeStatus s.tracker.head s)
  generalize hu : freePassArm (closeAllOpen reason.closeStatus s.tracker.head s) = u at freed
  have ends : Retires s u := (Retires.closeAllOpen _ _ s).trans freed
  obtain ⟨f, hf⟩ := ends.pass
  have held : u.pass.inHand = some (f h) := by rw [hf, PassCtl.editHand, hs]; rfl
  obtain ⟨n, eq⟩ := abortPass_eq refusal hu held
  obtain ⟨pass, transport, length, shut⟩ := enterIdle_leaves (offer n { u with pass := { u.pass with queued := none } })
  generalize enterIdle (offer n { u with pass := { u.pass with queued := none } }) = v at eq pass transport length shut
  simp only [offer_pass, offer_transport, offer_takes] at pass transport length shut
  have pass : v.pass = { s.pass with state := .idle, inHand := none, queued := none, deadline := none } := by
    rw [pass, hf]
    rfl
  have opened : v.takes.openCount = 0 := by
    refine Takes.openCount_eq_zero fun i hi => shut i (freed.openAt (closeAllOpen_openAt _ _ ?_))
    rwa [length, ends.length, entries] at hi
  rw [eq]
  cases reason.stops with
  | true => exact ⟨pass, opened, by rw [← ends.transport, ← transport]; rfl⟩
  | false => exact ⟨pass, opened, transport.trans ends.transport⟩

/-! ### Fields of START_PASS (09 R154) -/

theorem testField_eq_none_iff {α β : Type} (test : α → Option β) (v : Option α) :
    testField test v = none ↔ ∃ x, v = some x ∧ test x = none := by
  cases v <;> simp [testField]

theorem testField_eq_some {α β : Type} {test : α → Option β} {v : Option α} {u : Option β}
    (h : testField test v = some u) : u = v.bind test := by
  cases v with
  | none => cases h; rfl
  | some x =>
    obtain ⟨y, hy, rfl⟩ := Option.map_eq_some_iff.mp h
    exact hy.symm

theorem PassMode.ofCode_eq (n : Nat) : PassMode.ofCode n = [PassMode.single, .cycle, .run, .locate][n]? :=
  match n with
  | 0 => rfl
  | 1 => rfl
  | 2 => rfl
  | 3 => rfl
  | _ + 4 => rfl

theorem PassMode.ofCode_eq_none_iff (n : Nat) : PassMode.ofCode n = none ↔ 3 < n := by
  rw [PassMode.ofCode_eq, List.getElem?_eq_none_iff]
  exact Iff.rfl

/-- A START_PASS whose fields pass their tests, made of what each field reads as (09 R154 test 1). -/
theorem passFields_eq_some {r : Rate} {x : PassItems} {q : PassRequest} (h : passFields r x = some q) :
    ∃ (mode : PassMode) (record queue : Bool),
      PassMode.ofCode x.mode.toNat = some mode ∧ yesNo x.record = some record ∧ yesNo x.queue = some queue
        ∧ q =
            { pass :=
                { mode, first := x.first.bind keyOf, last := x.last.bind keyOf,
                  target := (x.target.bind (posField r)).map Prod.fst, cycles := min x.cycles.toNat 99, record },
              queue,
              adjusted :=
                ((x.target.bind (posField r)).map Prod.snd).getD false
                  || (decide (mode = .cycle) && decide (99 < x.cycles.toNat)) } := by
  simp only [passFields, Option.bind_eq_bind, Option.bind_eq_some_iff, Option.pure_def, Option.some.injEq] at h
  obtain ⟨mode, hmode, first, hfirst, last, hlast, target, htarget, record, hrecord, queue, hqueue, rfl⟩ := h
  obtain rfl := testField_eq_some hfirst
  obtain rfl := testField_eq_some hlast
  obtain rfl := testField_eq_some htarget
  exact ⟨mode, record, queue, hmode, hrecord, hqueue, rfl⟩

theorem passFields_eq_none_iff (r : Rate) (x : PassItems) :
    passFields r x = none ↔
      3 < x.mode.toNat ∨ (∃ w : WireKey, (x.first = some w ∨ x.last = some w) ∧ keyOf w = none)
        ∨ (∃ w : WirePos, x.target = some w ∧ posField r w = none) ∨ 1 < x.record.toNat ∨ 1 < x.queue.toNat := by
  have keys : (∃ w : WireKey, (x.first = some w ∨ x.last = some w) ∧ keyOf w = none) ↔
      testField keyOf x.first = none ∨ testField keyOf x.last = none := by
    simp only [testField_eq_none_iff, or_and_right, exists_or]
  rw [keys, ← testField_eq_none_iff, ← PassMode.ofCode_eq_none_iff, ← yesNo_eq_none_iff, ← yesNo_eq_none_iff]
  unfold passFields
  cases PassMode.ofCode x.mode.toNat with
  | none => simp
  | some mode =>
    cases testField keyOf x.first with
    | none => simp
    | some first =>
      cases testField keyOf x.last with
      | none => simp
      | some last =>
        cases testField (posField r) x.target with
        | none => simp
        | some target =>
          cases yesNo x.record with
          | none => simp
          | some record => cases yesNo x.queue <;> simp

theorem passFields_reads {r : Rate} {x : PassItems} {q : PassRequest} (h : passFields r x = some q) :
    [PassMode.single, .cycle, .run, .locate][x.mode.toNat]? = some q.pass.mode
      ∧ q.pass.first = x.first.bind keyOf ∧ q.pass.last = x.last.bind keyOf
      ∧ q.pass.target = (x.target.bind (posField r)).map Prod.fst
      ∧ q.pass.cycles = min x.cycles.toNat 99
      ∧ (q.pass.record = true ↔ x.record = 1) ∧ (q.queue = true ↔ x.queue = 1)
      ∧ (q.adjusted = true ↔
          (∃ (w : WirePos) (a : Nat), x.target = some w ∧ posField r w = some (a, true))
            ∨ (q.pass.mode = .cycle ∧ 99 < x.cycles.toNat)) := by
  obtain ⟨mode, record, queue, hmode, hrecord, hqueue, rfl⟩ := passFields_eq_some h
  have moved : ((x.target.bind (posField r)).map Prod.snd).getD false = true ↔
      ∃ (w : WirePos) (a : Nat), x.target = some w ∧ posField r w = some (a, true) := by
    cases x.target with
    | none => simp
    | some w => rcases hw : posField r w with _ | ⟨a, m⟩ <;> simp [hw]
  refine ⟨(PassMode.ofCode_eq _).symm.trans hmode, rfl, rfl, rfl, rfl, yesNo_eq_some hrecord, yesNo_eq_some hqueue, ?_⟩
  simp only [Bool.or_eq_true, Bool.and_eq_true, decide_eq_true_eq, moved]

/-! ### The tests of a pass (09 R154) -/

theorem QueuedPass.forbidden_iff (q : QueuedPass) :
    q.forbidden = true ↔
      (q.record = true ∧ (q.mode = .run ∨ q.mode = .locate)) ∨ (q.last ≠ none ∧ q.mode ≠ .run)
        ∨ (q.first = none ∧ q.mode ≠ .locate) ∨ (q.last = none ∧ q.mode = .run)
        ∨ (q.target = none ∧ q.mode = .locate) ∨ (q.target ≠ none ∧ q.mode ≠ .locate)
        ∨ (q.first ≠ none ∧ q.mode = .locate) := by
  simp only [QueuedPass.forbidden, Bool.or_eq_true, Bool.and_eq_true, decide_eq_true_eq, Option.isSome_iff_ne_none,
    Option.isNone_iff_eq_none, or_assoc]

theorem State.keyPresent_eq_false_iff (s : State) (k : Option Key) :
    s.keyPresent k = false ↔ ∃ x, k = some x ∧ findCue s.cues x = none := by
  cases k <;> simp [State.keyPresent]

theorem State.runBackward_iff (s : State) (mode : PassMode) (first last : Option Key) :
    s.runBackward mode first last = true ↔
      mode = .run ∧ ∃ a b : Key, first = some a ∧ last = some b ∧ indexOfKey b s.cues < indexOfKey a s.cues := by
  cases mode with
  | run => cases first <;> cases last <;> simp [State.runBackward]
  | _ => simp [State.runBackward]

/-- A pass that no test refuses passes each, and a refused one is refused by the first that fails. -/
theorem State.passRefusal_cases (s : State) (q : QueuedPass) :
    (q.forbidden = true → s.passRefusal q = some .mode)
      ∧ (q.forbidden = false → s.keyPresent q.first = false ∨ s.keyPresent q.last = false →
          s.passRefusal q = some .unknownKey)
      ∧ (q.forbidden = false → s.keyPresent q.first = true → s.keyPresent q.last = true →
          s.passRefusal q = if s.runBackward q.mode q.first q.last then some .mode else none) := by
  unfold State.passRefusal
  refine ⟨fun h => if_pos h, fun h k => ?_, fun h k l => ?_⟩
  · rw [h]
    rcases k with k | k <;> simp [k]
  · simp [h, k, l]

theorem State.passRefusal_code {s : State} {q : QueuedPass} {c : ResultCode} (h : s.passRefusal q = some c) :
    c = .mode ∨ c = .unknownKey := by
  unfold State.passRefusal at h
  split at h
  · cases h
    exact .inl rfl
  · split at h
    · cases h
      exact .inr rfl
    · split at h <;> cases h
      exact .inl rfl

/-! ### The place of a key and the points of a pass (03 R45, 09 R157) -/

theorem indexOfKey_first {cues before after : List Cue} {k : Key} {c : Cue} (h : cues = before ++ c :: after)
    (hc : c.key = k) (no : ∀ d ∈ before, d.key ≠ k) : indexOfKey k cues = before.length := by
  subst h
  unfold indexOfKey
  rw [List.findIdx_append, List.findIdx_eq_length_of_false fun d hd => by simp [no d hd]]
  simp [List.findIdx_cons, hc]

theorem State.inPointOf_found {s : State} {k : Key} {c : Cue} (h : findCue s.cues k = some c) :
    s.inPointOf (some k) = c.inPt := by
  simp [State.inPointOf, h]

theorem State.outPointOf_found {s : State} {k : Key} {c : Cue} (h : findCue s.cues k = some c) :
    s.outPointOf (some k) = c.outPt := by
  simp [State.outPointOf, h]

/-! ### The requests -/

theorem startPassPerform_range {x : PassItems} {s : State} (h : passFields s.rate x = none) :
    startPassPerform x s = refuse .range s := by
  simp only [startPassPerform, h]

section
variable {x : PassItems} {s : State} {q : PassRequest} (h : passFields s.rate x = some q)
include h

theorem startPassPerform_refused {c : ResultCode} (k : s.passRefusal q.pass = some c) :
    startPassPerform x s = refuse c s := by
  simp only [startPassPerform, h, k]

theorem startPassPerform_starts (k : s.passRefusal q.pass = none) (st : s.pass.state = .idle) :
    startPassPerform x s = startNow q s := by
  simp only [startPassPerform, h, k, if_pos st]

theorem startPassPerform_queues (k : s.passRefusal q.pass = none) (st : s.pass.state ≠ .idle) (asked : q.queue = true)
    (room : s.pass.queued = none) :
    startPassPerform x s =
      ({ s with pass := { s.pass with queued := some q.pass } }, (okOr q.adjusted).item ++ flag true) := by
  simp only [startPassPerform, h, k, if_neg st, if_pos (And.intro asked room)]

theorem startPassPerform_busy (k : s.passRefusal q.pass = none) (st : s.pass.state ≠ .idle)
    (full : q.queue = false ∨ s.pass.queued ≠ none) : startPassPerform x s = refuse .busy s := by
  have no : ¬ (q.queue = true ∧ s.pass.queued = none) := by
    rintro ⟨asked, room⟩
    rcases full with f | f
    · exact absurd (f.symm.trans asked) (by decide)
    · exact f room
  simp only [startPassPerform, h, k, if_neg st, if_neg no]

end

section
variable {tag : Byte} {x : PassItems} {s t : State} {body : List Byte}

theorem execStartPass_answers (c : s.canTake (.startPass tag x) = true) (p : startPassPerform x s.taken = (t, body)) :
    exec (.startPass tag x) s = .next (t.answered 0xB0 tag body) :=
  request_answers (f := ⟨0x30, tag, passPayload x⟩) rfl c p

theorem execStopCycle_answers (c : s.canTake (.stopCycle tag) = true) (p : stopCyclePerform s.taken = (t, body)) :
    exec (.stopCycle tag) s = .next (t.answered 0xB1 tag body) :=
  request_answers (f := ⟨0x31, tag, []⟩) rfl c p

theorem execAbandonPass_answers (c : s.canTake (.abandonPass tag) = true)
    (p : abandonPassPerform s.taken = (t, body)) :
    exec (.abandonPass tag) s = .next (t.answered 0xB2 tag body) :=
  request_answers (f := ⟨0x32, tag, []⟩) rfl c p

end

/-- Settles O55: the tests and ends of START_PASS, STOP_CYCLE and ABANDON_PASS with a pass in hand and without, then the
tests and the points spelled out. -/
theorem passRequestsAct : Obligations.PassRequestsAct := by
  refine ⟨fun tag x s => ⟨fun c => ⟨fun bad => ?_, fun q hq => ⟨fun code h => ?_, fun h => ⟨?_, ?_, ?_⟩⟩⟩,
      fun idle => ⟨fun c => ?_, fun c => ?_⟩, fun hand hh => ⟨fun c => ?_, fun c entries => ?_⟩⟩,
    fun r x => ⟨passFields_eq_none_iff r x, fun q => passFields_reads⟩, fun s q forbidden absent backward hf ha hb => ?_,
    fun q => ⟨rfl, rfl, rfl, rfl, rfl, rfl, rfl, rfl, rfl, rfl, rfl⟩, fun _ _ _ _ _ => indexOfKey_first,
    fun s first last target => ⟨fun k cue hk hcue => ⟨fun mode hm => ?_, fun j d hj hd => ?_⟩, ?_⟩⟩
  · exact execStartPass_answers c (startPassPerform_range (s := s.taken) bad)
  · exact ⟨State.passRefusal_code h, execStartPass_answers c (startPassPerform_refused (s := s.taken) hq h)⟩
  · intro st start stop points
    have now : startPassPerform x s.taken = startNow q s.taken := startPassPerform_starts (s := s.taken) hq h st
    have same : s.taken.passPoints q.pass.mode q.pass.first q.pass.last q.pass.target = (start, stop) := points
    refine execStartPass_answers c (now.trans ?_)
    rw [startNow, same, okOr_item]
    rfl
  · intro st asked room
    rw [← okOr_item]
    exact execStartPass_answers c (startPassPerform_queues (s := s.taken) hq h st asked room)
  · intro st full
    exact execStartPass_answers c (startPassPerform_busy (s := s.taken) hq h st full)
  · refine execStopCycle_answers c ?_
    simp only [stopCyclePerform, taken_pass, idle]
    rfl
  · refine execAbandonPass_answers c ?_
    simp only [abandonPassPerform, taken_pass, idle]
    rfl
  · refine execStopCycle_answers c ?_
    simp only [stopCyclePerform, taken_pass, hh]
    rfl
  · obtain ⟨pass, opened, transport⟩ := abortPass_leaves (s := s.taken) .abandoned none hh entries
    refine ⟨abortPass .abandoned none s.taken, by rw [pass], by rw [pass], by rw [pass], by rw [pass], by rw [pass]; rfl,
      opened, transport, rfl, execAbandonPass_answers c ?_⟩
    simp only [abandonPassPerform, taken_pass, hh]
    rfl
  · rw [← QueuedPass.forbidden_iff] at hf
    rw [← State.runBackward_iff] at hb
    have ha : absent ↔ s.keyPresent q.first = false ∨ s.keyPresent q.last = false := by
      simp only [ha, State.keyPresent_eq_false_iff, or_and_right, exists_or]
    obtain ⟨mode, unknown, order⟩ := s.passRefusal_cases q
    simp only [hf, ha, hb, not_or, Bool.not_eq_false, Bool.not_eq_true]
    exact ⟨mode, unknown, fun n ⟨k, l⟩ b => (order n k l).trans (if_pos b),
      fun n ⟨k, l⟩ b => (order n k l).trans (if_neg (by simp [b]))⟩
  · subst hk
    rcases hm with rfl | rfl <;>
    · simp only [State.passPoints, State.inPointOf_found hcue, State.outPointOf_found hcue]
      rfl
  · subst hk hj
    simp only [State.passPoints, State.inPointOf_found hcue, State.outPointOf_found hd]
    rfl
  · rintro a rfl
    rfl

end Sys2Proof.Machine
end

section
/-! UPDATE_CUE (03 R56 to R58): the fields selected, the record they make, and how the edit reaches the active bank, the
channels and the armed takes. -/

namespace Sys2Proof.Machine

/-! ### The field-select set (03 R56) -/

theorem append_ofBool_eq_zero_iff {n : Nat} (x : BitVec n) (b : Bool) :
    x ++ BitVec.ofBool b = 0#(n + 1) ↔ x = 0#n ∧ b = false := by
  have bit : BitVec.ofBool b = 0#1 ↔ b = false := by cases b <;> decide
  rw [← bit]
  simp only [← BitVec.toNat_inj, BitVec.toNat_append, BitVec.toNat_ofNat, Nat.zero_mod, Nat.or_eq_zero_iff,
    Nat.shiftLeft_eq_zero_iff]

theorem editSelectSet_eq_zero_iff (e : CueEdit) :
    editSelectSet e = 0 ↔
      e.extraFlags = 0 ∧ e.text = none ∧ e.tracks = none ∧ e.punch = none ∧ e.interval = none ∧ e.beeps = none
        ∧ e.streamer = none ∧ e.outPt = none ∧ e.inPt = none ∧ e.tag = none := by
  change editSelectSet e = 0#(7 + 1 + 1 + 1 + 1 + 1 + 1 + 1 + 1 + 1) ↔ _
  unfold editSelectSet
  simp only [append_ofBool_eq_zero_iff, Option.isSome_eq_false_iff, Option.isNone_iff_eq_none, and_assoc]
  exact Iff.rfl

/-- An edit selects nothing exactly when it has no field and no further flag. -/
theorem editSelectsNothing_iff (e : CueEdit) :
    editSelectsNothing e = true ↔
      e = { extraFlags := 0, tag := none, inPt := none, outPt := none, streamer := none, beeps := none,
            interval := none, punch := none, tracks := none, text := none } := by
  refine decide_eq_true_iff.trans ((editSelectSet_eq_zero_iff e).trans ⟨?_, ?_⟩)
  · obtain ⟨extra, tag, inPt, outPt, streamer, beeps, interval, punch, tracks, text⟩ := e
    rintro ⟨rfl, rfl, rfl, rfl, rfl, rfl, rfl, rfl, rfl, rfl⟩
    rfl
  · rintro rfl
    exact ⟨rfl, rfl, rfl, rfl, rfl, rfl, rfl, rfl, rfl, rfl⟩

/-! ### The tests of the fields (03 R44, R56) -/

theorem editFields_eq_none_iff (r : Rate) (x : CueEdit) :
    editFields r x = none ↔
      x.extraFlags ≠ 0 ∨ (∃ w : WirePos, (x.inPt = some w ∨ x.outPt = some w) ∧ posField r w = none)
        ∨ ∃ b : Byte, x.punch = some b ∧ 1 < b.toNat := by
  have points : (∃ w : WirePos, (x.inPt = some w ∨ x.outPt = some w) ∧ posField r w = none) ↔
      testField (posField r) x.inPt = none ∨ testField (posField r) x.outPt = none := by
    simp only [testField_eq_none_iff, or_and_right, exists_or]
  have punch : (∃ b : Byte, x.punch = some b ∧ 1 < b.toNat) ↔ testField yesNo x.punch = none := by
    simp only [testField_eq_none_iff, yesNo_eq_none_iff]
  rw [points, punch]
  unfold editFields
  by_cases flags : x.extraFlags = 0
  · rw [if_pos flags]
    cases testField (posField r) x.inPt with
    | none => simp
    | some i =>
      cases testField (posField r) x.outPt with
      | none => simp
      | some o => cases testField yesNo x.punch <;> simp [flags]
  · exact iff_of_true (if_neg flags) (.inl flags)

/-- The fields of an edit that passed their tests are what each reads as. -/
theorem editFields_eq_some {r : Rate} {x : CueEdit} {f : EditFields} (h : editFields r x = some f) :
    testField (posField r) x.inPt = some f.inPt ∧ testField (posField r) x.outPt = some f.outPt
      ∧ testField yesNo x.punch = some f.punch := by
  unfold editFields at h
  split at h
  · split at h
    · rename_i i o p hi ho hp
      cases h
      exact ⟨hi, ho, hp⟩
    · cases h
  · cases h

theorem testField_present {α β : Type} {test : α → Option β} {v : Option α} {u : Option β} {x : α}
    (h : testField test v = some u) (hv : v = some x) : ∃ y, test x = some y ∧ u = some y := by
  subst hv
  obtain ⟨y, hy, rfl⟩ := Option.map_eq_some_iff.mp h
  exact ⟨y, hy, rfl⟩

theorem testField_absent {α β : Type} {test : α → Option β} {v : Option α} {u : Option β}
    (h : testField test v = some u) (hv : v = none) : u = none := by
  subst hv
  cases h
  rfl

/-! ### One field of an edit -/

/-- A selected position is read as LOAD_CUE's is, and an unselected one is kept. -/
theorem editPoint_cases {r : Rate} {v : Option WirePos} {u : Option (Nat × Bool)} {old : Nat}
    (h : testField (posField r) v = some u) :
    (v = none → (u.getD (old, false)).1 = old)
      ∧ (∀ w : WirePos, v = some w → ∃ moved : Bool, posField r w = some ((u.getD (old, false)).1, moved))
      ∧ ((u.getD (old, false)).2 = true ↔ ∃ (w : WirePos) (a : Nat), v = some w ∧ posField r w = some (a, true)) := by
  cases v with
  | none =>
    obtain rfl := testField_absent h rfl
    simp
  | some w =>
    obtain ⟨⟨a, moved⟩, hw, rfl⟩ := testField_present h rfl
    simp [hw]

theorem editPunch_cases {v : Option Byte} {u : Option Bool} {old : Bool} (h : testField yesNo v = some u) :
    (v = none → u.getD old = old) ∧ ∀ b : Byte, v = some b → (u.getD old = true ↔ b = 1) := by
  cases v with
  | none =>
    obtain rfl := testField_absent h rfl
    simp
  | some b =>
    obtain ⟨on, hb, rfl⟩ := testField_present h rfl
    refine ⟨by simp, ?_⟩
    rintro _ ⟨⟩
    exact yesNo_eq_some hb

section
variable (f : EditFields) (x : CueEdit) (c : Cue)

theorem applyEdit_streamer :
    (x.streamer = none → (applyEdit f x c).1.streamer = c.streamer)
      ∧ ∀ b : Byte, x.streamer = some b →
          (applyEdit f x c).1.streamer = if b.toNat = 0 then 0 else max 8 (min b.toNat 120) := by
  refine ⟨fun h => ?_, fun b h => ?_⟩
  · simp only [applyEdit, h]
  · simp only [applyEdit, h, storeStreamer_value]

theorem applyEdit_text :
    (x.text = none → (applyEdit f x c).1.text = c.text)
      ∧ ∀ t : Option (List Byte), x.text = some t → (applyEdit f x c).1.text = (storeText t).1 := by
  refine ⟨fun h => ?_, fun t h => ?_⟩ <;> simp only [applyEdit, h]

theorem applyEdit_tag :
    (x.tag = none → (applyEdit f x c).1.tag = c.tag) ∧ ∀ v : Half, x.tag = some v → (applyEdit f x c).1.tag = v := by
  refine ⟨fun h => ?_, fun v h => ?_⟩ <;> simp only [applyEdit, h] <;> rfl

theorem applyEdit_tracks :
    (x.tracks = none → (applyEdit f x c).1.tracks = c.tracks)
      ∧ ∀ v : Half, x.tracks = some v → (applyEdit f x c).1.tracks = v := by
  refine ⟨fun h => ?_, fun v h => ?_⟩ <;> simp only [applyEdit, h] <;> rfl

end

/-- ADJUSTED needs a selected field that was clamped, cut, replaced or moved (03 R44, R56). -/
theorem applyEdit_adjusted_iff {r : Rate} {x : CueEdit} {f : EditFields} (h : editFields r x = some f) (c : Cue) :
    (applyEdit f x c).2 = true ↔
      (∃ (w : WirePos) (a : Nat), (x.inPt = some w ∨ x.outPt = some w) ∧ posField r w = some (a, true))
        ∨ (∃ b : Byte, x.streamer = some b ∧ (0 < b.toNat ∧ b.toNat < 8 ∨ 120 < b.toNat))
        ∨ (∃ b : Byte, x.beeps = some b ∧ 4 < b.toNat)
        ∨ (∃ b : Byte, x.interval = some b ∧ (b.toNat < 6 ∨ 50 < b.toNat))
        ∨ ∃ t : Option (List Byte), x.text = some t ∧ (storeText t).2 = true := by
  obtain ⟨hin, hout, -⟩ := editFields_eq_some h
  obtain ⟨-, -, movedIn⟩ := editPoint_cases (old := c.inPt) hin
  obtain ⟨-, -, movedOut⟩ := editPoint_cases (old := c.outPt) hout
  simp only [applyEdit, Bool.or_eq_true, or_assoc, movedIn, movedOut, clampField_zero_adjusted_iff,
    clampField_adjusted_iff (lo := 6), or_and_right, exists_or]
  refine or_congr_right (or_congr_right (or_congr ?_ (or_congr_right (or_congr_right ?_))))
  · cases x.streamer <;> simp [storeStreamer_adjusted_iff]
  · cases x.text <;> simp

/-! ### A cue in use (03 R58) -/

theorem Channel.isActive_iff (k : Key) (c : Channel) :
    c.isActive k = true ↔ ∃ m : MapEntry, c.entryOf k = some m ∧ m.status = .active := by
  unfold Channel.isActive
  cases c.entryOf k <;> simp [CueStatus.isActive]

theorem State.cueInUse_iff (s : State) (k : Key) :
    s.cueInUse k = true ↔
      (∃ c ∈ s.channels, ∃ m : MapEntry, c.map.find? (fun x => decide (x.key = k)) = some m ∧ m.status = .active)
        ∨ ∃ e ∈ s.takes.inUse, e.opened = true ∧ e.key = k := by
  simp only [State.cueInUse, Bool.or_eq_true, List.any_eq_true, Channel.isActive_iff, Bool.and_eq_true,
    decide_eq_true_eq, Channel.entryOf]

/-! ### The edit on a channel (03 R57) -/

section
variable {env : ChannelEnv} {p : Nat} {old new : Cue} {c : Channel}

theorem Channel.takeEdit_disabled (h : c.settings.enabled = false) : c.takeEdit env p old new = c := by
  simp [Channel.takeEdit, h]

/-- An edit of a cue that the channel accepts and lacks: it joins the map, classified as at a rebuild. -/
theorem Channel.takeEdit_joins (h : c.settings.enabled = true) (acc : c.acceptsTag new.tag = true)
    (no : c.entryOf new.key = none) :
    c.takeEdit env p old new =
      Channel.expand env p { c with map := c.map ++ [freshEntry new c.settings.textLead p] } := by
  simp only [Channel.takeEdit, h, acc, no, Bool.not_true, Bool.false_eq_true, if_false, if_true]

/-- An edit of an accepted cue that waits or is queued: it is classified anew. -/
theorem Channel.takeEdit_renews {m : MapEntry} (h : c.settings.enabled = true) (acc : c.acceptsTag new.tag = true)
    (hm : c.entryOf new.key = some m) (st : m.status = .waiting ∨ m.status = .queued) :
    c.takeEdit env p old new =
      Channel.expand env p
        { c with
          map := setStatus new.key (classified (earliestPoint new c.settings.textLead) p) none c.map,
          schedule := dropEntries new.key c.schedule } := by
  rcases st with st | st <;>
    simp only [Channel.takeEdit, h, acc, hm, st, Bool.not_true, Bool.false_eq_true, if_false, if_true]

theorem Channel.takeEdit_stays {m : MapEntry} (h : c.settings.enabled = true) (acc : c.acceptsTag new.tag = true)
    (hm : c.entryOf new.key = some m) (st : m.status ≠ .waiting) (st' : m.status ≠ .queued) :
    c.takeEdit env p old new = c := by
  simp only [Channel.takeEdit, h, acc, hm, Bool.not_true, Bool.false_eq_true, if_false, if_true]

/-- An edit that the channel does not accept, of a cue it did not accept or lacks. -/
theorem Channel.takeEdit_outside (h : c.settings.enabled = true) (acc : c.acceptsTag new.tag = false)
    (no : c.acceptsTag old.tag = false ∨ c.entryOf new.key = none) : c.takeEdit env p old new = c := by
  simp only [Channel.takeEdit, h, acc, Bool.not_true, Bool.false_eq_true, if_false]
  rcases no with no | no
  · simp [no]
  · simp [no]

/-- An edit that takes an accepted cue from the channel: an ACTIVE one stays, any other leaves map and schedule. -/
theorem Channel.takeEdit_leaves {m : MapEntry} (h : c.settings.enabled = true) (acc : c.acceptsTag new.tag = false)
    (was : c.acceptsTag old.tag = true) (hm : c.entryOf new.key = some m) :
    c.takeEdit env p old new =
      if m.status.isActive then c
      else { c with map := dropStatus new.key c.map, schedule := dropEntries new.key c.schedule } := by
  simp only [Channel.takeEdit, h, acc, was, hm, Bool.not_true, Bool.false_eq_true, if_false, if_true]

end

/-! ### The edit of an armed take (07 R134) -/

/-- A slot as the new windows of some tracks of a key leave it. -/
def Slot.respan (k : Key) (tracks : List Nat) (lo hi : Nat) (y : Slot) : Slot :=
  if y.key = k ∧ y.track ∈ tracks ∧ y.isProvisional = true then { y with base := lo, fin := hi } else y

theorem replaceSpan_eq (k : Key) (track lo hi : Nat) (slots : List Slot) :
    replaceSpan k track lo hi slots = slots.map (Slot.respan k [track] lo hi) := by
  unfold replaceSpan
  refine List.map_congr_left fun y _ => ?_
  simp only [Slot.respan, Slot.isFor, Bool.and_eq_true, decide_eq_true_eq, List.mem_singleton, and_assoc]

theorem Slot.respan_respan (k : Key) (t : Nat) (ts : List Nat) (lo hi : Nat) (y : Slot) :
    (y.respan k [t] lo hi).respan k ts lo hi = y.respan k (t :: ts) lo hi := by
  by_cases first : y.key = k ∧ y.track = t ∧ y.isProvisional = true
  · obtain ⟨hk, ht, hp⟩ := first
    have once : y.respan k [t] lo hi = { y with base := lo, fin := hi } := if_pos ⟨hk, by simp [ht], hp⟩
    have all : y.respan k (t :: ts) lo hi = { y with base := lo, fin := hi } := if_pos ⟨hk, by simp [ht], hp⟩
    rw [once, all, Slot.respan]
    split <;> rfl
  · have once : y.respan k [t] lo hi = y := if_neg (by simpa using first)
    rw [once, Slot.respan, Slot.respan]
    refine if_congr ?_ rfl rfl
    simp only [List.mem_cons]
    tauto

/-- The spans of all the tracks of an entry replaced at once. -/
theorem replaceSpans_eq (k : Key) (lo hi : Nat) (items : List TrackItem) (slots : List Slot) :
    items.foldl (fun acc x => replaceSpan k x.track lo hi acc) slots =
      slots.map (Slot.respan k (items.map TrackItem.track) lo hi) := by
  induction items generalizing slots with
  | nil => exact ((List.map_congr_left fun y _ => if_neg (by simp)).trans (List.map_id _)).symm
  | cons x items ih =>
    rw [List.foldl_cons, ih, replaceSpan_eq, List.map_map]
    exact List.map_congr_left fun y _ => Slot.respan_respan k x.track _ lo hi y

theorem Slot.isProvisional_iff (y : Slot) : y.isProvisional = true ↔ y.firmness ≠ .firm := by
  unfold Slot.isProvisional
  cases y.firmness <;> simp

theorem Slot.respan_of_mem {k : Key} {items : List TrackItem} {lo hi : Nat} {y : Slot} (f : y.firmness ≠ .firm)
    (hk : y.key = k) (ht : ∃ x ∈ items, x.track = y.track) :
    y.respan k (items.map TrackItem.track) lo hi = { y with base := lo, fin := hi } :=
  if_pos ⟨hk, List.mem_map.mpr ht, y.isProvisional_iff.mpr f⟩

theorem Slot.respan_of_not_mem {k : Key} {items : List TrackItem} {lo hi : Nat} {y : Slot}
    (h : y.firmness = .firm ∨ y.key ≠ k ∨ ∀ x ∈ items, x.track ≠ y.track) :
    y.respan k (items.map TrackItem.track) lo hi = y := by
  refine if_neg fun ⟨hk, ht, hp⟩ => ?_
  obtain ⟨x, hx, track⟩ := List.mem_map.mp ht
  rcases h with firm | other | untracked
  · exact y.isProvisional_iff.mp hp firm
  · exact other hk
  · exact untracked x hx track

theorem TrackItem.rewindow_none {slots : List Slot} {k : Key} {lo hi : Nat} {x : TrackItem}
    (h : findSlot slots k x.track = none) :
    x.rewindow slots k lo hi = { x with winStart := lo, winEnd := hi, truncated := false } := by
  simp only [TrackItem.rewindow, trackWindow, h]

theorem TrackItem.rewindow_some {slots : List Slot} {k : Key} {lo hi : Nat} {x : TrackItem} {y : Slot}
    (h : findSlot slots k x.track = some y) :
    x.rewindow slots k lo hi =
      { x with
        winStart := max lo y.base, winEnd := min hi y.fin, truncated := decide (lo < y.base ∨ y.fin < hi) } := by
  simp only [TrackItem.rewindow, trackWindow, h, Bool.decide_or]

theorem Takes.armedAt_of_get {t : Takes} {i : Nat} {e : TakeEntry} (h : t.entries[i]? = some (some e)) :
    t.armedAt i = if e.opened then none else some e := by
  cases ho : e.opened <;> simp [Takes.armedAt, Takes.entryAt, h, ho]

/-- An edit leaves an OPEN entry and one of another cue as they are. -/
theorem editEntry_other {cue : Cue} {s : State} {i : Nat} {e : TakeEntry} (h : s.takes.entries[i]? = some (some e))
    (other : e.opened = true ∨ e.key ≠ cue.key) : editEntry cue s i = s := by
  unfold editEntry
  rw [Takes.armedAt_of_get h]
  cases ho : e.opened with
  | true => rfl
  | false =>
    have key := other.resolve_left (by simp [ho])
    simp [key]

/-- An edit gives an ARMED entry of its cue its windows anew. -/
theorem editEntry_armed {cue : Cue} {s : State} {i : Nat} {e : TakeEntry} (h : s.takes.entries[i]? = some (some e))
    (armed : e.opened = false) (key : e.key = cue.key) {lo hi : Nat} (hlo : lo = cue.inPt - e.lead * 100)
    (hhi : hi = min (cue.outPt + e.tail * 100) s.rate.lastPos) {slots : List Slot}
    (hs : slots = s.slots.map (Slot.respan e.key (e.items.map TrackItem.track) lo hi)) :
    editEntry cue s i =
      { s with
        slots,
        takes := { s.takes with
          entries := s.takes.entries.set i
            (some { e with
              winStart := lo, winEnd := hi, items := e.items.map (TrackItem.rewindow slots e.key lo hi) }) } } := by
  subst hlo hhi hs
  unfold editEntry
  rw [Takes.armedAt_of_get h]
  simp only [armed, Bool.false_eq_true, if_false, if_pos key, replaceSpans_eq]
  rfl

/-! ### The edit on its way (03 R57, R58) -/

/-- One channel's edit, and the state around it. -/
theorem editChannel_eq (old new : Cue) (s : State) (n : Nat) :
    editChannel old new s n =
      { s with
        channels := s.channels.modify n fun c => c.takeEdit (s.channelEnv n) s.tracker.head old new } := by
  unfold editChannel onChannel
  split
  · rename_i absent
    rw [List.modify_eq_self (List.getElem?_eq_none_iff.mp absent)]
  · rename_i c found
    rw [List.modify_eq_set_getElem?, found]
    rfl

/-- The edit on several channels: each takes it once, in an environment that no other channel changes. -/
theorem editChannels_eq (old new : Cue) (l : List Nat) (nodup : l.Nodup) (s : State) :
    ∃ cs : List Channel,
      l.foldl (editChannel old new) s = { s with channels := cs }
        ∧ (∀ n ∉ l, cs[n]? = s.channels[n]?)
        ∧ ∀ n ∈ l, cs[n]? = s.channels[n]?.map fun c => c.takeEdit (s.channelEnv n) s.tracker.head old new := by
  induction l generalizing s with
  | nil => exact ⟨s.channels, rfl, fun _ _ => rfl, by simp⟩
  | cons m l ih =>
    obtain ⟨notIn, rest⟩ := List.nodup_cons.mp nodup
    obtain ⟨cs, eq, kept, edited⟩ := ih rest (editChannel old new s m)
    rw [editChannel_eq] at eq kept edited
    refine ⟨cs, by rw [List.foldl_cons, editChannel_eq, eq], fun n hn => ?_, fun n hn => ?_⟩
    · obtain ⟨ne, notRest⟩ := not_or.mp (mt List.mem_cons.mpr hn)
      rw [kept n notRest, List.getElem?_modify]
      simp [Ne.symm ne]
    · by_cases hm : n = m
      · subst hm
        rw [kept n notIn, List.getElem?_modify]
        simp
      · rw [edited n ((List.mem_cons.mp hn).resolve_left hm)]
        simp only [List.getElem?_modify, if_neg (Ne.symm hm), Functor.map, Option.map_id']
        rfl

/-- The edits of armed takes change the slot table and the take table alone. -/
theorem editEntries_eq (cue : Cue) (l : List Nat) (s : State) :
    ∃ (slots : List Slot) (takes : Takes), l.foldl (editEntry cue) s = { s with slots, takes } := by
  induction l generalizing s with
  | nil => exact ⟨s.slots, s.takes, rfl⟩
  | cons i l ih =>
    obtain ⟨slots, takes, eq⟩ := ih (editEntry cue s i)
    refine ⟨slots, takes, eq.trans ?_⟩
    unfold editEntry
    split
    · rfl
    · split <;> rfl

@[simp] theorem CueTable.activeBank_withActive (b : Bank) (t : CueTable) : (t.withActive b).activeBank = b := by
  obtain ⟨_, _, active, _⟩ := t
  cases active <;> rfl

@[simp] theorem CueTable.stagedBank_withActive (b : Bank) (t : CueTable) :
    (t.withActive b).stagedBank = t.stagedBank := by
  obtain ⟨_, _, active, _⟩ := t
  cases active <;> rfl

/-- The active bank's records replaced. -/
def State.withActiveCues (s : State) (cues : List Cue) : State :=
  { s with table := s.table.withActive { s.table.activeBank with cues } }

@[simp] theorem State.withActiveCues_cues (s : State) (cues : List Cue) : (s.withActiveCues cues).cues = cues := by
  simp only [State.withActiveCues, State.cues, CueTable.activeBank_withActive]

@[simp] theorem State.withActiveCues_rate (s : State) (cues : List Cue) : (s.withActiveCues cues).rate = s.rate := by
  simp only [State.withActiveCues, State.rate, CueTable.activeBank_withActive]

/-- The steps of a replacement: the active bank, then the eight channels, then the four entries. -/
theorem replaceCue_eq (old new : Cue) (s : State) :
    replaceCue old new s =
      [0, 1, 2, 3].foldl (editEntry new)
        ((List.range 8).foldl (editChannel old new) (s.withActiveCues (placeCue new s.cues))) := rfl

/-- The record replaced in the active bank alone, and handed to the eight channels and the four entries. -/
theorem replaceCue_reaches (old new : Cue) (s : State) :
    (replaceCue old new s).cues = placeCue new s.cues
      ∧ (replaceCue old new s).table.stagedBank = s.table.stagedBank
      ∧ (∀ (n : Nat) (c : Channel), n < 8 → s.channels[n]? = some c →
          (replaceCue old new s).channels[n]? =
            some
              (c.takeEdit
                { no := n, cues := placeCue new s.cues, window := s.window, present := s.video.present,
                  now := s.counter, rate := s.rate }
                s.tracker.head old new))
      ∧ ∃ u : State,
          replaceCue old new s = [0, 1, 2, 3].foldl (editEntry new) u ∧ u.takes = s.takes ∧ u.slots = s.slots
            ∧ u.rate = s.rate := by
  obtain ⟨cs, channels, -, took⟩ :=
    editChannels_eq old new (List.range 8) List.nodup_range (s.withActiveCues (placeCue new s.cues))
  have handed := replaceCue_eq old new s
  rw [channels] at handed
  obtain ⟨slots, takes, entries⟩ :=
    editEntries_eq new [0, 1, 2, 3] { s.withActiveCues (placeCue new s.cues) with channels := cs }
  refine ⟨?_, ?_, fun n c hn hc => ?_, _, handed, rfl, rfl, s.withActiveCues_rate _⟩
  · rw [handed, entries]
    exact s.withActiveCues_cues _
  · rw [handed, entries]
    exact s.table.stagedBank_withActive _
  · have env : (s.withActiveCues (placeCue new s.cues)).channelEnv n =
        { no := n, cues := placeCue new s.cues, window := s.window, present := s.video.present, now := s.counter,
          rate := s.rate } := by
      simp only [State.channelEnv, State.withActiveCues_cues, State.withActiveCues_rate]
      rfl
    have here : (s.withActiveCues (placeCue new s.cues)).channels[n]? = some c := hc
    rw [handed, entries, ← env]
    exact (took n (List.mem_range.mpr hn)).trans (by rw [here]; rfl)

/-! ### UPDATE_CUE -/

theorem editCode_item (inUse adj : Bool) :
    (if inUse then ResultCode.deferred else okOr adj).item = b1 (if inUse then 2 else if adj then 1 else 0) := by
  cases inUse <;> cases adj <;> rfl

theorem updateCuePerform_range {key : WireKey} {x : CueEdit} {s : State}
    (h : keyOf key = none ∨ editFields s.rate x = none) : updateCuePerform key x s = refuseKey .range key s := by
  unfold updateCuePerform
  split
  · rename_i k fields hk hf
    simp [hk, hf] at h
  · rfl

section
variable {key : WireKey} {x : CueEdit} {s : State} {k : Key} {f : EditFields} (hk : keyOf key = some k)
  (hf : editFields s.rate x = some f)
include hk hf

theorem updateCuePerform_unknown (no : findCue s.cues k = none) :
    updateCuePerform key x s = refuseKey .unknownKey key s := by
  simp only [updateCuePerform, hk, hf, no]

variable {old : Cue} (found : findCue s.cues k = some old)
include found

theorem updateCuePerform_reads (nothing : editSelectsNothing x = true) :
    updateCuePerform key x s = (s, b1 0 ++ keyItem k ++ cueItem s.rate old) := by
  obtain rfl := findCue_key found
  simp only [updateCuePerform, hk, hf, found, editRecord, if_pos nothing]
  rfl

variable {new : Cue} {adj : Bool} (selects : editSelectsNothing x = false) (ha : applyEdit f x old = (new, adj))
include selects ha

theorem updateCuePerform_misfit (far : pointsFit new.inPt new.outPt = false) :
    updateCuePerform key x s = refuseKey .range key s := by
  simp only [updateCuePerform, hk, hf, found, editRecord, selects, ha, far, Bool.false_eq_true, if_false]

theorem updateCuePerform_edits (fits : pointsFit new.inPt new.outPt = true) :
    updateCuePerform key x s =
      (replaceCue old new s,
        b1 (if s.cueInUse k then 2 else if adj then 1 else 0) ++ keyItem new.key ++ cueItem s.rate new) := by
  simp only [updateCuePerform, hk, hf, found, editRecord, selects, ha, fits, Bool.false_eq_true, if_false, if_true,
    findCue_key found, recordBody, editCode_item]

end

theorem execUpdateCue_answers {tag : Byte} {key : WireKey} {x : CueEdit} {s t : State} {body : List Byte}
    (c : s.canTake (.updateCue tag key x) = true) (p : updateCuePerform key x s.taken = (t, body)) :
    exec (.updateCue tag key x) s = .next (t.answered 0x96 tag body) :=
  request_answers (f := ⟨0x16, tag, wireKeyItem key ++ editPayload x⟩) rfl c p

/-- Settles O46: the tests of UPDATE_CUE in their order and where the edit goes, then what each field, channel and entry
makes of it. -/
theorem updateCueEditsTheActiveBank : Obligations.UpdateCueEditsTheActiveBank := by
  refine ⟨fun tag key x s c => ⟨fun bad => ?_, fun k f hk hf => ⟨fun no => ?_, fun old found => ⟨fun nothing => ?_,
      fun new adj selects ha => ?_⟩⟩⟩, pointsFit_iff, State.cueInUse_iff,
    fun r x => ⟨editFields_eq_none_iff r x, editSelectsNothing_iff x, fun f old new adj hf ha => ?_⟩,
    fun env p old new c st hst => ?_, fun cue s i e h => ⟨editEntry_other h, fun armed key lo hi hlo hhi => ?_⟩⟩
  · exact execUpdateCue_answers c (updateCuePerform_range (s := s.taken) bad)
  · exact execUpdateCue_answers c (updateCuePerform_unknown (s := s.taken) hk hf no)
  · exact execUpdateCue_answers c (updateCuePerform_reads (s := s.taken) hk hf found nothing)
  · have same : new.key = k := by
      rw [← findCue_key found, ← applyEdit_key f x old, ha]
    refine ⟨same, fun far => execUpdateCue_answers c
      (updateCuePerform_misfit (s := s.taken) hk hf found selects ha far), fun fits => ?_⟩
    obtain ⟨cues, staged, channels, entries⟩ := replaceCue_reaches old new s.taken
    have edits := updateCuePerform_edits (s := s.taken) hk hf found selects ha fits
    subst same
    refine ⟨_, rfl, ?_, fun q hq => ?_, staged, fun n ch hn hc => ?_, entries, execUpdateCue_answers c edits⟩
    · rw [cues]
      exact findCue_placeCue_self new _
    · rw [cues]
      exact findCue_placeCue_other hq _
    · rw [cues]
      exact channels n ch hn hc
  · obtain ⟨hin, hout, hpunch⟩ := editFields_eq_some hf
    have adjusted := applyEdit_adjusted_iff hf old
    obtain ⟨inKept, inRead, -⟩ := editPoint_cases (old := old.inPt) hin
    obtain ⟨outKept, outRead, -⟩ := editPoint_cases (old := old.outPt) hout
    obtain ⟨punchKept, punchRead⟩ := editPunch_cases (old := old.punch) hpunch
    obtain ⟨tagKept, tagRead⟩ := applyEdit_tag f x old
    obtain ⟨streamerKept, streamerRead⟩ := applyEdit_streamer f x old
    obtain ⟨tracksKept, tracksRead⟩ := applyEdit_tracks f x old
    obtain ⟨textKept, textRead⟩ := applyEdit_text f x old
    obtain rfl : (applyEdit f x old).1 = new := congrArg Prod.fst ha
    obtain rfl : (applyEdit f x old).2 = adj := congrArg Prod.snd ha
    exact ⟨rfl, tagKept, tagRead, inKept, outKept, inRead, outRead, streamerKept, streamerRead, clampField_none,
      fun b => clampField_some_zero, clampField_none, fun b => clampField_some, punchKept, punchRead, tracksKept,
      tracksRead, textKept, textRead, adjusted⟩
  · subst hst
    refine ⟨Channel.takeEdit_disabled, fun h acc => ⟨Channel.takeEdit_joins h acc, fun m hm =>
        ⟨Channel.takeEdit_renews h acc hm, Channel.takeEdit_stays h acc hm⟩⟩,
      fun h acc => ⟨Channel.takeEdit_outside h acc, fun m was hm => ?_⟩⟩
    have leaves := Channel.takeEdit_leaves (env := env) (p := p) h acc was hm
    exact ⟨fun act => leaves.trans (if_pos (by simp [CueStatus.isActive, act])),
      fun idle => leaves.trans (if_neg (by simp [CueStatus.isActive, idle]))⟩
  · refine ⟨_, _, editEntry_armed h armed key hlo hhi rfl, List.length_map _,
      fun j y hy => ⟨fun f hk ht => ?_, fun no => ?_⟩, List.length_map _,
      fun j x hx => ⟨fun absent => ?_, fun y found => ?_⟩⟩
    · rw [List.getElem?_map, hy, Option.map_some, Slot.respan_of_mem f hk ht]
    · rw [List.getElem?_map, hy, Option.map_some, Slot.respan_of_not_mem no]
    · rw [List.getElem?_map, hx, Option.map_some, TrackItem.rewindow_none absent]
    · rw [List.getElem?_map, hx, Option.map_some, TrackItem.rewindow_some found]

end Sys2Proof.Machine
end

section
/-! The tracker's coherence (02 R17, R25, R32, R33): every word, timer and setting leaves the speed and the direction that the
new state has, and the completion of a change makes the class and the settle items agree with them. -/

namespace Sys2Proof.Machine

/-! ### Speed and direction (02 R17, R25) -/

/-- The speed and the direction agree with the state (02 R17, R25). -/
def Tracker.motionAgrees (t : Tracker) : Prop :=
  match t.state with
  | .locked | .freewheel => 250 ≤ t.speed ∧ t.speed ≤ 4000 ∧ t.heading ≠ .still
  | _ => t.speed = 0 ∧ t.heading = .still

/-- Whether a state has a speed and a direction: LOCKED and FREEWHEEL (02 R17). -/
def TrackState.moving (x : TrackState) : Bool :=
  match x with
  | .locked | .freewheel => true
  | _ => false

theorem Tracker.motionAgrees_iff (t : Tracker) :
    t.motionAgrees ↔
      if t.state.moving then 250 ≤ t.speed ∧ t.speed ≤ 4000 ∧ t.heading ≠ .still
      else t.speed = 0 ∧ t.heading = .still := by
  unfold Tracker.motionAgrees TrackState.moving
  cases t.state <;> simp

theorem Tracker.motionAgrees_moving {t : Tracker} (h : t.state.moving = true) :
    t.motionAgrees ↔ 250 ≤ t.speed ∧ t.speed ≤ 4000 ∧ t.heading ≠ .still := by
  simp [Tracker.motionAgrees_iff, h]

/-- A change that leaves the speed and the direction, and stays among the moving states or among the others. -/
theorem Tracker.motionAgrees_of_same {t u : Tracker} (state : u.state.moving = t.state.moving) (speed : u.speed = t.speed)
    (heading : u.heading = t.heading) (h : t.motionAgrees) : u.motionAgrees := by
  rw [Tracker.motionAgrees_iff] at h ⊢
  rw [state, speed, heading]
  exact h

theorem pushInterval_ne_nil (dt : Nat) (l : List Nat) : pushInterval dt l ≠ [] := by
  simp [pushInterval, lastOf]

theorem speedOf_bounds (r : Rate) (old : Nat) {history : List Nat} (h : history ≠ []) :
    250 ≤ speedOf r old history ∧ speedOf r old history ≤ 4000 := by
  unfold speedOf
  split
  · exact absurd rfl h
  · dsimp only
    omega

theorem Word.heading_ne_still (w : Word) : w.heading ≠ .still := by
  unfold Word.heading
  cases w.sense <;> simp

/-- A direction taken from a word and a speed taken from intervals agree with a moving state. -/
theorem Tracker.motionAgrees_of_word {r : Rate} {w : Word} {old : Nat} {t : Tracker} {history : List Nat}
    (state : t.state.moving = true) (heading : t.heading = w.heading) (h : history ≠ [])
    (speed : t.speed = speedOf r old history) : t.motionAgrees := by
  obtain ⟨low, high⟩ := speedOf_bounds r old h
  rw [Tracker.motionAgrees_moving state, speed, heading]
  exact ⟨low, high, w.heading_ne_still⟩

/-- A new speed in a moving state with its direction kept. -/
theorem Tracker.motionAgrees_of_speed {r : Rate} {old : Nat} {t u : Tracker} {history : List Nat}
    (was : t.state.moving = true) (agrees : t.motionAgrees) (state : u.state.moving = true)
    (heading : u.heading = t.heading) (h : history ≠ []) (speed : u.speed = speedOf r old history) : u.motionAgrees := by
  obtain ⟨low, high⟩ := speedOf_bounds r old h
  obtain ⟨-, -, way⟩ := (Tracker.motionAgrees_moving was).mp agrees
  rw [Tracker.motionAgrees_moving state, speed, heading]
  exact ⟨low, high, way⟩

theorem Tracker.toSilent_motionAgrees (t : Tracker) : t.toSilent.motionAgrees := ⟨rfl, rfl⟩

theorem Tracker.toParked_motionAgrees (t : Tracker) : t.toParked.motionAgrees := ⟨rfl, rfl⟩

theorem Tracker.toAcquiring_motionAgrees (w : Word) (t : Tracker) : (t.toAcquiring w).motionAgrees := ⟨rfl, rfl⟩

/-! ### Words (02 R18 to R31) -/

/-- Acquiring keeps a tracker at rest, and its lock parks or has the word's direction (02 R19, R20). -/
theorem Tracker.acquire_motionAgrees (r : Rate) (w : Word) {t : Tracker} (h : t.motionAgrees) : (t.acquire r w).1.motionAgrees := by
  unfold Tracker.acquire
  split
  · exact motionAgrees_of_same rfl rfl rfl h
  · split
    · split
      · dsimp only
        split
        · exact ⟨rfl, rfl⟩
        · exact motionAgrees_of_same rfl rfl rfl h
      · dsimp only
        split
        · exact motionAgrees_of_word rfl rfl (pushInterval_ne_nil _ _) rfl
        · exact motionAgrees_of_same rfl rfl rfl h
    · exact motionAgrees_of_same rfl rfl rfl h

/-- A second repeat parks, and the first changes nothing of the motion (02 R22). -/
theorem Tracker.takeRepeat_motionAgrees {t : Tracker} (h : t.motionAgrees) : t.takeRepeat.motionAgrees := by
  unfold Tracker.takeRepeat
  dsimp only
  split
  · exact ⟨rfl, rfl⟩
  · exact motionAgrees_of_same rfl rfl rfl h

/-- Following the picture stays LOCKED with a speed and a direction, or parks (02 R21 to R23). -/
theorem Tracker.onTrack_motionAgrees {r : Rate} {w acc : Word} {held : Bool} {t u : Tracker} (st : t.state.moving = true)
    (h : t.motionAgrees) (met : t.onTrack r w acc held = some u) : u.motionAgrees := by
  unfold Tracker.onTrack at met
  split at met
  · split at met
    · cases met
      exact t.takeRepeat_motionAgrees h
    · split at met
      · split at met
        · cases met
          exact motionAgrees_of_same rfl rfl rfl h
        · cases met
          exact motionAgrees_of_speed st h st rfl (pushInterval_ne_nil _ _) rfl
      · split at met
        · cases met
          exact motionAgrees_of_same rfl rfl rfl h
        · cases met
  · split at met
    · cases met
      exact motionAgrees_of_word (old := t.speed) (history := [elapsed acc.stamp w.stamp]) st rfl (List.cons_ne_nil _ _) rfl
    · cases met

theorem Tracker.follow_motionAgrees (r : Rate) (w : Word) {t : Tracker} (st : t.state.moving = true)
    (h : t.motionAgrees) : (t.follow r w).1.motionAgrees := by
  unfold Tracker.follow
  split
  · exact t.toAcquiring_motionAgrees w
  · split
    · rename_i met
      exact onTrack_motionAgrees st h met
    · split
      · exact motionAgrees_of_same rfl rfl rfl h
      · rename_i cand _
        split
        · exact motionAgrees_of_word (old := t.speed) (history := [elapsed cand.stamp w.stamp]) st rfl (List.cons_ne_nil _ _) rfl
        · exact motionAgrees_of_same rfl rfl rfl h

theorem Tracker.snapBack_motionAgrees (w : Word) {t : Tracker} (st : t.state.moving = true) (h : t.motionAgrees) :
    (t.snapBack w).motionAgrees := by
  unfold Tracker.snapBack
  split
  · exact motionAgrees_of_same st.symm rfl rfl h
  · exact t.toAcquiring_motionAgrees w

theorem Tracker.leavePark_motionAgrees (r : Rate) (w : Word) {t : Tracker} (h : t.motionAgrees) :
    (t.leavePark r w).motionAgrees := by
  unfold Tracker.leavePark
  split
  · exact h
  · split
    · exact motionAgrees_of_word (old := t.speed) (history := [elapsed (t.lastArrival.getD w.stamp) w.stamp]) rfl rfl
        (List.cons_ne_nil _ _) rfl
    · exact t.toAcquiring_motionAgrees w

theorem Tracker.takeWord_motionAgrees (r : Rate) (w : Word) {t : Tracker} (h : t.motionAgrees) :
    (t.takeWord r w).1.motionAgrees := by
  unfold Tracker.takeWord
  refine motionAgrees_of_same (t := Prod.fst _) rfl rfl rfl ?_
  cases st : t.state with
  | silent => exact t.toAcquiring_motionAgrees w
  | acquiring => exact t.acquire_motionAgrees r w h
  | locked => exact t.follow_motionAgrees r w (by rw [st]; rfl) h
  | freewheel => exact t.snapBack_motionAgrees w (by rw [st]; rfl) h
  | parked => exact t.leavePark_motionAgrees r w h

/-! ### Timers and settings (02 R28, R30, R37) -/

theorem Tracker.parkAtLimit_motionAgrees (r : Rate) (now : Stamp) (t : Tracker) :
    (t.parkAtLimit r now).motionAgrees := ⟨rfl, rfl⟩

theorem Tracker.timeOut_motionAgrees (r : Rate) (now : Stamp) {t : Tracker} (h : t.motionAgrees) :
    (t.timeOut r now).1.motionAgrees := by
  unfold Tracker.timeOut
  split
  · split
    · exact t.toSilent_motionAgrees
    · rename_i st
      rw [Tracker.dropOut_eq]
      split
      · exact parkAtLimit_motionAgrees ..
      · exact motionAgrees_of_same (t := t) (by rw [st]; rfl) rfl rfl h
    · exact h
  · exact h

theorem Tracker.advance_motionAgrees (r : Rate) (now : Stamp) {t : Tracker} (h : t.motionAgrees) :
    (t.advance r now).1.motionAgrees := by
  have moved (p : Nat) : ({ t with head := p } : Tracker).motionAgrees := motionAgrees_of_same rfl rfl rfl h
  unfold Tracker.advance
  dsimp only
  split
  · exact moved _
  · split
    · exact t.parkAtLimit_motionAgrees r now
    · exact moved _
  · exact h

theorem Tracker.reachLimit_motionAgrees (r : Rate) (now : Stamp) {t : Tracker} (h : t.motionAgrees) :
    (t.reachLimit r now).1.motionAgrees := by
  unfold Tracker.reachLimit
  split
  · split
    · exact t.parkAtLimit_motionAgrees r now
    · exact h
  · exact h

/-- A change of settings keeps the motion, acquires anew or parks (02 R37). -/
theorem Tracker.setTracking_motionAgrees (r : Rate) (now : Stamp) (new : TrackSettings) {t : Tracker}
    (h : t.motionAgrees) : (t.setTracking r now new).1.motionAgrees := by
  by_cases settles : t.state = .silent ∨ new.offset = t.settings.offset
  · rw [Tracker.setTracking_settles settles]
    split
    · exact toParked_motionAgrees _
    · exact motionAgrees_of_same rfl rfl rfl h
  · obtain ⟨st, changed⟩ := not_or.mp settles
    rw [Tracker.setTracking_acquires changed st]
    exact ⟨rfl, rfl⟩

/-- Every change of the tracker by an event leaves a speed and a direction that agree with its state. -/
theorem TrackerMove.motionAgrees {s : State} {t : Tracker} {ev : TrackEvent} (m : TrackerMove s t ev)
    (h : s.tracker.motionAgrees) : t.motionAgrees := by
  cases m with
  | word w => exact Tracker.takeWord_motionAgrees s.rate w h
  | timeOut now => exact Tracker.timeOut_motionAgrees s.rate now h
  | advance now => exact Tracker.advance_motionAgrees s.rate now h
  | limit now => exact Tracker.reachLimit_motionAgrees s.rate now h
  | silent => exact s.tracker.toSilent_motionAgrees

/-! ### The completion of a change (02 R32, R33) -/

theorem Tracker.coherent_iff (t : Tracker) :
    t.coherent ↔ t.cls = t.classify ∧ t.motionAgrees
      ∧ (t.settleEnd.isSome = true ↔ t.cls = .play) ∧ (t.settled = true → t.cls = .play) := Iff.rfl

/-- A settle end stands exactly in PLAY, and a settled flag only there (02 R33). -/
theorem settleAfter_in_play (r : Rate) {t0 : Tracker} (t1 : Tracker) (cls : MotionClass) (relocated : Bool)
    (h : t0.cls = .play → t0.settleEnd.isSome = true) :
    ((settleAfter r t0 t1 cls relocated).1.isSome = true ↔ cls = .play)
      ∧ ((settleAfter r t0 t1 cls relocated).2.1 = true → cls = .play) := by
  unfold settleAfter
  split
  · rename_i play
    split
    · simp [play]
    · rename_i stays
      have stays : t0.cls = .play := by
        rw [not_or, not_not] at stays
        exact stays.1
      obtain ⟨e, he⟩ := Option.isSome_iff_exists.mp (h stays)
      rw [he]
      split <;> simp [play]
  · rename_i other
    simp [other]

/-- A change is concluded to a coherent record when its speed and direction agree with its state (02 R32, R33). -/
theorem concludeChange_coherent (r : Rate) {t0 t1 : Tracker} (ev : TrackEvent) (h : t0.coherent) (k : t1.motionAgrees) :
    (concludeChange r t0 t1 ev).1.coherent := by
  obtain ⟨-, -, ends, -⟩ := h
  obtain ⟨settleEnd, settled⟩ := settleAfter_in_play r t1 t1.classify
    (decide (ev = .relocate) || isDiscontinuity t0.head t1.head) ends.mpr
  exact ⟨rfl, k, settleEnd, settled⟩

theorem Tracker.reset_coherent : Tracker.reset.coherent := by
  refine ⟨rfl, ⟨rfl, rfl⟩, ?_, ?_⟩ <;> simp [Tracker.reset]

/-! ### Every command -/

/-- A gate evaluation touches entries, gate lines and slots alone (07 R123, R124). -/
theorem evalEntry_touches (cls : MotionClass) (p : Nat) (s : State) (i : Nat) :
    ∃ (entries : List (Option TakeEntry)) (lines : Half) (slots : List Slot),
      evalEntry cls p s i = { s with takes := { s.takes with entries, gateLines := lines }, slots } := by
  unfold evalEntry
  split
  · exact ⟨_, _, _, rfl⟩
  · exact ⟨_, _, _, rfl⟩

/-- An opening touches the table's entries alone (07 R122). -/
theorem openCrossed_touches (old new : Nat) (s : State) (i : Nat) :
    ∃ entries : List (Option TakeEntry), openCrossed old new s i = { s with takes := { s.takes with entries } } := by
  unfold openCrossed
  split
  · exact ⟨_, rfl⟩
  · split
    · exact ⟨_, rfl⟩
    · exact ⟨_, rfl⟩

theorem flagEntry_tracker (s : State) (i : Nat) : (flagEntry s i).tracker = s.tracker := by
  unfold flagEntry
  split <;> rfl

theorem editEntry_tracker (cue : Cue) (s : State) (i : Nat) : (editEntry cue s i).tracker = s.tracker := by
  unfold editEntry
  split
  · rfl
  · split <;> rfl

/-- A reply of the link port itself touches the reply queue alone (11 R186, R187). -/
theorem queueErrorReply_touches (r : Reply) (s : State) :
    ∃ replies : List Reply, queueErrorReply r s = { s with link := { s.link with replies } } := by
  unfold queueErrorReply
  split
  · exact ⟨_, rfl⟩
  · exact ⟨_, rfl⟩

/-- A good frame touches the intake or, when that is full, the reply queue (11 R187). -/
theorem acceptFrame_touches (f : Frame) (s : State) :
    ∃ (intake : List Frame) (replies : List Reply),
      acceptFrame f s = { s with link := { s.link with intake, replies } } := by
  unfold acceptFrame
  split
  · exact ⟨_, _, rfl⟩
  · obtain ⟨replies, h⟩ := queueErrorReply_touches { kind := replyKind f.kind, tag := f.tag, body := ResultCode.intakeFull.item } s
    exact ⟨_, replies, h⟩

/-- Every small move of the state leaves the tracker coherent. -/
theorem Move.tracker_coherent {b : Bool} {s t : State} (m : Move b s t) (h : s.tracker.coherent) :
    t.tracker.coherent := by
  obtain ⟨-, agrees, -⟩ := s.tracker.coherent_iff.mp h
  cases m with
  | tracker _ _ t ev k => exact concludeChange_coherent s.rate ev h (k.motionAgrees agrees)
  | tracking now x =>
    exact concludeChange_coherent s.rate .none h (Tracker.setTracking_motionAgrees s.rate now _ agrees)
  | notice => rwa [offer_tracker]
  | fault => rwa [recordFault_tracker]
  | gates _ cls p i =>
    obtain ⟨entries, lines, slots, e⟩ := evalEntry_touches cls p s i
    rwa [e]
  | opens _ old new i =>
    obtain ⟨entries, e⟩ := openCrossed_touches old new s i
    rwa [e]
  | flags i => rwa [flagEntry_tracker]
  | rewindow cue i => rwa [editEntry_tracker]
  | accept f =>
    obtain ⟨intake, replies, e⟩ := acceptFrame_touches f s
    rwa [e]
  | errorReply r =>
    obtain ⟨replies, e⟩ := queueErrorReply_touches r s
    rwa [e]
  | _ => exact h

/-- A command leaves the tracker coherent. -/
theorem Effect.tracker_coherent {s t : State} (e : Effect s t) (h : s.tracker.coherent) : t.tracker.coherent := by
  cases e with
  | event m => exact m.keep (P := fun s => s.tracker.coherent) (fun _ _ k => k.tracker_coherent) h
  | request r m _ => exact m.keep (P := fun s => s.tracker.coherent) (fun _ _ k => k.tracker_coherent) h
  | power => exact Tracker.reset_coherent

/-- Settles O33: an empty queue leaves the tracker, and every command moves it by coherent changes. -/
theorem trackerStaysCoherent : Obligations.TrackerStaysCoherent := by
  intro s t h e
  unfold step at e
  split at e
  · cases e
    exact h
  · exact (exec_effect _ e).tracker_coherent h

end Sys2Proof.Machine
end

section
/-! Settings (02 R36, 04 R61, 05 R75, 07 R117, R125, 09 R153, 10 R177): no small move of an event changes one, so no event
does. -/

namespace Sys2Proof.Machine

/-! ### The tracker's settings (02 R36) -/

theorem Tracker.acquire_settings (r : Rate) (w : Word) (t : Tracker) : (t.acquire r w).1.settings = t.settings := by
  unfold Tracker.acquire
  split
  · rfl
  · split
    · split
      · dsimp only
        split <;> rfl
      · dsimp only
        split <;> rfl
    · rfl

theorem Tracker.takeRepeat_settings (t : Tracker) : t.takeRepeat.settings = t.settings := by
  unfold Tracker.takeRepeat
  dsimp only
  split <;> rfl

theorem Tracker.onTrack_settings {r : Rate} {w acc : Word} {held : Bool} {t u : Tracker}
    (met : t.onTrack r w acc held = some u) : u.settings = t.settings := by
  unfold Tracker.onTrack at met
  split at met
  · split at met
    · cases met
      exact t.takeRepeat_settings
    · split at met
      · split at met <;> cases met <;> rfl
      · split at met <;> cases met
        rfl
  · split at met <;> cases met
    rfl

theorem Tracker.follow_settings (r : Rate) (w : Word) (t : Tracker) : (t.follow r w).1.settings = t.settings := by
  unfold Tracker.follow
  split
  · rfl
  · split
    · rename_i met
      exact onTrack_settings met
    · split
      · rfl
      · split <;> rfl

theorem Tracker.snapBack_settings (w : Word) (t : Tracker) : (t.snapBack w).settings = t.settings := by
  unfold Tracker.snapBack
  split <;> rfl

theorem Tracker.leavePark_settings (r : Rate) (w : Word) (t : Tracker) : (t.leavePark r w).settings = t.settings := by
  unfold Tracker.leavePark
  split
  · rfl
  · split <;> rfl

theorem Tracker.takeWord_settings (r : Rate) (w : Word) (t : Tracker) : (t.takeWord r w).1.settings = t.settings := by
  unfold Tracker.takeWord
  dsimp only
  cases t.state with
  | silent => rfl
  | acquiring => exact t.acquire_settings r w
  | locked => exact t.follow_settings r w
  | freewheel => exact t.snapBack_settings w
  | parked => exact t.leavePark_settings r w

theorem Tracker.timeOut_settings (r : Rate) (now : Stamp) (t : Tracker) :
    (t.timeOut r now).1.settings = t.settings := by
  unfold Tracker.timeOut
  split
  · split
    · rfl
    · rw [Tracker.dropOut_eq]
      split <;> rfl
    · rfl
  · rfl

theorem Tracker.advance_settings (r : Rate) (now : Stamp) (t : Tracker) :
    (t.advance r now).1.settings = t.settings := by
  unfold Tracker.advance
  dsimp only
  split
  · rfl
  · split <;> rfl
  · rfl

theorem Tracker.reachLimit_settings (r : Rate) (now : Stamp) (t : Tracker) :
    (t.reachLimit r now).1.settings = t.settings := by
  unfold Tracker.reachLimit
  split
  · split <;> rfl
  · rfl

/-- No change of the tracker by an event changes its settings. -/
theorem TrackerMove.settings {s : State} {t : Tracker} {ev : TrackEvent} (m : TrackerMove s t ev) :
    t.settings = s.tracker.settings := by
  cases m with
  | word w => exact Tracker.takeWord_settings ..
  | timeOut now => exact Tracker.timeOut_settings ..
  | advance now => exact Tracker.advance_settings ..
  | limit now => exact Tracker.reachLimit_settings ..
  | silent => rfl

/-! ### Every setting -/

theorem State.sameSettings.refl (s : State) : s.sameSettings s := ⟨rfl, rfl, rfl, rfl, rfl, rfl, rfl, rfl, rfl, rfl, rfl⟩

theorem State.sameSettings.trans {s t u : State} (h : s.sameSettings t) (k : t.sameSettings u) : s.sameSettings u := by
  obtain ⟨h1, h2, h3, h4, h5, h6, h7, h8, h9, h10, h11⟩ := h
  obtain ⟨k1, k2, k3, k4, k5, k6, k7, k8, k9, k10, k11⟩ := k
  exact ⟨k1.trans h1, k2.trans h2, k3.trans h3, k4.trans h4, k5.trans h5, k6.trans h6, k7.trans h7, k8.trans h8,
    k9.trans h9, k10.trans h10, k11.trans h11⟩

/-- A change outside every block with settings but the link port, which keeps its mask. -/
theorem State.sameSettings.of_blocks {s t : State} (tracker : t.tracker = s.tracker) (window : t.window = s.window)
    (channels : t.channels = s.channels) (takes : t.takes = s.takes) (pass : t.pass = s.pass)
    (mask : t.link.mask = s.link.mask) : s.sameSettings t :=
  ⟨by rw [tracker], window, by rw [channels], by rw [takes], by rw [takes], by rw [takes], by rw [takes], by rw [pass],
    by rw [pass], by rw [pass], mask⟩

theorem sameSettings_offer (n : Notice) (s : State) : s.sameSettings (offer n s) :=
  .of_blocks (by simp) (by simp) (by simp) (by simp) (by simp) (by simp)

theorem sameSettings_recordFault (f : FaultRecord) (s : State) : s.sameSettings (recordFault f s) :=
  .of_blocks (by simp) (by simp) (by simp) (by simp) (by simp) (by simp)

/-- The tone units' timers leave every channel's settings (06 R97). -/
theorem sameSettings_elapseTo (now : Stamp) (s : State) : s.sameSettings (elapseTo now s) := by
  refine ⟨rfl, rfl, ?_, rfl, rfl, rfl, rfl, rfl, rfl, rfl, rfl⟩
  simp [elapseTo]

/-- No small move of an event changes a setting. -/
theorem Move.sameSettings {s t : State} (m : Move false s t) : s.sameSettings t := by
  have same (s : State) := State.sameSettings.refl s
  cases m with
  | clock _ now => exact sameSettings_elapseTo now s
  | notice _ n => exact sameSettings_offer n s
  | fault _ f => exact sameSettings_recordFault f s
  | tracker _ _ t ev k => exact ⟨k.settings, rfl, rfl, rfl, rfl, rfl, rfl, rfl, rfl, rfl, rfl⟩
  | channels _ cs _ h => exact ⟨rfl, rfl, h, rfl, rfl, rfl, rfl, rfl, rfl, rfl, rfl⟩
  | pass _ p _ _ pre post limit => exact ⟨rfl, rfl, rfl, rfl, rfl, rfl, rfl, pre, post, limit, rfl⟩
  | gates _ cls p i =>
    obtain ⟨entries, lines, slots, e⟩ := evalEntry_touches cls p s i
    rw [e]
    exact same s
  | opens _ old new i =>
    obtain ⟨entries, e⟩ := openCrossed_touches old new s i
    rw [e]
    exact same s
  | accept f =>
    obtain ⟨intake, replies, e⟩ := acceptFrame_touches f s
    rw [e]
    exact same s
  | errorReply r =>
    obtain ⟨replies, e⟩ := queueErrorReply_touches r s
    rw [e]
    exact same s
  | _ => exact same s

theorem Moves.sameSettings {s t : State} (m : Moves false s t) : s.sameSettings t :=
  m.keep (P := fun u => s.sameSettings u) (fun _ _ k h => h.trans k.sameSettings) (.refl s)

/-! ### Events -/

/-- A command that is no request, but for POWER_ON, moves the state by moves of events alone. -/
theorem exec_event_moves {i : Instr} {s t : State} (ev : Instr.isRequest i = false) (power : i ≠ .powerOn)
    (h : exec i s = .next t) : Moves false s t := by
  cases i with
  | powerOn => exact absurd rfl power
  | wordArrival label sense took stamp =>
    refine moves_elapse stamp ?_
    simp only [exec, execWordArrival] at h
    split at h <;> cases h
    · exact .nil _
    · exact moves_readerTakes ..
  | wordTimeout now => cases h; exact moves_elapse now (moves_timerChange _ _ (.timeOut now))
  | playHeadAdvance now => cases h; exact moves_elapse now (moves_timerChange _ _ (.advance now))
  | freewheelLimitReached now => cases h; exact moves_elapse now (moves_timerChange _ _ (.limit now))
  | burstExpiry ch now => cases h; exact moves_elapse now (moves_tone _ _ _)
  | tonePeriodStart ch now => cases h; exact moves_elapse now (moves_tone _ _ _)
  | videoFrameStart now => cases h; exact moves_elapse now (moves_takeFrameStart _)
  | videoLost now => cases h; exact moves_elapse now (.ite (moves_loseVideo _) (.nil _))
  | armDeadlineExpiry e now => cases h; exact moves_elapse now (moves_expireArm _ _)
  | phaseDeadlineExpiry now => cases h; exact moves_elapse now (moves_expirePhase false _)
  | transportRequestSent now => cases h; exact moves_elapse now (Move.transport false _ _).one
  | transportAnswer now => cases h; exact moves_elapse now (moves_completeAnswer false _)
  | transportAnswerDeadline now => cases h; exact moves_elapse now (moves_expireAnswer false _)
  | transportCharacterReceived c now =>
    cases h
    exact moves_elapse now (.ite (moves_completeAnswer false _) (Move.transport false _ _).one)
  | frameReceived b now => cases h; exact moves_elapse now (moves_receiveByte _ _)
  | badLength b now => cases h; exact moves_elapse now (moves_receiveByte _ _)
  | controlByteReceived b now => cases h; exact moves_elapse now (moves_receiveByte _ _)
  | linkGapExpiry now => cases h; exact moves_elapse now (moves_expireGap _)
  | hold now => cases h; exact moves_elapse now (moves_receiveByte _ _)
  | goOn now => cases h; exact moves_elapse now (moves_receiveByte _ _)
  | transmitChoose now => cases h; exact moves_elapse now (moves_chooseFrame _)
  | transmitFrameEnd now => cases h; exact moves_elapse now (Move.sender _ _ _).one
  | _ => exact Bool.noConfusion ev

/-- Settles O60: every event is a sequence of moves that keep the settings. -/
theorem eventsKeepSettings : Obligations.EventsKeepSettings :=
  fun _ _ _ ev power h => (exec_event_moves ev power h).sameSettings

end Sys2Proof.Machine
end

section
/-! Power-on and an empty queue: the values of reset meet every invariant and each chapter's table (11 R184), and one
microsecond moves the counter and its timers alone (02 R16, log 1). -/

namespace Sys2Proof.Machine

/-! ### An empty queue (log 1) -/

theorem step_of_empty {s : State} (h : s.pending = []) : step s = .next (elapseTo (s.counter + 1) s) := by
  unfold step
  split
  · rfl
  · rename_i h'
    rw [h] at h'
    cases h'

theorem elapsed_succ (x : Stamp) : elapsed x (x + 1) = 1 := by
  simp [elapsed]

/-- Settles O2: the counter moves on by one, and the timers with it. -/
theorem emptyQueueIsOneMicrosecond : Obligations.EmptyQueueIsOneMicrosecond := by
  intro s h
  refine ⟨_, step_of_empty h, rfl, rfl, ?_, ?_⟩
  · simp only [elapseTo, elapsed_succ]
    rfl
  · simp only [elapseTo, elapsed_succ]

/-! ### Power-on (11 R184) -/

/-- The channels at power-on, by number (04 R61). -/
theorem reset_channel {n : Nat} {c : Channel} (h : State.reset.channels[n]? = some c) : c = Channel.reset n := by
  obtain ⟨k, hk, rfl⟩ := Option.map_eq_some_iff.mp ((List.getElem?_map ..).symm.trans h)
  obtain ⟨_, rfl⟩ := List.getElem?_eq_some_iff.mp hk
  rw [List.getElem_range]

/-- Settles O3: each block's reset value, read off field by field. -/
theorem powerOnSetsEveryBlock : Obligations.PowerOnSetsEveryBlock := by
  intro s
  refine ⟨_, rfl, rfl, rfl, rfl, rfl, rfl, rfl, rfl, rfl, rfl, rfl, rfl, rfl, rfl, rfl, rfl, rfl, rfl, rfl, rfl, rfl, rfl,
    rfl, fun n c h => ?_, rfl, rfl, rfl, rfl, rfl, rfl, rfl, rfl, rfl, rfl, rfl, rfl, rfl, rfl, rfl, rfl⟩
  obtain rfl := reset_channel h
  exact ⟨rfl, rfl, rfl, rfl, rfl, rfl, rfl, rfl, rfl, rfl, rfl⟩

/-! ### The invariants at reset -/

theorem reset_bounded : State.reset.link.bounded := by
  refine ⟨?_, ?_, ?_⟩ <;> decide

theorem reset_faults_coherent : State.reset.faults.coherent := by
  have empty (i : Nat) : FaultLog.reset.at i = none := by
    unfold FaultLog.at FaultLog.reset
    rw [List.getElem?_replicate]
    split <;> rfl
  refine ⟨by decide, List.nodup_nil, fun i => ?_, rfl⟩
  show i ∈ [] ↔ (FaultLog.reset.at i).isSome = true
  simp [empty]

theorem reset_booked : State.reset.booked := by
  refine ⟨?_, ?_, ?_⟩ <;> decide

theorem reset_numbered : State.reset.log.numbered := by
  refine ⟨by decide, by decide, ?_, ?_, ?_, List.nodup_nil, List.Pairwise.nil⟩ <;> simp [State.reset]

theorem reset_slotsAgree : State.reset.slotsAgree := by
  refine ⟨by decide, List.Pairwise.nil, ?_⟩
  simp [State.reset]

theorem reset_takes_coherent : State.reset.takes.coherent := by
  refine ⟨by decide, by decide, by decide, ?_, by decide⟩
  simp [State.reset, Takes.reset]

theorem reset_table_ordered : State.reset.table.ordered := by
  have empty : ({ cues := [], rate := .pal25 } : Bank).ordered := ⟨by decide, List.nodup_nil, List.Pairwise.nil⟩
  exact ⟨empty, empty⟩

theorem reset_schedulesFit : State.reset.schedulesFit := by
  refine ⟨by decide, fun c h => ?_⟩
  obtain ⟨n, -, rfl⟩ := List.mem_map.mp h
  exact Channel.fits_of_nil rfl rfl

theorem reset_pass_coherent : State.reset.pass.coherent := by
  refine ⟨?_, fun _ => rfl⟩
  exact ⟨fun _ => rfl, fun _ => rfl⟩

/-- Settles O4: every queue, table and log is empty at reset. -/
theorem resetMeetsTheInvariants : Obligations.ResetMeetsTheInvariants :=
  ⟨reset_bounded, reset_faults_coherent, Tracker.reset_coherent, reset_booked, reset_numbered, reset_slotsAgree,
    reset_takes_coherent, reset_table_ordered, reset_schedulesFit, reset_pass_coherent⟩

end Sys2Proof.Machine
end

section
/-! Words at the tracker (02 R16, R18 to R25, R29, R31): what a word does in each state, and the speed that intervals give. -/

namespace Sys2Proof.Machine

/-! ### Words and intervals (02 R16, R18, R25) -/

theorem Word.consistent_iff (w : Word) (a : Nat) : w.consistent a = true ↔ w.a = a ∨ w.oneBeyond a = true := by
  simp [Word.consistent]

theorem Word.forward_iff {w : Word} (h : w.sense = .forward) (a : Nat) :
    w.heading = .forward ∧ (w.oneBeyond a = true ↔ w.a = a + 1) ∧ (w.twoBeyond a = true ↔ w.a = a + 2) := by
  simp [Word.heading, Word.oneBeyond, Word.twoBeyond, h]

theorem Word.reverse_iff {w : Word} (h : w.sense = .reverse) (a : Nat) :
    w.heading = .reverse ∧ (w.oneBeyond a = true ↔ w.a + 1 = a) ∧ (w.twoBeyond a = true ↔ w.a + 2 = a) := by
  simp [Word.heading, Word.oneBeyond, Word.twoBeyond, h]

theorem Word.ne_of_oneBeyond {w : Word} {a : Nat} (h : w.oneBeyond a = true) : w.a ≠ a := by
  unfold Word.oneBeyond at h
  cases hs : w.sense <;> simp only [hs, decide_eq_true_eq] at h <;> omega

theorem Word.ne_of_twoBeyond {w : Word} {a : Nat} (h : w.twoBeyond a = true) : w.a ≠ a := by
  unfold Word.twoBeyond at h
  cases hs : w.sense <;> simp only [hs, decide_eq_true_eq] at h <;> omega

/-- A list of intervals that is not full grows, and a full one loses its oldest (02 R25). -/
theorem pushInterval_cases (dt : Nat) (l : List Nat) :
    (l.length < 4 → pushInterval dt l = l ++ [dt]) ∧ (l.length = 4 → pushInterval dt l = l.tail ++ [dt]) := by
  simp only [pushInterval, lastOf, List.length_append, List.length_singleton]
  refine ⟨fun h => ?_, fun h => ?_⟩
  · rw [show l.length + 1 - 4 = 0 by omega, List.drop_zero]
  · rw [h, List.drop_one, List.tail_append_of_ne_nil (by rintro rfl; simp at h)]

/-- The quotient of `a` by `b` rounded half up. -/
theorem rounded_bounds (a : Nat) {b : Nat} (h : 0 < b) :
    2 * ((2 * a + b) / (2 * b)) * b ≤ 2 * a + b ∧ 2 * a < 2 * ((2 * a + b) / (2 * b)) * b + b := by
  have below := Nat.div_mul_le_self (2 * a + b) (2 * b)
  have above := Nat.lt_div_mul_add (a := 2 * a + b) (b := 2 * b) (by omega)
  have e : (2 * a + b) / (2 * b) * (2 * b) = 2 * ((2 * a + b) / (2 * b)) * b := by ring
  omega

/-- The speed that intervals give: Tn times their number over their sum, rounded half up and held to 250..4000 (02 R25). -/
theorem speedOf_rounds {r : Rate} {old : Nat} {history : List Nat} (h : history ≠ []) {n sum : Nat}
    (hn : n = history.length) (hs : sum = (history.map fun d => if d = 0 then 1 else d).sum) :
    ∃ q : Nat, 2 * q * sum ≤ 2 * r.tn * n + sum ∧ 2 * r.tn * n < 2 * q * sum + sum
      ∧ speedOf r old history = max 250 (min 4000 q) := by
  have counted : (history.map fun d => max d 1) = history.map fun d => if d = 0 then 1 else d :=
    List.map_congr_left fun d _ => by split <;> omega
  obtain ⟨d, rest, rfl⟩ := List.exists_cons_of_ne_nil h
  have pos : 0 < sum := by
    rw [hs, List.map_cons, List.sum_cons]
    split <;> omega
  obtain ⟨below, above⟩ := rounded_bounds (r.tn * n) pos
  rw [← Nat.mul_assoc] at below above
  refine ⟨_, below, above, ?_⟩
  unfold speedOf
  dsimp only
  rw [counted, ← hs, ← hn]

/-! ### A word in each state (02 R18) -/

/-- A tracker once a word has set the last arrival stamp (02 R18). -/
def Tracker.sees (w : Word) (t : Tracker) : Tracker := { t with lastArrival := some w.stamp, timeoutFrom := none }

section
variable {r : Rate} {w : Word} {t u : Tracker} {ev : TrackEvent}

theorem Tracker.takeWord_silent (st : t.state = .silent) : t.takeWord r w = ((t.toAcquiring w).sees w, .none) := by
  simp only [Tracker.takeWord, st]
  rfl

theorem Tracker.takeWord_acquiring (st : t.state = .acquiring) (h : t.acquire r w = (u, ev)) :
    t.takeWord r w = (u.sees w, ev) := by
  simp only [Tracker.takeWord, st, h]
  rfl

theorem Tracker.takeWord_locked (st : t.state = .locked) (h : t.follow r w = (u, ev)) :
    t.takeWord r w = (u.sees w, ev) := by
  simp only [Tracker.takeWord, st, h]
  rfl

theorem Tracker.takeWord_freewheel (st : t.state = .freewheel) (h : t.snapBack w = u) :
    t.takeWord r w = (u.sees w, .none) := by
  simp only [Tracker.takeWord, st, h]
  rfl

theorem Tracker.takeWord_parked (st : t.state = .parked) (h : t.leavePark r w = u) :
    t.takeWord r w = (u.sees w, .none) := by
  simp only [Tracker.takeWord, st, h]
  rfl

/-! ### Words on the old track (02 R21 to R23) -/

variable {acc : Word}

theorem Tracker.follow_met (ha : t.accepted = some acc) (met : t.onTrack r w acc t.candidate.isSome = some u) :
    t.follow r w = (u, .none) := by
  simp only [Tracker.follow, ha, met]

/-- One frame on in the same direction, with no candidate held (02 R21). -/
theorem Tracker.follow_next (ha : t.accepted = some acc) (free : t.candidate = none) (way : w.heading = t.heading)
    (one : w.oneBeyond acc.a = true) {h : List Nat} (hh : h = pushInterval (elapsed acc.stamp w.stamp) t.history) :
    t.follow r w =
      ({ t with accepted := some w, head := w.a * 100, repeatRun := 0, history := h, speed := speedOf r t.speed h },
        .none) := by
  refine follow_met ha ?_
  simp only [Tracker.onTrack, way, Word.ne_of_oneBeyond one, one, free, if_true, if_false, Option.isSome_none,
    Bool.false_eq_true, Tracker.accept, ← hh]

/-- One or two frames on while a candidate is held (02 R23 step 1). -/
theorem Tracker.follow_held {cand : Word} (ha : t.accepted = some acc) (held : t.candidate = some cand)
    (way : w.heading = t.heading) (near : w.oneBeyond acc.a = true ∨ w.twoBeyond acc.a = true) :
    t.follow r w =
      ({ t with accepted := some w, head := w.a * 100, repeatRun := 0, candidate := none }, .none) := by
  refine follow_met ha ?_
  have ne : w.a ≠ acc.a := near.elim Word.ne_of_oneBeyond Word.ne_of_twoBeyond
  simp only [Tracker.onTrack, way, ne, held, if_true, if_false, Option.isSome_some, Bool.true_and, Tracker.accept]
  cases one : w.oneBeyond acc.a with
  | true => rfl
  | false =>
    have two := near.resolve_left (by simp [one])
    simp [two]

theorem Tracker.follow_repeat (ha : t.accepted = some acc) (way : w.heading = t.heading) (same : w.a = acc.a) :
    t.follow r w = (t.takeRepeat, .none) := by
  refine follow_met ha ?_
  simp only [Tracker.onTrack, way, same, if_true]

theorem Tracker.takeRepeat_first (h : t.repeatRun = 0) : t.takeRepeat = { t with repeatRun := 1, candidate := none } := by
  simp [Tracker.takeRepeat, h]

theorem Tracker.takeRepeat_second (h : 1 ≤ t.repeatRun) :
    t.takeRepeat =
      { t with
        state := .parked, heading := .still, speed := 0, history := [], candidate := none,
        repeatRun := t.repeatRun + 1 } := by
  unfold Tracker.takeRepeat
  dsimp only
  rw [if_pos (by omega)]
  rfl

/-- Against the direction, at the accepted frame or one beyond it: a reversal (02 R23). -/
theorem Tracker.follow_reversal (ha : t.accepted = some acc) (way : w.heading ≠ t.heading)
    (near : w.a = acc.a ∨ w.oneBeyond acc.a = true) :
    t.follow r w =
      ({ t with
          accepted := some w, head := w.a * 100, repeatRun := 0, candidate := none, heading := w.heading,
          history := [elapsed acc.stamp w.stamp], speed := speedOf r t.speed [elapsed acc.stamp w.stamp] }, .none) := by
  refine follow_met ha ?_
  have near : (decide (w.a = acc.a) || w.oneBeyond acc.a) = true := by simpa using near
  simp only [Tracker.onTrack, way, near, if_true, if_false, Tracker.accept]

/-! ### Words off the old track (02 R23, R24) -/

/-- A word off the old track: neither the accepted frame nor one beyond it, and two beyond it only where that does not
count. -/
theorem Tracker.onTrack_none {held : Bool} (ne : w.a ≠ acc.a) (far : w.oneBeyond acc.a = false)
    (two : held = false ∨ w.heading ≠ t.heading ∨ w.twoBeyond acc.a = false) : t.onTrack r w acc held = none := by
  simp only [Tracker.onTrack, ne, far, decide_false, Bool.or_self, Bool.false_eq_true, if_false]
  rcases two with rfl | way | two
  · simp
  · simp [way]
  · simp [two]

/-- Off the old track with no candidate held, the word becomes the candidate (02 R23). -/
theorem Tracker.follow_holds (ha : t.accepted = some acc) (free : t.candidate = none) (ne : w.a ≠ acc.a)
    (far : w.oneBeyond acc.a = false) : t.follow r w = ({ t with candidate := some w }, .none) := by
  have off := onTrack_none (r := r) (t := t) ne far (.inl rfl)
  simp only [Tracker.follow, ha, free, Option.isSome_none, off]

/-- Off the old track with a candidate held: consistent with it the word relocates, and else replaces it (02 R24). -/
theorem Tracker.follow_candidate {cand : Word} (ha : t.accepted = some acc) (held : t.candidate = some cand)
    (ne : w.a ≠ acc.a) (far : w.oneBeyond acc.a = false) (two : w.heading ≠ t.heading ∨ w.twoBeyond acc.a = false) :
    t.follow r w =
      if w.consistent cand.a then (t.relocateTo r w cand, .relocate) else ({ t with candidate := some w }, .none) := by
  have off := onTrack_none (r := r) (held := true) ne far (.inr two)
  simp only [Tracker.follow, ha, held, Option.isSome_some, off]

/-! ### FREEWHEEL and PARKED (02 R29, R31) -/

theorem Tracker.leavePark_own (same : w.a = frameOf t.head) : t.leavePark r w = t := by
  simp [Tracker.leavePark, same]

theorem Tracker.leavePark_one {last : Stamp} (hl : t.lastArrival = some last)
    (one : w.oneBeyond (frameOf t.head) = true) :
    t.leavePark r w =
      { t with
        state := .locked, accepted := some w, head := w.a * 100, repeatRun := 0, candidate := none,
        heading := w.heading, history := [elapsed last w.stamp], speed := speedOf r t.speed [elapsed last w.stamp] } := by
  simp only [Tracker.leavePark, Word.ne_of_oneBeyond one, one, hl, if_true, if_false, Option.getD_some, Tracker.accept]

theorem Tracker.leavePark_far (ne : w.a ≠ frameOf t.head) (far : w.oneBeyond (frameOf t.head) = false) :
    t.leavePark r w = t.toAcquiring w := by
  simp [Tracker.leavePark, ne, far]

end

/-- Settles O29: the words of each state, then consistency, the speed and the intervals it comes from. -/
theorem wordsMoveTheTracker : Obligations.WordsMoveTheTracker := by
  refine ⟨fun r w t seen hs => ?_,
    fun w a => ⟨fun h => Word.forward_iff h a, fun h => Word.reverse_iff h a, w.consistent_iff a, rfl⟩,
    fun r old history => ⟨?_, fun h n sum => speedOf_rounds h⟩, pushInterval_cases, by decide⟩
  · obtain rfl : seen = Tracker.sees w := funext hs
    refine ⟨Tracker.takeWord_silent, rfl, fun acc st ha => ⟨fun free way one h hh => ?_, fun cand held way near => ?_,
      fun way same => ⟨fun first => ?_, fun second => ?_⟩, fun way near => ?_, fun ne far => ⟨fun free => ?_,
        fun cand held two => ⟨fun close => ?_, fun apart => ?_⟩⟩⟩,
      fun st => ⟨fun near => ?_, fun away => ?_⟩, fun st => ⟨fun own => ?_, fun one last hl => ?_, fun ne far => ?_⟩⟩
    · exact Tracker.takeWord_locked st (Tracker.follow_next ha free way one hh)
    · exact Tracker.takeWord_locked st (Tracker.follow_held ha held way near)
    · exact Tracker.takeWord_locked st ((Tracker.follow_repeat ha way same).trans (by rw [Tracker.takeRepeat_first first]))
    · exact Tracker.takeWord_locked st ((Tracker.follow_repeat ha way same).trans (by rw [Tracker.takeRepeat_second second]))
    · exact Tracker.takeWord_locked st (Tracker.follow_reversal ha way near)
    · exact Tracker.takeWord_locked st (Tracker.follow_holds ha free ne far)
    · exact Tracker.takeWord_locked st ((Tracker.follow_candidate ha held ne far two).trans (if_pos close))
    · exact Tracker.takeWord_locked st ((Tracker.follow_candidate ha held ne far two).trans (if_neg (by simp [apart])))
    · exact Tracker.takeWord_freewheel st (if_pos near)
    · exact Tracker.takeWord_freewheel st (if_neg away)
    · exact Tracker.takeWord_parked st (Tracker.leavePark_own own)
    · exact Tracker.takeWord_parked st (Tracker.leavePark_one hl one)
    · exact Tracker.takeWord_parked st (Tracker.leavePark_far ne far)
  · rintro rfl
    rfl

end Sys2Proof.Machine
end

section
/-! Acquiring lock (02 R18 to R20): runs of consecutive words and of repeats, up to the lock count. -/

namespace Sys2Proof.Machine

/-! ### One word in ACQUIRING (02 R19, R20) -/

section
variable {r : Rate} {w ref : Word} {t : Tracker}

theorem Tracker.acquire_fresh (none : t.reference = none) :
    t.acquire r w = ({ t with reference := some w, run := 1, acqRepeats := 0 }, .none) := by
  simp only [Tracker.acquire, none]

theorem Tracker.acquire_inconsistent (hr : t.reference = some ref) (far : w.consistent ref.a = false) :
    t.acquire r w = ({ t with reference := some w, run := 1, acqIntervals := [], acqRepeats := 0 }, .none) := by
  simp only [Tracker.acquire, hr, far, Bool.false_eq_true, if_false]

/-- A repeat lengthens the run, the reference word kept; at the lock count it parks (02 R19, R20). -/
theorem Tracker.acquire_repeat (hr : t.reference = some ref) (same : w.a = ref.a) (way : w.sense = ref.sense) :
    t.acquire r w =
      if t.settings.lockCount ≤ t.run + 1 then
        (({ t with run := t.run + 1, acqRepeats := min (t.acqRepeats + 1) 2 } : Tracker).lockParked w, .lock)
      else ({ t with run := t.run + 1, acqRepeats := min (t.acqRepeats + 1) 2 }, .none) := by
  have near : w.consistent ref.a = true := w.consistent_iff ref.a |>.mpr (.inl same)
  simp only [Tracker.acquire, hr, near, same, way, and_self, if_true]

/-- The record in ACQUIRING as a consistent word that is no repeat leaves it, with the intervals it gives (02 R19). -/
def Tracker.lengthens (w : Word) (intervals : List Nat) (t : Tracker) : Tracker :=
  { t with run := t.run + 1, acqRepeats := 0, acqIntervals := intervals, reference := some w }

/-- A consistent word that is no repeat lengthens the run and becomes the reference word; at the lock count it locks (02 R19,
R20). -/
theorem Tracker.acquire_consistent (hr : t.reference = some ref) (near : w.consistent ref.a = true)
    (new : ¬ (w.a = ref.a ∧ w.sense = ref.sense)) {intervals : List Nat}
    (hi : intervals = pushInterval (elapsed ref.stamp w.stamp) (if w.sense = ref.sense then t.acqIntervals else [])) :
    t.acquire r w =
      if t.settings.lockCount ≤ t.run + 1 then ((t.lengthens w intervals).lockLocked r w, .lock)
      else (t.lengthens w intervals, .none) := by
  simp only [Tracker.acquire, hr, near, new, if_true, if_false, ← hi]
  rfl

/-- A consistent word against the reference word's direction leaves its own interval alone (02 R19). -/
theorem Tracker.acquire_turn (hr : t.reference = some ref) (near : w.consistent ref.a = true)
    (way : w.sense ≠ ref.sense) :
    t.acquire r w =
      if t.settings.lockCount ≤ t.run + 1 then
        ((t.lengthens w [elapsed ref.stamp w.stamp]).lockLocked r w, .lock)
      else (t.lengthens w [elapsed ref.stamp w.stamp], .none) :=
  acquire_consistent hr near (fun h => way h.2) (by rw [if_neg way]; rfl)

/-- A word one frame beyond the reference word in its direction adds its interval (02 R19). -/
theorem Tracker.acquire_next (hr : t.reference = some ref) (one : w.oneBeyond ref.a = true) (way : w.sense = ref.sense) :
    t.acquire r w =
      if t.settings.lockCount ≤ t.run + 1 then
        ((t.lengthens w (pushInterval (elapsed ref.stamp w.stamp) t.acqIntervals)).lockLocked r w, .lock)
      else (t.lengthens w (pushInterval (elapsed ref.stamp w.stamp) t.acqIntervals), .none) :=
  acquire_consistent hr (w.consistent_iff ref.a |>.mpr (.inr one)) (fun h => Word.ne_of_oneBeyond one h.1)
    (by rw [if_pos way])

end

/-! ### Runs of words -/

/-- The word of index `i` of a row of words, at a stamp. -/
def wordAt (w : Nat → Sense × Nat) (i : Nat) (stamp : Stamp) : Word := { a := (w i).2, sense := (w i).1, stamp }

/-- Words of a row taken one after another, with the event of the last of them. -/
def Tracker.hears (r : Rate) (w : Nat → Sense × Nat) (l : List (Stamp × Nat)) (x : Tracker × TrackEvent) :
    Tracker × TrackEvent := l.foldl (fun acc y => acc.1.takeWord r (wordAt w y.2 y.1)) x

theorem Tracker.hears_cons (r : Rate) (w : Nat → Sense × Nat) (y : Stamp × Nat) (l : List (Stamp × Nat))
    (t : Tracker) (ev : TrackEvent) :
    Tracker.hears r w (y :: l) (t, ev) = Tracker.hears r w l (t.takeWord r (wordAt w y.2 y.1)) := rfl

/-- The last four of some intervals, one more pushed (02 R19). -/
theorem pushInterval_lastOf (dt : Nat) (l : List Nat) : pushInterval dt (lastOf 4 l) = lastOf 4 (l ++ [dt]) := by
  simp only [pushInterval, lastOf, List.length_append, List.length_drop, List.length_singleton, List.drop_append,
    List.drop_drop]
  congr 2 <;> omega

/-- The record of an acquisition under way: its reference word, its run, its last intervals and its count of repeats. -/
structure Tracker.Acquires (t : Tracker) (ref : Word) (run : Nat) (gaps : List Nat) (repeats : Nat) : Prop where
  state : t.state = .acquiring
  reference : t.reference = some ref
  run : t.run = run
  intervals : t.acqIntervals = lastOf 4 gaps
  repeats : t.acqRepeats = repeats
  speed : t.speed = 0

/-- The first word in SILENT begins an acquisition (02 R19). -/
theorem Tracker.acquires_of_silent {r : Rate} {t : Tracker} (st : t.state = .silent) (w : Word) :
    ∃ u : Tracker, t.takeWord r w = (u, .none) ∧ u.Acquires w 1 [] 0 ∧ u.settings = t.settings :=
  ⟨_, takeWord_silent st, ⟨rfl, rfl, rfl, rfl, rfl, rfl⟩, rfl⟩

/-- A tracker LOCKED by a word, with the speed of the last of some intervals (02 R20). -/
structure Tracker.LocksOn (r : Rate) (w : Word) (gaps : List Nat) (t : Tracker) : Prop where
  state : t.state = .locked
  accepted : t.accepted = some w
  head : t.head = w.a * 100
  heading : t.heading = w.heading
  history : t.history = lastOf 4 gaps
  speed : t.speed = speedOf r 0 (lastOf 4 gaps)

section
variable {r : Rate} {w ref : Word} {t : Tracker} {run reps : Nat} {gaps : List Nat}

/-- The next word of a row before the lock count (02 R19). -/
theorem Tracker.Acquires.next (h : t.Acquires ref run gaps reps) (one : w.oneBeyond ref.a = true)
    (way : w.sense = ref.sense) (short : run + 1 < t.settings.lockCount) :
    ∃ u : Tracker, t.takeWord r w = (u, .none) ∧ u.Acquires w (run + 1) (gaps ++ [elapsed ref.stamp w.stamp]) 0
      ∧ u.settings = t.settings := by
  have acq := (acquire_next (r := r) h.reference one way).trans (if_neg (by rw [h.run]; omega))
  refine ⟨_, takeWord_acquiring h.state acq, ⟨h.state, rfl, congrArg (· + 1) h.run, ?_, rfl, h.speed⟩, rfl⟩
  rw [← pushInterval_lastOf, ← h.intervals]
  rfl

/-- The next word of a row at the lock count (02 R20). -/
theorem Tracker.Acquires.locks (h : t.Acquires ref run gaps reps) (one : w.oneBeyond ref.a = true)
    (way : w.sense = ref.sense) (full : t.settings.lockCount ≤ run + 1) :
    ∃ u : Tracker, t.takeWord r w = (u, .lock) ∧ u.LocksOn r w (gaps ++ [elapsed ref.stamp w.stamp]) := by
  have acq := (acquire_next (r := r) h.reference one way).trans (if_pos (by rw [h.run]; omega))
  refine ⟨_, takeWord_acquiring h.state acq, ⟨rfl, rfl, rfl, rfl, ?_, ?_⟩⟩
  · rw [← pushInterval_lastOf, ← h.intervals]
    rfl
  · rw [← pushInterval_lastOf, ← h.intervals, ← h.speed]
    rfl

/-- A repeat before the lock count (02 R19). -/
theorem Tracker.Acquires.again (h : t.Acquires ref run gaps reps) (same : w.a = ref.a) (way : w.sense = ref.sense)
    (short : run + 1 < t.settings.lockCount) :
    ∃ u : Tracker, t.takeWord r w = (u, .none) ∧ u.Acquires ref (run + 1) gaps (min (reps + 1) 2)
      ∧ u.settings = t.settings := by
  have acq := (acquire_repeat (r := r) h.reference same way).trans (if_neg (by rw [h.run]; omega))
  exact ⟨_, takeWord_acquiring h.state acq,
    ⟨h.state, h.reference, congrArg (· + 1) h.run, h.intervals, by rw [← h.repeats]; rfl, h.speed⟩, rfl⟩

/-- A repeat at the lock count parks (02 R20). -/
theorem Tracker.Acquires.parks (h : t.Acquires ref run gaps reps) (same : w.a = ref.a) (way : w.sense = ref.sense)
    (full : t.settings.lockCount ≤ run + 1) :
    ∃ u : Tracker, t.takeWord r w = (u, .lock) ∧ u.state = .parked ∧ u.head = w.a * 100 ∧ u.heading = .still
      ∧ u.speed = 0 ∧ u.repeatRun = min (reps + 1) 2 := by
  have acq := (acquire_repeat (r := r) h.reference same way).trans (if_pos (by rw [h.run]; omega))
  refine ⟨_, takeWord_acquiring h.state acq, rfl, rfl, rfl, rfl, ?_⟩
  rw [← h.repeats]
  show min (min (t.acqRepeats + 1) 2) 2 = min (t.acqRepeats + 1) 2
  omega

end

/-- A row of words each one frame beyond the one before it in one direction, up to an index. -/
def Consecutive (w : Nat → Sense × Nat) (m : Nat) : Prop :=
  ∀ (i : Nat) (stamp : Stamp), i + 1 < m →
    (w (i + 1)).1 = (w i).1 ∧ (wordAt w (i + 1) stamp).oneBeyond (w i).2 = true

/-- What follows the word of index `k` in a row of consecutive words: nothing locks before the lock count, and the word at the
lock count does (02 R19, R20). -/
theorem Tracker.hears_consecutive {r : Rate} {w : Nat → Sense × Nat} {m : Nat} (row : Consecutive w m)
    (later : List Stamp) {k : Nat} {first : Stamp} {gaps : List Nat} {reps : Nat} {t : Tracker}
    (h : t.Acquires (wordAt w k first) (k + 1) gaps reps) (inRow : k + 1 + later.length ≤ m)
    (few : k + 1 + later.length ≤ t.settings.lockCount) (ends : k + 1 < t.settings.lockCount) :
    (k + 1 + later.length < t.settings.lockCount →
        (hears r w (later.zipIdx (k + 1)) (t, .none)).2 = .none
          ∧ (hears r w (later.zipIdx (k + 1)) (t, .none)).1.state = .acquiring)
      ∧ (k + 1 + later.length = t.settings.lockCount →
          (hears r w (later.zipIdx (k + 1)) (t, .none)).2 = .lock
            ∧ ∃ last : Stamp, (hears r w (later.zipIdx (k + 1)) (t, .none)).1.LocksOn r (wordAt w (k + later.length) last)
                (gaps ++ List.zipWith elapsed (first :: later) later)) := by
  induction later generalizing k first gaps reps t with
  | nil => exact ⟨fun _ => ⟨rfl, h.state⟩, fun full => absurd full (by simp; omega)⟩
  | cons x later ih =>
    rw [List.length_cons] at inRow few ⊢
    obtain ⟨way, one⟩ := row k x (by omega)
    rw [List.zipIdx_cons, hears_cons, List.zipWith_cons_cons]
    by_cases short : k + 2 < t.settings.lockCount
    · obtain ⟨u, took, acq, same⟩ := h.next (r := r) one way short
      rw [took]
      have rest := ih (k := k + 1) acq (by omega) (by rw [same]; omega) (by rw [same]; omega)
      rw [same, List.append_assoc, List.singleton_append, show k + 1 + later.length = k + (later.length + 1) by omega] at rest
      exact ⟨fun n => rest.1 (by omega), fun n => rest.2 (by omega)⟩
    · obtain rfl : later = [] := List.length_eq_zero_iff.mp (by omega)
      obtain ⟨u, took, locked⟩ := h.locks (r := r) one way (by omega)
      rw [took]
      exact ⟨fun n => absurd n (by simp; omega), fun _ => ⟨rfl, x, locked⟩⟩

/-- What follows the first of some words of one frame in one direction: nothing locks before the lock count, and the word at
the lock count parks (02 R19, R20). -/
theorem Tracker.hears_repeats {r : Rate} {sense : Sense} {a : Nat} (later : List Stamp) {k : Nat} {first : Stamp}
    {gaps : List Nat} {t : Tracker} (h : t.Acquires { a, sense, stamp := first } (k + 1) gaps (min k 2))
    (few : k + 1 + later.length ≤ t.settings.lockCount) (ends : k + 1 < t.settings.lockCount) :
    (k + 1 + later.length < t.settings.lockCount →
        (hears r (fun _ => (sense, a)) (later.zipIdx (k + 1)) (t, .none)).2 = .none
          ∧ (hears r (fun _ => (sense, a)) (later.zipIdx (k + 1)) (t, .none)).1.state = .acquiring)
      ∧ (k + 1 + later.length = t.settings.lockCount →
          (hears r (fun _ => (sense, a)) (later.zipIdx (k + 1)) (t, .none)).2 = .lock
            ∧ (hears r (fun _ => (sense, a)) (later.zipIdx (k + 1)) (t, .none)).1.state = .parked
            ∧ (hears r (fun _ => (sense, a)) (later.zipIdx (k + 1)) (t, .none)).1.head = a * 100
            ∧ (hears r (fun _ => (sense, a)) (later.zipIdx (k + 1)) (t, .none)).1.heading = .still
            ∧ (hears r (fun _ => (sense, a)) (later.zipIdx (k + 1)) (t, .none)).1.speed = 0
            ∧ (hears r (fun _ => (sense, a)) (later.zipIdx (k + 1)) (t, .none)).1.repeatRun
                = min (k + later.length) 2) := by
  induction later generalizing k t with
  | nil => exact ⟨fun _ => ⟨rfl, h.state⟩, fun full => absurd full (by simp; omega)⟩
  | cons x later ih =>
    rw [List.length_cons] at few ⊢
    rw [List.zipIdx_cons, hears_cons]
    have counted : min (min k 2 + 1) 2 = min (k + 1) 2 := by omega
    by_cases short : k + 2 < t.settings.lockCount
    · obtain ⟨u, took, acq, same⟩ := h.again (r := r) (w := { a, sense, stamp := x }) rfl rfl short
      rw [counted] at acq
      rw [wordAt, took]
      have rest := ih (k := k + 1) acq (by rw [same]; omega) (by rw [same]; omega)
      rw [same, show k + 1 + later.length = k + (later.length + 1) by omega] at rest
      exact ⟨fun n => rest.1 (by omega), fun n => rest.2 (by omega)⟩
    · obtain rfl : later = [] := List.length_eq_zero_iff.mp (by omega)
      obtain ⟨u, took, st, head, heading, speed, repeats⟩ :=
        h.parks (r := r) (w := { a, sense, stamp := x }) rfl rfl (by omega)
      rw [counted] at repeats
      rw [wordAt, took]
      exact ⟨fun n => absurd n (by simp; omega), fun _ => ⟨rfl, st, head, heading, speed, repeats⟩⟩

/-! ### Words from SILENT -/

/-- A row of words from SILENT: its first word begins an acquisition, which the others go on with (02 R19). -/
theorem Tracker.hears_row {r : Rate} {t : Tracker} {w : Nat → Sense × Nat} {stamps : List Stamp} (st : t.state = .silent)
    (two : 2 ≤ t.settings.lockCount) (few : stamps.length ≤ t.settings.lockCount) (some : stamps ≠ [])
    (row : Consecutive w stamps.length) :
    (stamps.length < t.settings.lockCount →
        (hears r w stamps.zipIdx (t, .none)).2 = .none ∧ (hears r w stamps.zipIdx (t, .none)).1.state = .acquiring)
      ∧ (stamps.length = t.settings.lockCount →
          (hears r w stamps.zipIdx (t, .none)).2 = .lock
            ∧ ∃ last : Stamp, (hears r w stamps.zipIdx (t, .none)).1.LocksOn r (wordAt w (stamps.length - 1) last)
                (List.zipWith elapsed stamps stamps.tail)) := by
  obtain ⟨first, later, rfl⟩ := List.exists_cons_of_ne_nil some
  obtain ⟨u, took, acq, same⟩ := acquires_of_silent (r := r) st (wordAt w 0 first)
  rw [List.length_cons] at few row ⊢
  have rest := hears_consecutive (r := r) (k := 0) row later acq (by omega) (by rw [same]; omega) (by rw [same]; omega)
  rw [same, Nat.zero_add, Nat.zero_add, List.nil_append, Nat.add_comm 1] at rest
  rw [List.zipIdx_cons, hears_cons, took]
  exact rest

theorem Tracker.hears_one_frame {r : Rate} {t : Tracker} (sense : Sense) (a : Nat) {stamps : List Stamp}
    (st : t.state = .silent) (two : 2 ≤ t.settings.lockCount) (few : stamps.length ≤ t.settings.lockCount)
    (some : stamps ≠ []) :
    (stamps.length < t.settings.lockCount →
        (hears r (fun _ => (sense, a)) stamps.zipIdx (t, .none)).2 = .none
          ∧ (hears r (fun _ => (sense, a)) stamps.zipIdx (t, .none)).1.state = .acquiring)
      ∧ (stamps.length = t.settings.lockCount →
          (hears r (fun _ => (sense, a)) stamps.zipIdx (t, .none)).2 = .lock
            ∧ (hears r (fun _ => (sense, a)) stamps.zipIdx (t, .none)).1.state = .parked
            ∧ (hears r (fun _ => (sense, a)) stamps.zipIdx (t, .none)).1.head = a * 100
            ∧ (hears r (fun _ => (sense, a)) stamps.zipIdx (t, .none)).1.heading = .still
            ∧ (hears r (fun _ => (sense, a)) stamps.zipIdx (t, .none)).1.speed = 0
            ∧ (hears r (fun _ => (sense, a)) stamps.zipIdx (t, .none)).1.repeatRun = min (stamps.length - 1) 2) := by
  obtain ⟨first, later, rfl⟩ := List.exists_cons_of_ne_nil some
  obtain ⟨u, took, acq, same⟩ := acquires_of_silent (r := r) st { a, sense, stamp := first }
  rw [List.length_cons] at few ⊢
  have rest := hears_repeats (r := r) (k := 0) later acq (by rw [same]; omega) (by rw [same]; omega)
  rw [same, Nat.zero_add, Nat.zero_add, Nat.add_comm 1] at rest
  rw [List.zipIdx_cons, hears_cons, wordAt, took]
  exact rest

theorem consecutive_forward (a m : Nat) : Consecutive (fun i => (.forward, a + i)) m :=
  fun i _ _ => ⟨rfl, decide_eq_true (Nat.add_assoc a i 1).symm⟩

/-- Reverse words keep one frame apart down to frame 0. -/
theorem consecutive_reverse {a m : Nat} (h : m ≤ a + 1) : Consecutive (fun i => (.reverse, a - i)) m :=
  fun i _ hi => ⟨rfl, decide_eq_true (show a - (i + 1) + 1 = a - i by omega)⟩

/-- Settles O28: rows of words forward, reverse and of one frame from SILENT, then one word in ACQUIRING. -/
theorem consecutiveWordsLock : Obligations.ConsecutiveWordsLock := by
  refine ⟨fun r t a stamps st two few some run hrun => ?_, fun r t w seen st hs => ?_⟩
  · have hears (w : Nat → Sense × Nat) : run w = Tracker.hears r w stamps.zipIdx (t, .none) := hrun w
    have forward := Tracker.hears_row (r := r) st two few some (consecutive_forward a _)
    have reverse (h : stamps.length ≤ a + 1) := Tracker.hears_row (r := r) st two few some (consecutive_reverse h)
    have still (sense : Sense) := Tracker.hears_one_frame (r := r) sense a st two few some
    simp only [hears]
    refine ⟨fun short => ⟨(forward.1 short).1, (forward.1 short).2, fun h => (reverse h).1 short, fun sense =>
      (still sense).1 short⟩, ?_⟩
    rintro full gaps rfl
    refine ⟨?_, fun h => ?_, fun sense => (still sense).2 full⟩
    · obtain ⟨lock, last, on⟩ := forward.2 full
      exact ⟨lock, on.state, by rw [on.accepted]; rfl, on.head, on.heading, on.history, on.speed⟩
    · obtain ⟨lock, last, on⟩ := (reverse h).2 full
      exact ⟨lock, on.state, by rw [on.accepted]; rfl, on.head, on.heading, on.history, on.speed⟩
  · obtain rfl : seen = Tracker.sees w := funext hs
    refine ⟨fun fresh => Tracker.takeWord_acquiring st (Tracker.acquire_fresh fresh), fun ref hr =>
      ⟨fun far => Tracker.takeWord_acquiring st (Tracker.acquire_inconsistent hr far), fun near way => ?_⟩⟩
    have turn := Tracker.acquire_turn (r := r) hr near way
    exact ⟨fun short => Tracker.takeWord_acquiring st (turn.trans (if_neg (by omega))),
      fun full => Tracker.takeWord_acquiring st (turn.trans (if_pos full))⟩

end Sys2Proof.Machine
end

section
/-! A change of the tracker (02 R24, R27, R32 to R35): what its completion makes of the record, the reports that follow, and
their delivery to the blocks. -/

namespace Sys2Proof.Machine

/-! ### Settling (02 R33) -/

section
variable {r : Rate} {t0 t1 : Tracker} {cls : MotionClass} {relocated : Bool}

theorem settleAfter_out (out : cls ≠ .play) : settleAfter r t0 t1 cls relocated = (none, false, false) := by
  rw [settleAfter, if_neg out]

/-- Into PLAY, or at a relocate in it, the settle end is set anew. -/
theorem settleAfter_anew (play : cls = .play) (anew : t0.cls ≠ .play ∨ relocated = true) {e : Nat}
    (he : e = clampDay r (t1.head + t1.settings.settleSpan * 100)) :
    settleAfter r t0 t1 cls relocated = (some e, decide (e ≤ t1.head), decide (e ≤ t1.head)) := by
  simp only [settleAfter, play, anew, if_true, he]

theorem settleAfter_settled (play : cls = .play) (was : t0.cls = .play) (stays : relocated = false)
    (settled : t0.settled = true) : settleAfter r t0 t1 cls relocated = (t0.settleEnd, true, false) := by
  simp [settleAfter, play, was, stays, settled]

theorem settleAfter_waits (play : cls = .play) (was : t0.cls = .play) (stays : relocated = false)
    (settled : t0.settled = false) {e : Nat} (he : t0.settleEnd = some e) :
    settleAfter r t0 t1 cls relocated =
      (some e, decide (t1.head ≠ t0.head) && decide (e ≤ t1.head), decide (t1.head ≠ t0.head) && decide (e ≤ t1.head)) := by
  simp [settleAfter, play, was, stays, settled, he]

end

/-! ### The reports of a change (02 R24, R27, R34) -/

/-- Whether a change sets the settle end anew: a relocate or a discontinuity (02 R33). -/
def relocates (t0 t1 : Tracker) (ev : TrackEvent) : Bool := decide (ev = .relocate) || isDiscontinuity t0.head t1.head

/-- The kinds of the reports of a change, in the order of 02 R34; `raised` says that a settle event is raised. -/
def reportKinds (t0 t1 : Tracker) (ev : TrackEvent) (raised : Bool) : List ReportKind :=
  let locked : List ReportKind := if ev = .lock then [.lock] else []
  let moved : List ReportKind :=
    if ev = .relocate ∨ isDiscontinuity t0.head t1.head then [.relocate t0.head t1.head] else []
  let change : List ReportKind := if t1.classify = t0.cls then [] else [.classChange t0.cls t1.classify]
  let settle : List ReportKind := if raised then [.settle] else []
  let adv : List ReportKind :=
    if t1.head = t0.head ∨ isDiscontinuity t0.head t1.head then []
    else [.advance t0.head t1.head (decide (ev ≠ .none))]
  locked ++ moved ++ change ++ settle ++ adv

/-- The tracker after a change, and its reports' kinds (02 R32 to R34). -/
theorem concludeChange_parts {r : Rate} {t0 t1 t : Tracker} {ev : TrackEvent} {reports : List Report}
    (h : concludeChange r t0 t1 ev = (t, reports)) :
    ∃ raised : Bool, settleAfter r t0 t1 t1.classify (relocates t0 t1 ev) = (t.settleEnd, t.settled, raised)
      ∧ t = { t1 with cls := t1.classify, settleEnd := t.settleEnd, settled := t.settled }
      ∧ (∀ rep ∈ reports, rep.snap = t.snap)
      ∧ reports.map Report.kind = reportKinds t0 t1 ev raised := by
  unfold concludeChange at h
  dsimp only at h
  generalize st : settleAfter r t0 t1 t1.classify (decide (ev = .relocate) || isDiscontinuity t0.head t1.head) = settle
    at h
  obtain ⟨ends, settled, raised⟩ := settle
  obtain ⟨rfl, rfl⟩ := Prod.mk.inj h
  refine ⟨raised, st, rfl, fun rep hrep => ?_, ?_⟩
  · obtain ⟨k, -, rfl⟩ := List.mem_map.mp hrep
    rfl
  · exact (List.map_map ..).trans (List.map_id _)

theorem sublist_of_ite {α : Type} (c : Prop) [Decidable c] (x : α) : (if c then [x] else []).Sublist [x] := by
  split
  · exact .refl _
  · exact List.nil_sublist _

theorem sublist_of_ite_not {α : Type} (c : Prop) [Decidable c] (x : α) : (if c then [] else [x]).Sublist [x] := by
  split
  · exact List.nil_sublist _
  · exact .refl _

/-- At most one report of each kind, in the order lock, relocate, class change, settle, advance. -/
theorem reportKinds_sublist (t0 t1 : Tracker) (ev : TrackEvent) (raised : Bool) :
    (reportKinds t0 t1 ev raised).Sublist
      [.lock, .relocate t0.head t1.head, .classChange t0.cls t1.classify, .settle,
        .advance t0.head t1.head (decide (ev ≠ .none))] :=
  ((((sublist_of_ite _ _).append (sublist_of_ite _ _)).append (sublist_of_ite_not _ _)).append
    (sublist_of_ite _ _)).append (sublist_of_ite_not _ _)

/-- The reports of a change stand in the order of 02 R34. -/
theorem concludeChange_ordered {r : Rate} {t0 t1 t : Tracker} {ev : TrackEvent} {reports : List Report}
    (h : concludeChange r t0 t1 ev = (t, reports)) :
    (reports.map fun rep => rep.kind.rank).Pairwise fun a b => a < b := by
  obtain ⟨raised, -, -, -, kinds⟩ := concludeChange_parts h
  have ranks := (reportKinds_sublist t0 t1 ev raised).map ReportKind.rank
  rw [← kinds, List.map_map] at ranks
  exact List.Pairwise.sublist ranks (show [0, 1, 2, 3, 4].Pairwise (fun a b => a < b) by decide)

section
variable {r : Rate} {t0 t1 t : Tracker} {ev : TrackEvent} {reports : List Report}
  (h : concludeChange r t0 t1 ev = (t, reports))
include h

theorem lock_mem_reports : .lock ∈ reports.map Report.kind ↔ ev = .lock := by
  obtain ⟨raised, -, -, -, kinds⟩ := concludeChange_parts h
  simp [kinds, reportKinds]

theorem relocate_mem_reports (old new : Nat) : .relocate old new ∈ reports.map Report.kind ↔
    old = t0.head ∧ new = t1.head ∧ (ev = .relocate ∨ decide (t0.head + 500 < t1.head) = true) := by
  obtain ⟨raised, -, -, -, kinds⟩ := concludeChange_parts h
  change _ ↔ _ ∧ _ ∧ (_ ∨ isDiscontinuity t0.head t1.head = true)
  simp only [kinds, reportKinds, List.mem_append, List.mem_ite_nil_left, List.mem_ite_nil_right, List.mem_singleton,
    ReportKind.relocate.injEq, reduceCtorEq, and_false, or_false, false_or]
  tauto

theorem classChange_mem_reports (old new : MotionClass) : .classChange old new ∈ reports.map Report.kind ↔
    old = t0.cls ∧ new = t.cls ∧ old ≠ new := by
  obtain ⟨raised, -, eq, -, kinds⟩ := concludeChange_parts h
  have cls : t.cls = t1.classify := by rw [eq]
  simp only [kinds, reportKinds, cls, List.mem_append, List.mem_ite_nil_left, List.mem_ite_nil_right, List.mem_singleton,
    ReportKind.classChange.injEq, reduceCtorEq, and_false, or_false, false_or]
  constructor
  · rintro ⟨ne, rfl, rfl⟩
    exact ⟨rfl, rfl, Ne.symm ne⟩
  · rintro ⟨rfl, rfl, ne⟩
    exact ⟨Ne.symm ne, rfl, rfl⟩

theorem advance_mem_reports (old new : Nat) (step0 : Bool) : .advance old new step0 ∈ reports.map Report.kind ↔
    old = t0.head ∧ new = t1.head ∧ old ≠ new ∧ decide (t0.head + 500 < t1.head) = false
      ∧ step0 = decide (ev ≠ .none) := by
  obtain ⟨raised, -, -, -, kinds⟩ := concludeChange_parts h
  change _ ↔ _ ∧ _ ∧ _ ∧ isDiscontinuity t0.head t1.head = false ∧ _
  simp only [kinds, reportKinds, List.mem_append, List.mem_ite_nil_left, List.mem_ite_nil_right, List.mem_singleton,
    ReportKind.advance.injEq, reduceCtorEq, and_false, or_false, false_or, not_or, Bool.not_eq_true]
  constructor
  · rintro ⟨⟨ne, near⟩, rfl, rfl, rfl⟩
    exact ⟨rfl, rfl, Ne.symm ne, near, rfl⟩
  · rintro ⟨rfl, rfl, ne, near, rfl⟩
    exact ⟨⟨Ne.symm ne, near⟩, rfl, rfl, rfl⟩

/-- The settle event is reported when the settle end and flag raise it (02 R33). -/
theorem settle_mem_reports {e : Option Nat} {settled raised : Bool}
    (st : settleAfter r t0 t1 t1.classify (relocates t0 t1 ev) = (e, settled, raised)) :
    t.settleEnd = e ∧ t.settled = settled ∧ (.settle ∈ reports.map Report.kind ↔ raised = true) := by
  obtain ⟨raised', st', -, -, kinds⟩ := concludeChange_parts h
  rw [st] at st'
  cases st'
  exact ⟨rfl, rfl, by simp [kinds, reportKinds]⟩

theorem concludeChange_cls : t.cls = t1.classify := by
  obtain ⟨-, -, eq, -⟩ := concludeChange_parts h
  rw [eq]

theorem concludeChange_settles_anew (play : t.cls = .play) (anew : t0.cls ≠ .play ∨ relocates t0 t1 ev = true) {e : Nat}
    (he : e = clampDay r (t1.head + t1.settings.settleSpan * 100)) :
    t.settleEnd = some e ∧ (t.settled = true ↔ e ≤ t1.head)
      ∧ (.settle ∈ reports.map Report.kind ↔ t.settled = true) := by
  obtain ⟨ends, settled, raised⟩ :=
    settle_mem_reports h (settleAfter_anew ((concludeChange_cls h).symm.trans play) anew he)
  rw [settled]
  exact ⟨ends, decide_eq_true_iff, raised⟩

section
variable (play : t.cls = .play) (was : t0.cls = .play) (stays : relocates t0 t1 ev = false)
include play was stays

theorem concludeChange_stays_settled (settled : t0.settled = true) :
    t.settled = true ∧ t.settleEnd = t0.settleEnd ∧ .settle ∉ reports.map Report.kind := by
  obtain ⟨ends, set, raised⟩ :=
    settle_mem_reports h (settleAfter_settled ((concludeChange_cls h).symm.trans play) was stays settled)
  exact ⟨set, ends, by simp [raised]⟩

theorem concludeChange_waits (unsettled : t0.settled = false) {e : Nat} (he : t0.settleEnd = some e) :
    t.settleEnd = some e ∧ (t.settled = true ↔ t1.head ≠ t0.head ∧ e ≤ t1.head)
      ∧ (.settle ∈ reports.map Report.kind ↔ t.settled = true) := by
  obtain ⟨ends, set, raised⟩ :=
    settle_mem_reports h (settleAfter_waits ((concludeChange_cls h).symm.trans play) was stays unsettled he)
  rw [set]
  exact ⟨ends, by simp, raised⟩

end

theorem concludeChange_unsettles (out : t.cls ≠ .play) :
    t.settleEnd = none ∧ t.settled = false ∧ .settle ∉ reports.map Report.kind := by
  obtain ⟨ends, set, raised⟩ :=
    settle_mem_reports h (settleAfter_out fun e => out ((concludeChange_cls h).trans e))
  exact ⟨ends, set, by simp [raised]⟩

end

theorem relocates_iff (t0 t1 : Tracker) (ev : TrackEvent) :
    relocates t0 t1 ev = true ↔ ev = .relocate ∨ decide (t0.head + 500 < t1.head) = true := by
  simp [relocates, isDiscontinuity]

theorem relocates_eq_false {t0 t1 : Tracker} {ev : TrackEvent} (h : ev ≠ .relocate)
    (near : decide (t0.head + 500 < t1.head) = false) : relocates t0 t1 ev = false := by
  rw [Bool.eq_false_iff, Ne, relocates_iff, not_or]
  exact ⟨h, by simp [near]⟩

/-! ### The motion class (02 R32) -/

section
variable {t : Tracker} (moving : t.state = .locked ∨ t.state = .freewheel)
include moving

theorem Tracker.classify_forward (way : t.heading = .forward) :
    t.classify = if t.settings.bandLow ≤ t.speed ∧ t.speed ≤ t.settings.bandHigh then .play else .spool := by
  rcases moving with st | st <;> simp only [Tracker.classify, st, way]

theorem Tracker.classify_reverse (way : t.heading = .reverse) : t.classify = .reverse := by
  rcases moving with st | st <;> simp only [Tracker.classify, st, way]

end

/-! ### The order between the blocks (02 R34; log 5) -/

/-- A block that occurs once in a list takes a report once. -/
theorem filter_map_block {l : List Block} (nodup : l.Nodup) {b : Block} (h : b ∈ l) (rep : Report) :
    ((l.map fun x => (x, rep)).filter fun x => decide (x.1 = b)).map Prod.snd = [rep] := by
  rw [List.filter_map, List.map_map]
  have one : l.filter ((fun x : Block × Report => decide (x.1 = b)) ∘ fun x => (x, rep)) = [b] := by
    show l.filter (fun x => decide (x = b)) = [b]
    rw [List.filter_eq, List.count_eq_one_of_mem nodup h]
    rfl
  rw [one]
  rfl

theorem reportBlocks_nodup : reportBlocks.Nodup := by decide

theorem overlay_not_mem_reportBlocks : Block.overlay ∉ reportBlocks := by decide

theorem reportBlocks_eq : reportBlocks =
    [.tracker, .channel 0, .channel 1, .channel 2, .channel 3, .channel 4, .channel 5, .channel 6, .channel 7, .takes,
      .pass, .cueTable] := rfl

/-- Each block that takes reports takes all of them, in their order. -/
theorem allDeliveries_own {b : Block} (h : b ∈ reportBlocks) (reports : List Report) :
    ((allDeliveries reports).filter fun x => decide (x.1 = b)).map Prod.snd = reports := by
  unfold allDeliveries
  rw [List.filter_flatMap, List.map_flatMap]
  simp only [filter_map_block reportBlocks_nodup h]
  exact List.flatMap_singleton' reports

theorem mem_allDeliveries (reports : List Report) (x : Block × Report) :
    x ∈ allDeliveries reports ↔ x.1 ∈ reportBlocks ∧ x.2 ∈ reports := by
  obtain ⟨b, rep⟩ := x
  simp only [allDeliveries, List.mem_flatMap, List.mem_map, Prod.mk.injEq]
  exact ⟨fun ⟨rep, hrep, b, hb, e, f⟩ => e ▸ f ▸ ⟨hb, hrep⟩, fun ⟨hb, hrep⟩ => ⟨rep, hrep, b, hb, rfl, rfl⟩⟩

theorem allDeliveries_overlay (reports : List Report) :
    ((allDeliveries reports).filter fun x => decide (x.1 = .overlay)) = [] := by
  rw [List.filter_eq_nil_iff]
  intro x hx e
  have := ((mem_allDeliveries reports x).mp hx).1
  exact overlay_not_mem_reportBlocks (of_decide_eq_true e ▸ this)

section
variable (choices : List Block) (first : Report) (later : List Report)

theorem deliveries_eq : deliveries choices (first :: later) =
    allDeliveries (first :: later) ++ if .overlay ∈ choices then [(.overlay, first)] else [] := rfl

theorem deliveries_own {b : Block} (h : b ∈ reportBlocks) :
    ((deliveries choices (first :: later)).filter fun x => decide (x.1 = b)).map Prod.snd = first :: later := by
  have ne : Block.overlay ≠ b := fun e => overlay_not_mem_reportBlocks (e ▸ h)
  rw [deliveries_eq, List.filter_append, List.map_append, allDeliveries_own h]
  split <;> simp [ne]

theorem deliveries_overlay :
    ((deliveries choices (first :: later)).filter fun x => decide (x.1 = .overlay)).length =
      if .overlay ∈ choices then 1 else 0 := by
  rw [deliveries_eq, List.filter_append, allDeliveries_overlay]
  split <;> rfl

theorem mem_deliveries {x : Block × Report} (h : x ∈ deliveries choices (first :: later)) :
    x.1 = .overlay ∨ x.1 ∈ reportBlocks := by
  rw [deliveries_eq, List.mem_append, List.mem_ite_nil_right, List.mem_singleton] at h
  rcases h with h | ⟨-, rfl⟩
  · exact .inr ((mem_allDeliveries _ x).mp h).1
  · exact .inl rfl

/-- Every block that the arbiter can name has something waiting. -/
theorem exists_delivery {b : Block} (h : b ∈ reportBlocks ∨ (b = .overlay ∧ .overlay ∈ choices)) :
    ∃ d ∈ deliveries choices (first :: later), d.1 = b := by
  refine ⟨(b, first), ?_, rfl⟩
  rw [deliveries_eq, List.mem_append]
  rcases h with h | ⟨rfl, h⟩
  · exact .inl ((mem_allDeliveries _ _).mpr ⟨h, List.mem_cons_self⟩)
  · exact .inr (by simp [h])

end

/-- What the arbiter gives at the next choice, with none left the default order (log 5). -/
theorem drawOrder_eq {choices : List Block} {rest : List (List Block)} {s : State}
    (h : (s.arbiter = [] ∧ choices = [] ∧ rest = []) ∨ s.arbiter = choices :: rest) :
    s.drawOrder = (choices, { s with arbiter := rest }) := by
  unfold State.drawOrder
  rcases h with ⟨none, rfl, rfl⟩ | some
  · simp only [none]
    rw [← none]
  · simp only [some]

theorem deliverAll_cons {choices : List Block} {rest : List (List Block)} {s : State} (first : Report)
    (later : List Report) (h : s.drawOrder = (choices, { s with arbiter := rest })) :
    deliverAll (first :: later) s =
      (arbitrate choices (deliveries choices (first :: later))).foldl (fun u x => deliver x.1 x.2 u)
        { s with arbiter := rest } := by
  simp only [deliverAll, h]

/-! ### What each block does with a report (02 R34, R35; 03 R53) -/

section
variable {rep : Report} {s : State}

theorem deliver_channel {n : Nat} {c d : Channel} {es : List Emit} (hc : s.channels[n]? = some c)
    (h : c.takeReport (s.channelEnv n) rep = (d, es)) :
    deliver (.channel n) rep s = emitAll es { s with channels := s.channels.set n d } := by
  simp only [deliver, onChannel, hc, h]

theorem deliver_tracker_notice {n : Notice} (h : rep.notice = some n) : deliver .tracker rep s = offer n s := by
  simp only [deliver, offerReport, h]

theorem deliver_tracker_silent (h : rep.notice = none) : deliver .tracker rep s = s := by
  simp only [deliver, offerReport, h]

theorem deliver_cueTable_change {old new : MotionClass} (h : rep.kind = .classChange old new) :
    deliver .cueTable rep s = testSafePoint s := by
  simp only [deliver, h]

theorem deliver_cueTable_other (h : ∀ old new : MotionClass, rep.kind ≠ .classChange old new) :
    deliver .cueTable rep s = s := by
  unfold deliver
  cases hk : rep.kind with
  | classChange old new => exact absurd hk (h old new)
  | _ => rfl

theorem testSafePoint_completes (pending : s.table.switchPending = true) (safe : s.safePoint = true) :
    testSafePoint s = completeSwitch s := if_pos (by simp [pending, safe])

theorem testSafePoint_waits (h : s.table.switchPending = false ∨ s.safePoint = false) : testSafePoint s = s :=
  if_neg (by rcases h with h | h <;> simp [h])

theorem State.frameMeets_iff :
    s.frameMeets = true ↔ s.video.ahead = false ∧ s.pending.head? = some (.videoFrameStart s.counter) := by
  simp [State.frameMeets]

end

/-! ### A change and its reports -/

theorem quiet_recordLockLost (s : State) : Quiet s (recordLockLost s) := by
  unfold recordLockLost
  exact .ite (.refl s) (quiet_fault _ s)

/-- With no switch pending, the tracker stands after a change as the change made it (02 R34). -/
theorem changeTracker_tracker {t new : Tracker} {ev : TrackEvent} {reports : List Report} {s : State}
    (h : concludeChange s.rate s.tracker t ev = (new, reports)) (idle : s.table.switchPending = false) (parked : Bool) :
    (changeTracker t ev parked s).tracker = new := by
  simp only [changeTracker, h]
  have lost : Quiet { s with tracker := new } (if parked then recordLockLost { s with tracker := new } else { s with tracker := new }) :=
    .ite (quiet_recordLockLost _) (.refl _)
  exact ((lost.trans (quiet_deliverAll reports _)).keeps idle).1

/-- Settles O30: the completion of a change, the class table, and the delivery of the reports block by block. -/
theorem changesAreReportedInOrder : Obligations.ChangesAreReportedInOrder := by
  refine ⟨fun r t0 t1 t ev reports h => ?_, fun t => ?_, fun t new ev reports s h => ?_, fun s => rfl,
    fun first later choices rest s h => ?_, fun rep s => ?_, fun e es s => ?_⟩
  · obtain ⟨raised, st, eq, snaps, -⟩ := concludeChange_parts h
    refine ⟨eq, snaps, concludeChange_ordered h, ?_⟩
    rintro jump rfl
    exact ⟨lock_mem_reports h, relocate_mem_reports h, classChange_mem_reports h, advance_mem_reports h,
      fun play anew => concludeChange_settles_anew h play (anew.imp_right (relocates_iff t0 t1 ev).mpr) rfl,
      fun play was stays near => concludeChange_stays_settled h play was (relocates_eq_false stays near),
      fun play was stays near unsettled e he => concludeChange_waits h play was (relocates_eq_false stays near) unsettled he,
      concludeChange_unsettles h⟩
  · refine ⟨fun st => ?_, fun st => ?_, fun st => ⟨fun way => ⟨fun low high => ?_, fun out => ?_⟩,
      Tracker.classify_reverse st⟩, rfl, fun r p => rfl⟩
    · rcases st with st | st <;> simp only [Tracker.classify, st]
    · simp only [Tracker.classify, st]
    · rw [Tracker.classify_forward st way, if_pos ⟨low, high⟩]
    · rw [Tracker.classify_forward st way, if_neg (by omega)]
  · refine ⟨?_, ?_, changeTracker_tracker h⟩ <;> simp only [changeTracker, h] <;> rfl
  · have drawn := drawOrder_eq h
    refine ⟨_, deliverAll_cons first later drawn, fun b hb => ?_, ?_, fun x hx => ?_, ?_, ?_⟩
    · rw [arbitrate_own]
      exact deliveries_own choices first later (reportBlocks_eq ▸ hb)
    · rw [arbitrate_own]
      exact deliveries_overlay choices first later
    · exact mem_deliveries choices first later ((arbitrate_perm _ _).mem_iff.mp hx)
    · rintro rfl
      exact List.append_nil _
    · rintro b bs rfl hb
      refine arbitrate_first b bs _ (exists_delivery _ first later (hb.imp_right fun e => ⟨e, ?_⟩))
      rw [e]
      exact List.mem_cons_self
  · refine ⟨rfl, rfl, fun n c d es hc => deliver_channel hc, fun old new hk => ⟨?_, fun pending safe => ?_, fun waits => ?_⟩,
      deliver_cueTable_other, fun hk => ?_, fun old new hk => ?_, fun old new step0 hk => ?_, fun meets free => ?_,
      fun apart => ?_⟩
    · exact deliver_tracker_notice (by simp only [Report.notice, hk])
    · rw [deliver_cueTable_change hk, testSafePoint_completes pending safe]
    · rw [deliver_cueTable_change hk, testSafePoint_waits waits]
    · exact deliver_tracker_notice (by simp only [Report.notice, hk])
    · exact deliver_tracker_notice (by simp only [Report.notice, hk])
    · refine deliver_tracker_silent ?_
      rcases hk with hk | hk <;> simp only [Report.notice, hk]
    · exact if_pos (State.frameMeets_iff.mpr ⟨free, meets⟩)
    · refine if_neg fun taken => ?_
      obtain ⟨free, meets⟩ := State.frameMeets_iff.mp taken
      rcases apart with ne | ahead
      · exact ne meets
      · rw [free] at ahead
        cases ahead
  · refine ⟨rfl, ?_, ?_⟩
    · rintro n rfl
      rfl
    · rintro f rfl
      rfl

end Sys2Proof.Machine
end

section
/-! A rebuilt channel (05 R78): its map, its outputs, and that only the settings of the channel before it matter. -/

namespace Sys2Proof.Machine

/-! ### Expansion leaves the rest of a channel (05 R76) -/

/-- An expansion changes the map and the schedule alone: the map keeps its keys, and every status that changes becomes QUEUED. -/
theorem Channel.takeIn_eq (xs : List Candidate) (c : Channel) :
    ∃ (map : List MapEntry) (schedule : List Entry), Channel.takeIn xs c = { c with map, schedule }
      ∧ map.map MapEntry.key = c.map.map MapEntry.key ∧ ∀ m ∈ map, m.status = .queued ∨ m ∈ c.map := by
  induction xs generalizing c with
  | nil => exact ⟨c.map, c.schedule, rfl, rfl, fun m => .inr⟩
  | cons x xs ih =>
    unfold Channel.takeIn
    split
    · obtain ⟨map, schedule, eq, keys, statuses⟩ := ih (c.queueCue x.cue)
      refine ⟨map, schedule, eq, keys.trans (setStatus_keys ..), fun m hm => (statuses m hm).elim .inl fun h => ?_⟩
      obtain ⟨q, hq, rfl⟩ := List.mem_map.mp h
      split
      · exact .inl rfl
      · exact .inr hq
    · exact ⟨c.map, c.schedule, rfl, rfl, fun m => .inr⟩

/-! ### The channel that a rebuild makes (05 R78) -/

/-- A channel withdrawn, with an empty schedule and the map built anew: a rebuild before its expansion (05 R78 steps 2 to
4). -/
def Channel.blank (env : ChannelEnv) (p : Nat) (c : Channel) : Channel :=
  { c with
    map :=
      (env.cues.filter fun q => c.acceptsTag q.tag).map fun q =>
        { key := q.key, status := if p < earliestPoint q c.settings.textLead then .waiting else .passed .skipped,
          copy := none },
    schedule := [], tone := Tone.idle, lamps := { ready := 0, live := 0 }, overlay := Overlay.clear }

theorem Channel.blank_congr {env : ChannelEnv} {p : Nat} {c d : Channel} (h : d.settings = c.settings) :
    d.blank env p = c.blank env p := by
  unfold Channel.blank Channel.acceptsTag
  rw [h]

theorem Channel.blank_keys (env : ChannelEnv) (p : Nat) (c : Channel) :
    (c.blank env p).map.map MapEntry.key = (env.cues.filter fun q => c.acceptsTag q.tag).map Cue.key := by
  unfold Channel.blank
  rw [List.map_map]
  rfl

theorem Channel.blank_statuses (env : ChannelEnv) (p : Nat) (c : Channel) :
    ∀ m ∈ (c.blank env p).map, m.status = .waiting ∨ m.status = .passed .skipped := by
  intro m hm
  obtain ⟨q, -, rfl⟩ := List.mem_map.mp hm
  dsimp only
  split
  · exact .inl rfl
  · exact .inr rfl

/-- A rebuild expands the blank channel, and gives a notice for each ACTIVE cue that it passes. -/
theorem Channel.rebuild_eq (env : ChannelEnv) (p : Nat) (c : Channel) :
    c.rebuild env p =
      ((c.blank env p).expand env p,
        (keysWhere (fun m => m.status.isActive) c.map).map fun k => passedNotice env k .interrupted p) := by
  obtain ⟨notices, shape⟩ := c.interrupt_eq env p
  unfold Channel.rebuild
  dsimp only
  rw [notices, shape]
  rfl

theorem Channel.rebuild_settings (env : ChannelEnv) (p : Nat) (c : Channel) :
    (c.rebuild env p).1.settings = c.settings := (c.rebuild_keeps env p).1

/-- Of the channel before it, a rebuild sees the settings alone. -/
theorem Channel.rebuild_congr {env : ChannelEnv} {p : Nat} {c d : Channel} (h : d.settings = c.settings) :
    (d.rebuild env p).1 = (c.rebuild env p).1 := by
  rw [Channel.rebuild_eq, Channel.rebuild_eq, Channel.blank_congr h]

/-- The parts of a rebuilt channel. -/
theorem Channel.rebuild_parts (env : ChannelEnv) (p : Nat) (c : Channel) :
    (c.rebuild env p).1.map.map MapEntry.key = (env.cues.filter fun q => c.acceptsTag q.tag).map Cue.key
      ∧ (∀ m ∈ (c.rebuild env p).1.map, m.status ≠ .active ∧ m.status ≠ .done)
      ∧ (c.rebuild env p).1.tone = Tone.idle ∧ (c.rebuild env p).1.lamps = { ready := 0, live := 0 }
      ∧ (c.rebuild env p).1.overlay = Overlay.clear := by
  obtain ⟨map, schedule, eq, keys, statuses⟩ :=
    Channel.takeIn_eq ((c.blank env p).candidates env p) (c.blank env p)
  have rebuilt : (c.rebuild env p).1 = { c.blank env p with map, schedule } := by
    rw [Channel.rebuild_eq]
    exact eq
  rw [rebuilt]
  refine ⟨keys.trans (c.blank_keys env p), fun m hm => ?_, rfl, rfl, rfl⟩
  rcases statuses m hm with queued | old
  · simp [queued]
  · rcases c.blank_statuses env p m old with st | st <;> simp [st]

/-! ### Channels that stand as a rebuild leaves them -/

/-- A channel that stands as its own rebuild leaves it. -/
def Channel.Rebuilt (env : ChannelEnv) (p : Nat) (c : Channel) : Prop := (c.rebuild env p).1 = c

theorem Channel.rebuild_rebuilt (env : ChannelEnv) (p : Nat) (c : Channel) : (c.rebuild env p).1.Rebuilt env p :=
  Channel.rebuild_congr (c.rebuild_settings env p)

/-- Leaving PLAY changes nothing of a rebuilt channel: no cue is ACTIVE and no output is on (05 R85). -/
theorem Channel.Rebuilt.leavePlay {env : ChannelEnv} {p : Nat} {c : Channel} (h : c.Rebuilt env p) :
    (c.leavePlay env p).1 = c := by
  obtain ⟨-, statuses, tone, lamps, overlay⟩ := c.rebuild_parts env p
  rw [h] at statuses tone lamps overlay
  have none : keysWhere (fun m => m.status.isActive) c.map = [] := by
    rw [List.eq_nil_iff_forall_not_mem]
    intro k hk
    obtain ⟨m, hm, -, active⟩ := (mem_keysWhere _ _ _).mp hk
    exact (statuses m hm).1 (of_decide_eq_true active)
  have stays : (c.interrupt env p).1 = c := by
    unfold Channel.interrupt
    rw [none]
    rfl
  unfold Channel.leavePlay
  dsimp only
  rw [stays, Channel.withdraw, ← tone, ← lamps, ← overlay]

end Sys2Proof.Machine
end

section
/-! What winds down: at a bank switch and at RESTART entries of the armed-take table are only freed or closed, channels only
rebuilt or withdrawn, the pass controller only set idle, and notices only added (03 R54; 11 R197). -/

namespace Sys2Proof.Machine

/-! ### The fault log takes lost notices (10 R174, R178) -/

/-- From `l` to `m` lost notices are recorded: the log only grows, and by NOTICE_OVERFLOW records alone. -/
structure FaultLog.Grows (l m : FaultLog) : Prop where
  length : m.slots.length = l.slots.length
  order : l.order <+: m.order
  kept : ∀ (i : Nat) (f : FaultRecord), l.slots[i]? = some (some f) → m.slots[i]? = some (some f)
  new : ∀ (i : Nat) (f : FaultRecord), m.slots[i]? = some (some f) →
    l.slots[i]? = some (some f) ∨ f.kind = .noticeOverflow
  first : l.order ≠ [] → m.firstPending = l.firstPending
  full : l.overflow = true → m = { l with owed := m.owed }
  owed : l.owed = true → m.owed = true
  idle : m.order = l.order → m.overflow = l.overflow → m = l

theorem FaultLog.Grows.refl (l : FaultLog) : l.Grows l :=
  ⟨rfl, List.prefix_refl _, fun _ _ h => h, fun _ _ h => .inl h, fun _ => rfl, fun _ => rfl, fun h => h, fun _ _ => rfl⟩

theorem FaultLog.Grows.trans {l m n : FaultLog} (h : l.Grows m) (k : m.Grows n) : l.Grows n where
  length := k.length.trans h.length
  order := h.order.trans k.order
  kept i f hf := k.kept i f (h.kept i f hf)
  new i f hf := (k.new i f hf).elim (h.new i f) .inr
  first some := by
    have still : m.order ≠ [] := fun e => some (List.prefix_nil.mp (e ▸ h.order))
    exact (k.first still).trans (h.first some)
  full flagged := by
    have hm := h.full flagged
    have hn := k.full (by rw [hm]; exact flagged)
    rw [hn, hm]
  owed due := k.owed (h.owed due)
  idle order flagged := by
    have backOrder : m.order = l.order :=
      h.order.eq_of_length_le (by rw [← order]; exact k.order.length_le) |>.symm
    have backOver : m.overflow = l.overflow := by
      cases hl : l.overflow with
      | true => rw [h.full hl, hl]
      | false =>
        cases hm : m.overflow with
        | false => rfl
        | true =>
          rw [k.full hm, hl] at flagged
          exact absurd (hm.symm.trans flagged) (by decide)
    obtain rfl := h.idle backOrder backOver
    exact k.idle order flagged

/-- The lowest free slot is free. -/
theorem lowestFree_get {α : Type} {l : List (Option α)} {k i : Nat} (h : lowestFree k l = some i) :
    k ≤ i ∧ l[i - k]? = some none := by
  induction l generalizing k with
  | nil => cases h
  | cons x l ih =>
    cases x with
    | none =>
      cases h
      simp
    | some x =>
      obtain ⟨le, get⟩ := ih h
      have e : i - k = i - (k + 1) + 1 := by omega
      exact ⟨by omega, by rw [e, List.getElem?_cons_succ]; exact get⟩

/-- A record kept in a free slot. -/
theorem FaultLog.Grows.keep {l : FaultLog} {i : Nat} {f : FaultRecord} (free : l.slots[i]? = some none)
    (kind : f.kind = .noticeOverflow) (room : l.overflow = false) {owed : Bool} (due : l.owed = true → owed = true) :
    l.Grows
      { l with
        slots := l.slots.set i (some f), order := l.order ++ [i],
        firstPending := if l.order = [] then some i else l.firstPending, owed } where
  length := List.length_set
  order := List.prefix_append _ _
  kept j g hg := by
    have ne : i ≠ j := fun e => by rw [e, hg] at free; cases free
    rwa [List.getElem?_set_ne ne]
  new j g hg := by
    by_cases e : i = j
    · subst e
      rw [List.getElem?_set_self (List.getElem?_eq_some_iff.mp free).1] at hg
      cases hg
      exact .inr kind
    · rw [List.getElem?_set_ne e] at hg
      exact .inl hg
  first some := if_neg some
  full flagged := absurd (flagged.symm.trans room) (by decide)
  owed := due
  idle order := absurd order (by simp)

/-- A record discarded for want of a slot. -/
theorem FaultLog.Grows.overflows {l : FaultLog} (room : l.overflow = false) {owed : Bool}
    (due : l.owed = true → owed = true) : l.Grows { l with overflow := true, owed } where
  length := rfl
  order := List.prefix_refl _
  kept _ _ h := h
  new _ _ h := .inl h
  first _ := rfl
  full flagged := absurd (flagged.symm.trans room) (by decide)
  owed := due
  idle _ flagged := absurd (flagged.trans room) (by simp)

theorem FaultLog.Grows.recordLostNotice (n : Notice) (s : State) : s.faults.Grows (recordLostNotice n s).faults := by
  have still {b : Bool} (h : s.faults.owed = true) : (s.faults.owed || b) = true := by rw [h]; rfl
  unfold Machine.recordLostNotice FaultLog.record
  cases room : s.faults.overflow with
  | true => exact .refl _
  | false =>
    rw [if_neg (by decide)]
    cases free : lowestFree 0 s.faults.slots with
    | none => exact .overflows room still
    | some i =>
      have free := (lowestFree_get free).2
      rw [← room]
      dsimp only
      split
      · exact FaultLog.Grows.keep (owed := s.faults.owed) free rfl room id
      · exact FaultLog.Grows.keep free rfl room still

theorem FaultLog.Grows.offer (n : Notice) (s : State) : s.faults.Grows (offer n s).faults := by
  unfold Machine.offer
  split
  · split
    · exact .refl _
    · exact .recordLostNotice n s
  · exact .refl _

end Sys2Proof.Machine
end

section
/-! The armed-take table winds down: entries are freed and closed, their records follow in their order, and of the slots and the
gate lines those of the entries go (07 R129, R133; 08 R140 to R147). -/

namespace Sys2Proof.Machine

/-! ### Slots and gate lines -/

/-- The slots left when the provisional ones of a key and some tracks are discarded (08 R147). -/
theorem mem_dropProvisionals (k : Key) (tracks : List Nat) (slots : List Slot) (y : Slot) :
    y ∈ tracks.foldl (fun acc n => dropProvisional k n acc) slots ↔
      y ∈ slots ∧ (y.firmness = .firm ∨ y.key ≠ k ∨ y.track ∉ tracks) := by
  induction tracks generalizing slots with
  | nil => simp
  | cons n tracks ih =>
    have one : y ∈ dropProvisional k n slots ↔ y ∈ slots ∧ (y.firmness = .firm ∨ y.key ≠ k ∨ y.track ≠ n) := by
      have firm : y.isProvisional = false ↔ y.firmness = .firm := by
        unfold Slot.isProvisional
        cases y.firmness <;> simp
      simp only [dropProvisional, List.mem_filter, Slot.isFor, Bool.not_eq_true', Bool.and_eq_false_iff,
        decide_eq_false_iff_not, firm]
      tauto
    rw [List.foldl_cons, ih, one, List.mem_cons]
    tauto

theorem dropProvisionals_sublist (k : Key) (tracks : List Nat) (slots : List Slot) :
    (tracks.foldl (fun acc n => dropProvisional k n acc) slots).Sublist slots := by
  induction tracks generalizing slots with
  | nil => exact .refl _
  | cons n tracks ih => exact (ih _).trans List.filter_sublist

theorem setLine_off (v : Half) (n k : Nat) :
    (setLine v n false).getLsbD k = true → v.getLsbD k = true ∧ n ≠ k := by
  simp only [setLine, Bool.false_eq_true, if_false, BitVec.getLsbD_and, BitVec.getLsbD_not, BitVec.getLsbD_shiftLeft,
    Bool.and_eq_true, and_imp, Bool.not_eq_true', decide_eq_true_eq]
  intro on inside off
  refine ⟨on, ?_⟩
  rintro rfl
  simp [inside] at off

/-- Of tracks with no gate open, every gate line goes off, and no other comes on (07 R123). -/
theorem setGateLines_off {items : List TrackItem} (shut : ∀ x ∈ items, x.gate ≠ .opened) {v : Half} {k : Nat}
    (h : (setGateLines items v).getLsbD k = true) : v.getLsbD k = true ∧ ∀ x ∈ items, x.track ≠ k := by
  unfold setGateLines at h
  induction items generalizing v with
  | nil => exact ⟨h, by simp⟩
  | cons x items ih =>
    rw [List.foldl_cons, decide_eq_false (shut x List.mem_cons_self)] at h
    obtain ⟨on, others⟩ := ih (fun y hy => shut y (List.mem_cons_of_mem x hy)) h
    obtain ⟨on, ne⟩ := setLine_off _ _ _ on
    exact ⟨on, fun y hy => (List.mem_cons.mp hy).elim (fun e => e ▸ ne) (others y)⟩

theorem TrackItem.shutAt_gate (pos : Nat) (x : TrackItem) : (x.shutAt pos).gate ≠ .opened := by
  unfold TrackItem.shutAt
  split
  · simp
  · rename_i h
    exact h

@[simp] theorem TrackItem.shutAt_track (pos : Nat) (x : TrackItem) : (x.shutAt pos).track = x.track := by
  unfold TrackItem.shutAt
  split <;> rfl

@[simp] theorem TrackItem.shutAt_firstOpen (pos : Nat) (x : TrackItem) : (x.shutAt pos).firstOpen = x.firstOpen := by
  unfold TrackItem.shutAt
  split <;> rfl

/-! ### Entries in the table -/

/-- The keys of the OPEN entries of a table, in its order. -/
def openKeys (l : List (Option TakeEntry)) : List Key := ((l.filterMap id).filter TakeEntry.opened).map TakeEntry.key

theorem openKeys_cons_none (l : List (Option TakeEntry)) : openKeys (none :: l) = openKeys l := rfl

theorem openKeys_cons_some (e : TakeEntry) (l : List (Option TakeEntry)) :
    openKeys (some e :: l) = if e.opened then e.key :: openKeys l else openKeys l := by
  unfold openKeys
  rw [List.filterMap_cons_some (f := id) rfl, List.filter_cons]
  split <;> rfl

/-- An ARMED entry freed leaves the OPEN ones. -/
theorem openKeys_set_armed {l : List (Option TakeEntry)} {i : Nat} {e : TakeEntry} (h : l[i]? = some (some e))
    (armed : e.opened = false) : openKeys (l.set i none) = openKeys l := by
  induction l generalizing i with
  | nil => rfl
  | cons x l ih =>
    cases i with
    | zero =>
      obtain rfl : x = some e := Option.some.inj h
      rw [List.set_cons_zero, openKeys_cons_none, openKeys_cons_some, armed]
      rfl
    | succ i =>
      have rest := ih h
      cases x with
      | none => exact rest
      | some y => rw [List.set_cons_succ, openKeys_cons_some, openKeys_cons_some, rest]

/-- The first OPEN entry closed takes its key from the front. -/
theorem openKeys_set_open {l : List (Option TakeEntry)} {i : Nat} {e : TakeEntry} (h : l[i]? = some (some e))
    (opened : e.opened = true) (first : ∀ j < i, ∀ f, l[j]? = some (some f) → f.opened = false) :
    e.key :: openKeys (l.set i none) = openKeys l := by
  induction l generalizing i with
  | nil => cases h
  | cons x l ih =>
    cases i with
    | zero =>
      obtain rfl : x = some e := Option.some.inj h
      rw [List.set_cons_zero, openKeys_cons_none, openKeys_cons_some, opened]
      rfl
    | succ i =>
      have rest := ih h fun j hj f hf => first (j + 1) (by omega) f hf
      cases x with
      | none => exact rest
      | some y =>
        have shut := first 0 (by omega) y rfl
        rw [List.set_cons_succ, openKeys_cons_some, openKeys_cons_some, shut]
        exact rest

theorem inUse_set_none {l : List (Option TakeEntry)} {i : Nat} {e : TakeEntry} (h : l[i]? = some (some e)) :
    ((l.set i none).filterMap id).length + 1 = (l.filterMap id).length := by
  induction l generalizing i with
  | nil => cases h
  | cons x l ih =>
    cases i with
    | zero =>
      obtain rfl : x = some e := Option.some.inj h
      simp
    | succ i =>
      have rest := ih h
      cases x with
      | none => exact rest
      | some y =>
        rw [List.set_cons_succ, List.filterMap_cons_some (f := id) rfl, List.filterMap_cons_some (f := id) rfl,
          List.length_cons, List.length_cons, rest]

theorem Takes.entryAt_eq_some {t : Takes} {i : Nat} {e : TakeEntry} (h : t.entryAt i = some e) :
    t.entries[i]? = some (some e) := by
  unfold Takes.entryAt at h
  cases hi : t.entries[i]? with
  | none => rw [hi] at h; cases h
  | some x => rw [hi] at h; exact congrArg some h

theorem Takes.entryAt_of_get {t : Takes} {i : Nat} {e : TakeEntry} (h : t.entries[i]? = some (some e)) :
    t.entryAt i = some e := by
  rw [Takes.entryAt, h]
  rfl

theorem Takes.openAt_eq_some {t : Takes} {i : Nat} {e : TakeEntry} :
    t.openAt i = some e ↔ t.entryAt i = some e ∧ e.opened = true := Option.filter_eq_some_iff

theorem Takes.armedAt_eq_some {t : Takes} {i : Nat} {e : TakeEntry} :
    t.armedAt i = some e ↔ t.entryAt i = some e ∧ e.opened = false := by
  simp [Takes.armedAt, Option.filter_eq_some_iff]

/-! ### Winding down -/

/-- What is lost with an entry: its provisional slots, but those of the tracks it opened (07 R129, R133). -/
def TakeEntry.sparesSlot (e : TakeEntry) (y : Slot) : Prop :=
  e.key = y.key → ∀ x ∈ e.items, x.track = y.track → e.opened = true ∧ x.firstOpen.isSome = true

/-- From `s` to `t` entries are only freed, or closed BROKEN at `p` in their order. -/
structure TakesWind (p : Nat) (s t : State) : Prop where
  length : t.takes.entries.length = s.takes.entries.length
  entry : ∀ i : Nat, t.takes.entryAt i = s.takes.entryAt i ∨ t.takes.entryAt i = none
  records : ∃ rs : List TakeRecord, t.log.records = s.log.records ++ rs
    ∧ rs.map TakeRecord.key ++ openKeys t.takes.entries = openKeys s.takes.entries
    ∧ ∀ r ∈ rs, r.status = .broken ∧ r.closePos = p ∧ r.collected = false
  reservations : ∃ k : Nat, t.takes.inUse.length + k = s.takes.inUse.length
    ∧ t.log.reservations = s.log.reservations - k
  sublist : t.slots.Sublist s.slots
  slots : ∀ y ∈ s.slots, (y ∈ t.slots ↔ y.firmness = .firm
    ∨ ∀ (i : Nat) (e : TakeEntry), s.takes.entryAt i = some e → t.takes.entryAt i = none → e.sparesSlot y)
  lines : ∀ k : Nat, t.takes.gateLines.getLsbD k = true → s.takes.gateLines.getLsbD k = true
    ∧ ∀ (i : Nat) (e : TakeEntry), s.takes.entryAt i = some e → t.takes.entryAt i = none → e.opened = true →
      ∀ x ∈ e.items, x.track ≠ k

/-- What touches neither takes, log nor slots. -/
theorem TakesWind.of {p : Nat} {s t : State} (takes : t.takes = s.takes) (log : t.log = s.log) (slots : t.slots = s.slots) :
    TakesWind p s t where
  length := by rw [takes]
  entry i := .inl (by rw [takes])
  records := ⟨[], by rw [log, List.append_nil], by rw [takes]; rfl, by simp⟩
  reservations := ⟨0, by rw [takes]; rfl, by rw [log]; rfl⟩
  sublist := by rw [slots]
  slots y hy := ⟨fun _ => .inr fun i e was gone => absurd (was.symm.trans (takes ▸ gone)) (Option.some_ne_none e),
    fun _ => slots ▸ hy⟩
  lines k on := ⟨takes ▸ on, fun i e was gone => absurd (was.symm.trans (takes ▸ gone)) (Option.some_ne_none e)⟩

theorem TakesWind.refl (p : Nat) (s : State) : TakesWind p s s := .of rfl rfl rfl

theorem TakesWind.trans {p : Nat} {s t u : State} (h : TakesWind p s t) (k : TakesWind p t u) : TakesWind p s u := by
  have stays {i : Nat} (gone : t.takes.entryAt i = none) : u.takes.entryAt i = none :=
    (k.entry i).elim (fun e => e.trans gone) id
  have still {i : Nat} {e : TakeEntry} (was : s.takes.entryAt i = some e) :
      t.takes.entryAt i = some e ∨ t.takes.entryAt i = none := (h.entry i).imp_left fun e => e.trans was
  have back {i : Nat} {e : TakeEntry} (here : t.takes.entryAt i = some e) : s.takes.entryAt i = some e :=
    (h.entry i).elim (fun same => same.symm.trans here) fun gone => absurd (here.symm.trans gone) (Option.some_ne_none e)
  obtain ⟨rs, records, keys, all⟩ := h.records
  obtain ⟨rs', records', keys', all'⟩ := k.records
  obtain ⟨n, used, reserved⟩ := h.reservations
  obtain ⟨m, used', reserved'⟩ := k.reservations
  refine ⟨k.length.trans h.length, fun i => ?_, ⟨rs ++ rs', ?_, ?_, ?_⟩, ⟨n + m, by omega, by omega⟩,
    k.sublist.trans h.sublist, fun y hy => ⟨fun hu => ?_, fun spared => ?_⟩, fun j on => ?_⟩
  · exact (k.entry i).elim (fun e => (h.entry i).imp e.trans e.trans) .inr
  · rw [records', records, List.append_assoc]
  · rw [List.map_append, List.append_assoc, keys', keys]
  · exact fun r hr => (List.mem_append.mp hr).elim (all r) (all' r)
  · have ht := k.sublist.subset hu
    rcases (h.slots y hy).mp ht with firm | first
    · exact .inl firm
    · refine ((k.slots y ht).mp hu).imp_right fun second i e was gone => ?_
      exact (still was).elim (fun here => second i e here gone) (first i e was)
  · have ht : y ∈ t.slots := (h.slots y hy).mpr (spared.imp_right fun all i e was gone => all i e was (stays gone))
    exact (k.slots y ht).mpr (spared.imp_right fun all i e here gone => all i e (back here) gone)
  · obtain ⟨on, second⟩ := k.lines j on
    obtain ⟨on, first⟩ := h.lines j on
    exact ⟨on, fun i e was gone => (still was).elim (fun here => second i e here gone) (first i e was)⟩

theorem TakesWind.openAt {p : Nat} {s t : State} (h : TakesWind p s t) {i : Nat} (shut : s.takes.openAt i = none) :
    t.takes.openAt i = none := by
  unfold Takes.openAt at shut ⊢
  rcases h.entry i with e | e
  · rw [e]
    exact shut
  · rw [e]
    rfl

/-- The entries once one of them is set free. -/
theorem Takes.entryAt_setEntry (t : Takes) {i : Nat} (hi : i < t.entries.length) (j : Nat) :
    (t.setEntry i none).entryAt j = if j = i then none else t.entryAt j := by
  unfold Takes.entryAt Takes.setEntry
  rw [List.getElem?_set]
  by_cases e : i = j
  · subst e
    simp [hi]
  · rw [if_neg e, if_neg (Ne.symm e)]

section
variable {p i : Nat} {s t : State} {e : TakeEntry}

/-- One entry retired: what is left of the table, the log, the slots and the gate lines. -/
theorem TakesWind.retire (here : s.takes.entryAt i = some e) (entries : t.takes.entries = s.takes.entries.set i none)
    (records : ∃ rs : List TakeRecord, t.log.records = s.log.records ++ rs
      ∧ rs.map TakeRecord.key ++ openKeys (s.takes.entries.set i none) = openKeys s.takes.entries
      ∧ ∀ r ∈ rs, r.status = .broken ∧ r.closePos = p ∧ r.collected = false)
    (reservations : t.log.reservations = s.log.reservations - 1) (sublist : t.slots.Sublist s.slots)
    (slots : ∀ y ∈ s.slots, (y ∈ t.slots ↔ y.firmness = .firm ∨ e.sparesSlot y))
    (lines : ∀ k : Nat, t.takes.gateLines.getLsbD k = true → s.takes.gateLines.getLsbD k = true
      ∧ (e.opened = true → ∀ x ∈ e.items, x.track ≠ k)) : TakesWind p s t := by
  have get := Takes.entryAt_eq_some here
  have left (j : Nat) : t.takes.entryAt j = if j = i then none else s.takes.entryAt j := by
    rw [← s.takes.entryAt_setEntry (List.getElem?_eq_some_iff.mp get).1 j]
    unfold Takes.entryAt Takes.setEntry
    rw [entries]
  have only {j : Nat} {f : TakeEntry} (was : s.takes.entryAt j = some f) (gone : t.takes.entryAt j = none) : f = e := by
    rw [left] at gone
    split at gone
    · rename_i ji
      rw [ji, here] at was
      exact (Option.some.inj was).symm
    · exact absurd (was.symm.trans gone) (Option.some_ne_none f)
  have gone : t.takes.entryAt i = none := by rw [left, if_pos rfl]
  refine ⟨by rw [entries, List.length_set], fun j => ?_, by rw [entries]; exact records,
    ⟨1, by rw [Takes.inUse, entries]; exact inUse_set_none get, reservations⟩, sublist, fun y hy => ?_, fun k on => ?_⟩
  · rw [left]
    split
    · exact .inr rfl
    · exact .inl rfl
  · rw [slots y hy]
    exact or_congr_right ⟨fun spared j f was gone => only was gone ▸ spared, fun all => all i e here gone⟩
  · exact ⟨(lines k on).1, fun j f was gone opened => only was gone ▸ (lines k on).2 (only was gone ▸ opened)⟩

/-- An ARMED entry freed (07 R133). -/
theorem TakesWind.releaseEntry (h : s.takes.armedAt i = some e) : TakesWind p s (releaseEntry i e s) := by
  obtain ⟨here, armed⟩ := Takes.armedAt_eq_some.mp h
  have slots : (Machine.releaseEntry i e s).slots =
      (e.items.map TrackItem.track).foldl (fun acc n => dropProvisional e.key n acc) s.slots := by
    rw [List.foldl_map]
    rfl
  refine .retire here rfl ⟨[], (List.append_nil _).symm, openKeys_set_armed (Takes.entryAt_eq_some here) armed, by simp⟩
    rfl ?_ (fun y hy => ?_) (fun k on => ⟨on, fun opened => ?_⟩)
  · rw [slots]
    exact dropProvisionals_sublist ..
  · rw [slots, mem_dropProvisionals, TakeEntry.sparesSlot, armed]
    simp only [hy, true_and, Bool.false_eq_true, false_and, List.mem_map, not_exists, not_and]
    refine or_congr_right ⟨fun out key => out.resolve_left fun ne => ne key.symm, fun spared => ?_⟩
    by_cases key : y.key = e.key
    · exact .inr (spared key.symm)
    · exact .inl key
  · rw [armed] at opened
    cases opened

/-- The first OPEN entry closed BROKEN (07 R129). -/
theorem TakesWind.writeClose (h : s.takes.openAt i = some e) (first : ∀ j < i, s.takes.openAt j = none) :
    TakesWind p s (writeClose .broken p i e s) := by
  obtain ⟨here, opened⟩ := Takes.openAt_eq_some.mp h
  have get := Takes.entryAt_eq_some here
  have lower : ∀ j < i, ∀ f, s.takes.entries[j]? = some (some f) → f.opened = false := by
    intro j hj f hf
    rw [← Bool.not_eq_true]
    intro open_f
    have := Takes.openAt_eq_some.mpr ⟨Takes.entryAt_of_get hf, open_f⟩
    rw [first j hj] at this
    cases this
  refine .retire here rfl
    ⟨[_], rfl, openKeys_set_open (e := e) get opened lower, fun r hr => by rw [List.mem_singleton.mp hr]; exact ⟨rfl, rfl, rfl⟩⟩
    rfl (dropProvisionals_sublist ..) (fun y hy => ?_) (fun k on => ?_)
  · have unopened : y.track ∈ ((e.shutAt p).items.filter fun x => x.firstOpen.isNone).map TrackItem.track ↔
        ∃ x ∈ e.items, x.track = y.track ∧ x.firstOpen = none := by
      simp only [TakeEntry.shutAt, List.filter_map, List.map_map, List.mem_map, List.mem_filter, Function.comp_apply,
        TrackItem.shutAt_firstOpen, TrackItem.shutAt_track, Option.isNone_iff_eq_none]
      exact ⟨fun ⟨x, ⟨hx, fresh⟩, track⟩ => ⟨x, hx, track, fresh⟩, fun ⟨x, hx, track, fresh⟩ => ⟨x, ⟨hx, fresh⟩, track⟩⟩
    refine (mem_dropProvisionals ..).trans ?_
    rw [unopened, TakeEntry.sparesSlot, opened]
    simp only [hy, true_and, not_exists, not_and, Option.isSome_iff_ne_none]
    refine or_congr_right ⟨fun out key => out.resolve_left fun ne => ne key.symm, fun spared => ?_⟩
    by_cases key : y.key = e.key
    · exact .inr (spared key.symm)
    · exact .inl key
  · obtain ⟨on, off⟩ := setGateLines_off (fun x hx => by
      obtain ⟨x, -, rfl⟩ := List.mem_map.mp hx
      exact x.shutAt_gate p) on
    refine ⟨on, fun _ x hx => ?_⟩
    rw [← x.shutAt_track p]
    exact off _ (List.mem_map_of_mem hx)

end

end Sys2Proof.Machine
end

section
/-! The whole engine winds down: what the closes, frees and rebuilds of a bank switch or a RESTART leave of every block, while
no switch is pending (03 R54; 11 R197). -/

namespace Sys2Proof.Machine

/-! ### Channels -/

/-- From `c` to `d` a channel is only rebuilt or withdrawn: its settings stay, and a disabled or rebuilt channel stays whole. -/
structure Channel.Winds (env : ChannelEnv) (p : Nat) (c d : Channel) : Prop where
  settings : d.settings = c.settings
  disabled : c.settings.enabled = false → d = c
  rebuilt : c.Rebuilt env p → d = c

theorem Channel.Winds.refl (env : ChannelEnv) (p : Nat) (c : Channel) : c.Winds env p c := ⟨rfl, fun _ => rfl, fun _ => rfl⟩

theorem Channel.Winds.trans {env : ChannelEnv} {p : Nat} {c d e : Channel} (h : c.Winds env p d) (k : d.Winds env p e) :
    c.Winds env p e where
  settings := k.settings.trans h.settings
  disabled off := by
    have same := h.disabled off
    exact (k.disabled (by rw [same]; exact off)).trans same
  rebuilt fresh := by
    have same := h.rebuilt fresh
    exact (k.rebuilt (by rw [same]; exact fresh)).trans same

theorem Channel.Winds.rebuild {env : ChannelEnv} {p : Nat} {c : Channel} (on : c.settings.enabled = true) :
    c.Winds env p (c.rebuild env p).1 :=
  ⟨c.rebuild_settings env p, fun off => absurd (on.symm.trans off) (by decide), id⟩

theorem Channel.Winds.leavePlay {env : ChannelEnv} {p : Nat} {c : Channel} (on : c.settings.enabled = true) :
    c.Winds env p (c.leavePlay env p).1 :=
  ⟨(c.leavePlay_keeps env p).1, fun off => absurd (on.symm.trans off) (by decide), Channel.Rebuilt.leavePlay⟩

/-- A channel that has been rebuilt at some time stands as a rebuild of the channel before it all. -/
theorem Channel.Winds.eq_rebuild {env : ChannelEnv} {p : Nat} {c d : Channel} (h : c.Winds env p d)
    (fresh : d.Rebuilt env p) : d = (c.rebuild env p).1 :=
  fresh.symm.trans (Channel.rebuild_congr h.settings)

/-! ### The whole state -/

/-- From `s` to `t` the engine winds down, with the play head at `p`. -/
structure WindsDown (p : Nat) (s t : State) : Prop where
  counter : t.counter = s.counter
  window : t.window = s.window
  video : t.video = s.video
  table : t.table = s.table
  head : t.tracker.head = s.tracker.head
  link : s.sameLink t
  notices : s.link.notices <+: t.link.notices
  line : s.transport.line <+: t.transport.line
  number : t.pass.number = s.pass.number
  faults : s.faults.Grows t.faults
  count : t.channels.length = s.channels.length
  channels : ∀ (n : Nat) (c : Channel), s.channels[n]? = some c →
    ∃ d : Channel, t.channels[n]? = some d ∧ c.Winds (s.channelEnv n) p d
  takes : TakesWind p s t

theorem channelEnv_congr {s t : State} (counter : t.counter = s.counter) (window : t.window = s.window)
    (video : t.video = s.video) (table : t.table = s.table) (n : Nat) : t.channelEnv n = s.channelEnv n := by
  simp only [State.channelEnv, State.cues, State.rate, counter, window, video, table]

theorem WindsDown.env {p : Nat} {s t : State} (h : WindsDown p s t) (n : Nat) : t.channelEnv n = s.channelEnv n :=
  channelEnv_congr h.counter h.window h.video h.table n

theorem WindsDown.trans {p : Nat} {s t u : State} (h : WindsDown p s t) (k : WindsDown p t u) : WindsDown p s u where
  counter := k.counter.trans h.counter
  window := k.window.trans h.window
  video := k.video.trans h.video
  table := k.table.trans h.table
  head := k.head.trans h.head
  link := h.link.trans k.link
  notices := h.notices.trans k.notices
  line := h.line.trans k.line
  number := k.number.trans h.number
  faults := h.faults.trans k.faults
  count := k.count.trans h.count
  channels n c hc := by
    obtain ⟨d, hd, first⟩ := h.channels n c hc
    obtain ⟨e, he, second⟩ := k.channels n d hd
    rw [h.env] at second
    exact ⟨e, he, first.trans second⟩
  takes := h.takes.trans k.takes

/-- A change of the tracker, the reader, the arbiter's choices or the pass controller alone, with P and the pass number kept. -/
theorem WindsDown.of {p : Nat} {s t : State} (counter : t.counter = s.counter) (window : t.window = s.window)
    (video : t.video = s.video) (table : t.table = s.table) (head : t.tracker.head = s.tracker.head)
    (link : t.link = s.link) (line : s.transport.line <+: t.transport.line) (number : t.pass.number = s.pass.number)
    (faults : t.faults = s.faults) (channels : t.channels = s.channels) (takes : t.takes = s.takes) (log : t.log = s.log)
    (slots : t.slots = s.slots) : WindsDown p s t where
  counter := counter
  window := window
  video := video
  table := table
  head := head
  link := by rw [State.sameLink, link]
  notices := by rw [link]
  line := line
  number := number
  faults := faults ▸ .refl _
  count := by rw [channels]
  channels n c hc := ⟨c, channels ▸ hc, .refl _ _ c⟩
  takes := .of takes log slots

theorem WindsDown.refl (p : Nat) (s : State) : WindsDown p s s :=
  .of rfl rfl rfl rfl rfl rfl (List.prefix_refl _) rfl rfl rfl rfl rfl rfl

/-! ### Operations that wind down -/

/-- The play head stands at `p` and no switch is pending. -/
structure State.Calm (p : Nat) (s : State) : Prop where
  head : s.tracker.head = p
  idle : s.table.switchPending = false

/-- From a calm state `s` to `t` the engine winds down, the tracker and the reader kept. -/
structure Winds (p : Nat) (s t : State) : Prop where
  keeps : s.Calm p → WindsDown p s t ∧ t.tracker = s.tracker ∧ t.reader = s.reader

theorem WindsDown.calm {p : Nat} {s t : State} (h : WindsDown p s t) (c : s.Calm p) : t.Calm p :=
  ⟨h.head.trans c.head, by rw [h.table]; exact c.idle⟩

theorem Winds.refl (p : Nat) (s : State) : Winds p s s := ⟨fun _ => ⟨.refl p s, rfl, rfl⟩⟩

theorem Winds.trans {p : Nat} {s t u : State} (h : Winds p s t) (k : Winds p t u) : Winds p s u :=
  ⟨fun c => by
    obtain ⟨down, tracker, reader⟩ := h.keeps c
    obtain ⟨down', tracker', reader'⟩ := k.keeps (down.calm c)
    exact ⟨down.trans down', tracker'.trans tracker, reader'.trans reader⟩⟩

theorem Winds.ite {p : Nat} {c : Prop} [Decidable c] {s t u : State} (h : Winds p s t) (k : Winds p s u) :
    Winds p s (if c then t else u) := by
  split
  · exact h
  · exact k

theorem Winds.foldl {α : Type} {p : Nat} {f : State → α → State} {l : List α} (h : ∀ x ∈ l, ∀ s : State, Winds p s (f s x))
    (s : State) : Winds p s (l.foldl f s) := by
  induction l generalizing s with
  | nil => exact .refl p s
  | cons x l ih =>
    exact (h x List.mem_cons_self s).trans (ih (fun y hy => h y (List.mem_cons_of_mem x hy)) _)

/-- What need only hold from a calm state. -/
theorem Winds.of_calm {p : Nat} {s t : State} (h : s.Calm p → Winds p s t) : Winds p s t := ⟨fun c => (h c).keeps c⟩

theorem offer_notices_prefix (n : Notice) (s : State) : s.link.notices <+: (offer n s).link.notices := by
  unfold offer
  split
  · split
    · exact List.prefix_append _ _
    · rw [recordLostNotice_link]
  · exact List.prefix_refl _

theorem Winds.offer (p : Nat) (n : Notice) (s : State) : Winds p s (offer n s) := by
  refine ⟨fun _ => ⟨?_, offer_tracker n s, offer_reader n s⟩⟩
  exact ⟨offer_counter n s, offer_window n s, offer_video n s, offer_table n s, by rw [offer_tracker], offer_sameLink n s,
    offer_notices_prefix n s, by rw [offer_transport], by rw [offer_pass], .offer n s, by rw [offer_channels],
    fun m c hc => ⟨c, by rw [offer_channels]; exact hc, .refl _ _ c⟩,
    .of (offer_takes n s) (offer_log n s) (offer_slots n s)⟩

/-- A change of the pass controller that keeps its number. -/
theorem Winds.pass (p : Nat) {s : State} {q : PassCtl} (number : q.number = s.pass.number) : Winds p s { s with pass := q } :=
  ⟨fun _ => ⟨.of rfl rfl rfl rfl rfl rfl (List.prefix_refl _) number rfl rfl rfl rfl rfl, rfl, rfl⟩⟩

/-- A change of the transport link that goes on with its line. -/
theorem Winds.transport (p : Nat) {s : State} {x : Transport} (line : s.transport.line <+: x.line) :
    Winds p s { s with transport := x } :=
  ⟨fun _ => ⟨.of rfl rfl rfl rfl rfl rfl line rfl rfl rfl rfl rfl rfl, rfl, rfl⟩⟩

theorem Winds.arbiter (p : Nat) (s : State) (a : List (List Block)) : Winds p s { s with arbiter := a } :=
  ⟨fun _ => ⟨.of rfl rfl rfl rfl rfl rfl (List.prefix_refl _) rfl rfl rfl rfl rfl rfl, rfl, rfl⟩⟩

/-- A change of takes, log and slots alone. -/
theorem Winds.takes {p : Nat} {s : State} {x : Takes} {log : TakeLog} {slots : List Slot}
    (h : TakesWind p s { s with takes := x, log, slots }) : Winds p s { s with takes := x, log, slots } :=
  ⟨fun _ => ⟨⟨rfl, rfl, rfl, rfl, rfl, rfl, List.prefix_refl _, List.prefix_refl _, rfl, .refl _, rfl,
    fun _ c hc => ⟨c, hc, .refl _ _ c⟩, h⟩, rfl, rfl⟩⟩

theorem Winds.drawOrder (p : Nat) (s : State) : Winds p s s.drawOrder.2 := by
  unfold State.drawOrder
  split
  · exact .refl p s
  · exact .arbiter p s _

theorem Winds.passArmFreed (p i : Nat) (c : FreeCause) (s : State) : Winds p s (passArmFreed i c s) := by
  unfold Machine.passArmFreed
  split
  · exact .refl p s
  · exact .ite (.pass p rfl) (.refl p s)

theorem Winds.passTakeClosed (p i n : Nat) (st : TakeStatus) (d : Bool) (s : State) :
    Winds p s (passTakeClosed i n st d s) := by
  unfold Machine.passTakeClosed
  split
  · exact .refl p s
  · exact .ite (.pass p rfl) (.refl p s)

theorem Winds.freeArmed (p : Nat) (reason : LapseReason) (i : Nat) (s : State) :
    Winds p s (freeArmed (.lapse reason) i s) := by
  unfold Machine.freeArmed
  split
  · exact .refl p s
  · rename_i e h
    have offered : Winds p s (Machine.offer (.armLapsed i e.key e.origin reason) (releaseEntry i e s)) :=
      (Winds.takes (.releaseEntry h)).trans (.offer p _ _)
    exact .ite (offered.trans (.passArmFreed p i _ _)) offered

theorem Winds.testSafePoint (p : Nat) (s : State) : Winds p s (testSafePoint s) :=
  .of_calm fun c => by
    rw [testSafePoint_waits (.inl c.idle)]
    exact .refl p s

/-- The lowest OPEN entry closed BROKEN (07 R129). -/
theorem Winds.closeEntry (p i : Nat) (s : State) (first : ∀ j < i, s.takes.openAt j = none) :
    Winds p s (closeEntry .broken p i s) := by
  unfold Machine.closeEntry
  split
  · exact .refl p s
  · rename_i e h
    have offered : Winds p s (Machine.offer (.take s.log.nextNumber e.key .broken p e.origin e.passNumber e.disarmAfter)
        (writeClose .broken p i e s)) := (Winds.takes (.writeClose h first)).trans (.offer p _ _)
    exact (Winds.ite (offered.trans (.passTakeClosed p i _ _ _ _)) offered).trans (.testSafePoint p _)

/-! ### Entries taken in ascending number -/

/-- An operation on each entry in ascending number winds down, when on each it leaves no OPEN entry and winds down with no
OPEN entry below. -/
theorem Winds.ascending {p : Nat} {f : State → Nat → State}
    (step : ∀ (s : State) (i : Nat), (∀ j < i, s.takes.openAt j = none) → Winds p s (f s i))
    (shut : ∀ (s : State) (i : Nat), (f s i).takes.openAt i = none) (n k : Nat) (s : State)
    (below : ∀ j < k, s.takes.openAt j = none) : Winds p s ((List.range' k n).foldl f s) := by
  induction n generalizing k s with
  | zero => exact .refl p s
  | succ n ih =>
    refine .of_calm fun c => ?_
    have first := step s k below
    rw [List.range'_succ, List.foldl_cons]
    refine first.trans (ih (k + 1) (f s k) fun j hj => ?_)
    rcases Nat.lt_succ_iff_lt_or_eq.mp hj with lower | rfl
    · exact (first.keeps c).1.takes.openAt (below j lower)
    · exact shut s j

theorem entryNumbers_eq_range' : entryNumbers = List.range' 0 4 := by decide

/-- Every OPEN entry closed BROKEN (07 R128, R129). -/
theorem Winds.closeAllOpen (p : Nat) (s : State) : Winds p s (closeAllOpen .broken p s) := by
  unfold Machine.closeAllOpen
  rw [entryNumbers_eq_range']
  exact .ascending (fun s i => .closeEntry p i s) (fun s i => (Retires.closeEntry .broken p i s).2) 4 0 s (by omega)

theorem Winds.restartEntry (p i : Nat) (s : State) (first : ∀ j < i, s.takes.openAt j = none) :
    Winds p s (restartEntry s i) := by
  refine .of_calm fun c => ?_
  unfold Machine.restartEntry
  rw [c.head]
  split
  · exact .refl p s
  · exact .ite (.closeEntry p i s first) (.freeArmed p .restart i s)

/-! ### Entries that are gone -/

theorem passArmFreed_takes (i : Nat) (cause : FreeCause) (s : State) : (passArmFreed i cause s).takes = s.takes := by
  unfold passArmFreed
  split
  · rfl
  · split <;> rfl

theorem freeArmed_takes {cause : FreeCause} {i : Nat} {s : State} {e : TakeEntry} (h : s.takes.armedAt i = some e) :
    (freeArmed cause i s).takes = s.takes.setEntry i none := by
  have let_go (u : State) : (if e.origin = .pass then passArmFreed i cause u else u).takes = u.takes := by
    split
    · exact passArmFreed_takes i cause u
    · rfl
  unfold freeArmed
  rw [h]
  refine (let_go _).trans ?_
  cases cause with
  | disarm => rfl
  | lapse reason => exact offer_takes _ _

theorem Takes.setEntry_entryAt (t : Takes) (i : Nat) : (t.setEntry i none).entryAt i = none := by
  cases h : (t.setEntry i none).entryAt i with
  | none => rfl
  | some e =>
    have inside := (List.getElem?_eq_some_iff.mp (Takes.entryAt_eq_some (Takes.entryAt_setEntry_none h))).1
    rw [t.entryAt_setEntry inside, if_pos rfl] at h
    cases h

/-- An entry closed, or freed when ARMED, is in use no more (07 R137). -/
theorem restartEntry_entryAt (s : State) (i : Nat) : (restartEntry s i).takes.entryAt i = none := by
  unfold restartEntry
  split
  · rename_i absent
    exact absent
  · rename_i e here
    cases opened : e.opened with
    | true =>
      obtain ⟨retires, shut⟩ := Retires.closeEntry .broken s.tracker.head i s
      rw [if_pos rfl]
      cases left : (closeEntry .broken s.tracker.head i s).takes.entryAt i with
      | none => rfl
      | some f =>
        obtain rfl : e = f := Option.some.inj (here.symm.trans (retires.entry i f left))
        exact absurd (shut.symm.trans (Takes.openAt_eq_some.mpr ⟨left, opened⟩)) (Option.some_ne_none e).symm
    | false =>
      rw [if_neg Bool.false_ne_true, freeArmed_takes (Takes.armedAt_eq_some.mpr ⟨here, opened⟩)]
      exact s.takes.setEntry_entryAt i

theorem Takes.openAt_of_absent {t : Takes} {i : Nat} (h : t.entryAt i = none) : t.openAt i = none := by
  rw [Takes.openAt, h]
  rfl

/-- The take controller's RESTART (07 R137). -/
theorem Winds.restartTakes (p : Nat) (s : State) : Winds p s (restartTakes s) := by
  unfold Machine.restartTakes
  rw [entryNumbers_eq_range']
  exact .ascending (fun s i => .restartEntry p i s) (fun s i => Takes.openAt_of_absent (restartEntry_entryAt s i)) 4 0 s
    (by omega)

end Sys2Proof.Machine
end

section
/-! Rebuilds, and the class change to NONE, as steps that wind the engine down: the channels, the pass controller's abort, and the
report at every block (05 R78, R85; 09 R166). -/

namespace Sys2Proof.Machine

/-! ### Channels that act -/

/-- Only notices are given out. -/
def NoticesOnly (es : List Emit) : Prop := ∀ e ∈ es, ∃ n : Notice, e = .notice n

theorem noticesOnly_passed (env : ChannelEnv) (keys : List Key) (reason : PassReason) (p : Nat) :
    NoticesOnly (keys.map fun k => passedNotice env k reason p) := by
  intro e he
  obtain ⟨k, -, rfl⟩ := List.mem_map.mp he
  exact ⟨_, rfl⟩

theorem Winds.emitAll {es : List Emit} (h : NoticesOnly es) (p : Nat) (s : State) : Winds p s (emitAll es s) := by
  unfold Machine.emitAll
  refine .foldl (fun e he u => ?_) s
  obtain ⟨n, rfl⟩ := h e he
  exact .offer p n u

/-- A change of one channel alone. -/
theorem Winds.channel {p n : Nat} {s : State} {c d : Channel} (hc : s.channels[n]? = some c)
    (h : c.Winds (s.channelEnv n) p d) : Winds p s { s with channels := s.channels.set n d } := by
  refine ⟨fun _ => ⟨⟨rfl, rfl, rfl, rfl, rfl, rfl, List.prefix_refl _, List.prefix_refl _, rfl, .refl _, List.length_set,
    fun m x hx => ?_, .of rfl rfl rfl⟩, rfl, rfl⟩⟩
  by_cases e : n = m
  · subst e
    obtain rfl : c = x := Option.some.inj (hc.symm.trans hx)
    exact ⟨d, List.getElem?_set_self (List.getElem?_eq_some_iff.mp hc).1, h⟩
  · exact ⟨x, (List.getElem?_set_ne e).trans hx, .refl _ _ x⟩

theorem Winds.onChannel {p n : Nat} {f : Channel → Channel × List Emit} {s : State}
    (h : ∀ c : Channel, s.channels[n]? = some c → c.Winds (s.channelEnv n) p (f c).1 ∧ NoticesOnly (f c).2) :
    Winds p s (onChannel n f s) := by
  unfold Machine.onChannel
  split
  · exact .refl p s
  · rename_i c hc
    obtain ⟨winds, notices⟩ := h c hc
    exact (Winds.channel hc winds).trans (.emitAll notices p _)

theorem Winds.rebuildChannel (p n : Nat) (s : State) : Winds p s (rebuildChannel s n) := by
  refine .of_calm fun calm => ?_
  unfold Machine.rebuildChannel
  rw [calm.head]
  refine .onChannel fun c _ => ?_
  split
  · rename_i on
    refine ⟨.rebuild on, ?_⟩
    rw [Channel.rebuild_eq]
    exact noticesOnly_passed _ _ _ _
  · exact ⟨.refl _ _ c, by simp [NoticesOnly]⟩

/-- The report of a class change to NONE, which leaves the play head where it is (02 R38; 11 R197). -/
def Report.Silences (p : Nat) (rep : Report) : Prop :=
  (∃ old : MotionClass, rep.kind = .classChange old .none) ∧ rep.snap.head = p ∧ rep.snap.state = .silent

section
variable {p : Nat} {rep : Report}

theorem Winds.channelReport (h : rep.Silences p) (n : Nat) (s : State) :
    Winds p s (Machine.onChannel n (fun c => c.takeReport (s.channelEnv n) rep) s) := by
  obtain ⟨⟨old, kind⟩, head, -⟩ := h
  have stays (c : Channel) : c.Winds (s.channelEnv n) p c ∧ NoticesOnly [] := ⟨.refl _ _ c, by simp [NoticesOnly]⟩
  refine .onChannel fun c _ => ?_
  unfold Channel.takeReport
  rw [kind, head]
  split
  · rename_i on
    dsimp only
    rw [if_neg (by decide)]
    split
    · refine ⟨.leavePlay on, ?_⟩
      unfold Channel.leavePlay
      dsimp only
      rw [(c.interrupt_eq _ _).1]
      exact noticesOnly_passed _ _ _ _
    · exact stays c
  · exact stays c

/-! ### The pass controller (09 R166) -/

theorem Winds.freePassArm (p : Nat) (s : State) : Winds p s (freePassArm s) := by
  unfold Machine.freePassArm
  split
  · exact .refl p s
  · exact .freeArmed p .pass _ s

theorem Winds.dropQueued (p : Nat) (s : State) : Winds p s { s with pass := { s.pass with queued := none } } := .pass p rfl

theorem Winds.enterIdle (p : Nat) (s : State) : Winds p s (enterIdle s) :=
  (Winds.pass p (s := s) (q := { s.pass with state := .idle, inHand := none, deadline := none }) rfl).trans
    (.testSafePoint p _)

theorem Transport.send_line (req : TransportRequest) (t : Transport) : t.line <+: (t.send req).line := by
  unfold Transport.send
  split
  · exact List.prefix_append _ _
  · exact List.prefix_refl _

/-- An abort that breaks its takes (09 R166). -/
theorem Winds.abortPass (p : Nat) {reason : PassEnd} (broken : reason.closeStatus = .broken) (s : State) :
    Winds p s (abortPass reason none s) := by
  refine .of_calm fun calm => ?_
  have ends : Winds p s (Machine.freePassArm (Machine.closeAllOpen reason.closeStatus s.tracker.head s)) := by
    rw [broken, calm.head]
    exact (Winds.closeAllOpen p s).trans (.freePassArm p _)
  cases held : (Machine.freePassArm (Machine.closeAllOpen reason.closeStatus s.tracker.head s)).pass.inHand with
  | none =>
    unfold Machine.abortPass
    dsimp only
    rw [held]
    exact .refl p s
  | some h =>
    obtain ⟨n, eq⟩ := abortPass_eq none rfl held
    have idle := ((ends.trans (.dropQueued p _)).trans (.offer p n _)).trans (.enterIdle p _)
    rw [eq]
    exact .ite (idle.trans (.transport p (Transport.send_line _ _))) idle

/-- The phases take a class change to NONE as a loss of the timecode, or not at all (09 R158 to R161). -/
theorem Winds.passReport (h : rep.Silences p) (s : State) : Winds p s (passReport rep s) := by
  obtain ⟨⟨old, kind⟩, -, silent⟩ := h
  have lost : Winds p s (Machine.abortPass .lost none s) := .abortPass p rfl s
  unfold Machine.passReport
  split
  · exact .refl p s
  · rename_i h held
    cases phase : s.pass.state with
    | idle => exact .refl p s
    | locating =>
      have still : phaseTest rep.snap s = s := by
        unfold phaseTest
        simp [held, phase, parkedAtStart, silent]
      dsimp only
      rw [still]
      exact .refl p s
    | rollingUp =>
      simp only [rollingUpReport, kind, if_true]
      exact lost
    | rolling =>
      simp only [rollingReport, kind, if_true]
      exact lost
    | ending =>
      simp only [endingReport, kind, if_true]
      exact lost

/-! ### The report at every block -/

theorem Winds.offerReport (p : Nat) (rep : Report) (s : State) : Winds p s (offerReport rep s) := by
  unfold Machine.offerReport
  split
  · exact .refl p s
  · exact .offer p _ s

theorem Winds.takesReport (h : rep.Silences p) (s : State) : Winds p s (takesReport rep s) := by
  obtain ⟨⟨old, kind⟩, head, -⟩ := h
  simp only [Machine.takesReport, kind, head]
  exact .ite (.closeAllOpen p s) (.refl p s)

theorem Winds.deliver {b : Block} (taker : b ∈ reportBlocks) (h : rep.Silences p) (s : State) :
    Winds p s (deliver b rep s) := by
  cases b with
  | tracker => exact .offerReport p rep s
  | channel n => exact .channelReport h n s
  | takes => exact .takesReport h s
  | pass => exact .passReport h s
  | cueTable =>
    obtain ⟨⟨old, kind⟩, -, -⟩ := h
    rw [deliver_cueTable_change kind]
    exact .testSafePoint p s
  | overlay => exact absurd taker (by decide)

end

/-! ### Channels that have been rebuilt -/

/-- Channel `n`, when enabled, stands as a rebuild leaves it. -/
def State.Fresh (p n : Nat) (s : State) : Prop :=
  ∀ c : Channel, s.channels[n]? = some c → c.settings.enabled = true → c.Rebuilt (s.channelEnv n) p

theorem WindsDown.channel_of {p n : Nat} {s t : State} (h : WindsDown p s t) {d : Channel} (hd : t.channels[n]? = some d) :
    ∃ c : Channel, s.channels[n]? = some c ∧ c.Winds (s.channelEnv n) p d := by
  have inside : n < s.channels.length := h.count ▸ (List.getElem?_eq_some_iff.mp hd).1
  obtain ⟨e, he, winds⟩ := h.channels n _ (List.getElem?_eq_getElem inside)
  obtain rfl : d = e := Option.some.inj (hd.symm.trans he)
  exact ⟨_, List.getElem?_eq_getElem inside, winds⟩

/-- A rebuilt channel stays. -/
theorem WindsDown.fresh {p n : Nat} {s t : State} (h : WindsDown p s t) (fresh : s.Fresh p n) : t.Fresh p n := by
  intro d hd on
  obtain ⟨c, hc, winds⟩ := h.channel_of hd
  rw [winds.settings] at on
  rw [h.env, winds.rebuilt (fresh c hc on)]
  exact fresh c hc on

/-- What winding down to a rebuild leaves of a channel. -/
theorem WindsDown.channel_eq {p n : Nat} {s t : State} (h : WindsDown p s t) (fresh : t.Fresh p n) {c : Channel}
    (hc : s.channels[n]? = some c) :
    (c.settings.enabled = false → t.channels[n]? = some c)
      ∧ (c.settings.enabled = true → t.channels[n]? = some (c.rebuild (s.channelEnv n) p).1) := by
  obtain ⟨d, hd, winds⟩ := h.channels n c hc
  refine ⟨fun off => winds.disabled off ▸ hd, fun on => ?_⟩
  have again := fresh d hd (by rw [winds.settings]; exact on)
  rw [h.env] at again
  rw [← winds.eq_rebuild again]
  exact hd

/-- The parts of every enabled channel after winding down to rebuilds. -/
theorem State.Fresh.parts {p n : Nat} {t : State} (fresh : t.Fresh p n) {c : Channel} (hc : t.channels[n]? = some c)
    (on : c.settings.enabled = true) :
    c.map.map MapEntry.key = (t.cues.filter fun q => c.acceptsTag q.tag).map Cue.key
      ∧ (∀ m ∈ c.map, m.status ≠ .active ∧ m.status ≠ .done)
      ∧ c.tone = Tone.idle ∧ c.lamps = { ready := 0, live := 0 } ∧ c.overlay = Overlay.clear := by
  have parts := c.rebuild_parts (t.channelEnv n) p
  rw [fresh c hc on] at parts
  exact parts

section
variable {s : State} {n : Nat} {c : Channel}

/-- The rebuild of a channel, step by step (05 R78, R89). -/
theorem rebuildChannel_enabled (hc : s.channels[n]? = some c) (on : c.settings.enabled = true) :
    rebuildChannel s n =
      emitAll (c.rebuild (s.channelEnv n) s.tracker.head).2
        { s with channels := s.channels.set n (c.rebuild (s.channelEnv n) s.tracker.head).1 } := by
  simp only [rebuildChannel, onChannel, hc, on, if_true]

theorem set_same {α : Type} {l : List α} {n : Nat} {x : α} (h : l[n]? = some x) : l.set n x = l := by
  obtain ⟨inside, rfl⟩ := List.getElem?_eq_some_iff.mp h
  exact List.set_getElem_self inside

theorem rebuildChannel_disabled (hc : s.channels[n]? = some c) (off : c.settings.enabled = false) :
    rebuildChannel s n = s := by
  simp only [rebuildChannel, onChannel, hc, off, Bool.false_eq_true, if_false, set_same hc]
  rfl

end

theorem rebuildChannel_fresh {p : Nat} {s : State} (head : s.tracker.head = p) (n : Nat) : (rebuildChannel s n).Fresh p n := by
  intro d hd on
  cases hc : s.channels[n]? with
  | none =>
    have same : rebuildChannel s n = s := by simp only [rebuildChannel, onChannel, hc]
    rw [same, hc] at hd
    cases hd
  | some c =>
    cases enabled : c.settings.enabled with
    | false =>
      rw [rebuildChannel_disabled hc enabled, hc] at hd
      obtain rfl := Option.some.inj hd
      rw [enabled] at on
      cases on
    | true =>
      rw [rebuildChannel_enabled hc enabled, emitAll_channels, List.getElem?_set_self (List.getElem?_eq_some_iff.mp hc).1]
        at hd
      obtain rfl := Option.some.inj hd
      have env : (rebuildChannel s n).channelEnv n = s.channelEnv n := by
        rw [rebuildChannel_enabled hc enabled]
        exact channelEnv_congr (emitAll_counter ..) (emitAll_window ..) (emitAll_video ..) (emitAll_table ..) n
      rw [env, head]
      exact c.rebuild_rebuilt _ _

/-! ### What one of many steps brings about -/

/-- One of a row of steps brings about what the others keep. -/
theorem foldl_reaches {α : Type} {f : State → α → State} {l : List α} {C Q : State → Prop} {x : α} (hx : x ∈ l)
    (keeps : ∀ y ∈ l, ∀ s : State, C s → C (f s y)) (stays : ∀ y ∈ l, ∀ s : State, C s → Q s → Q (f s y))
    (makes : ∀ s : State, C s → Q (f s x)) {s : State} (hs : C s) : Q (l.foldl f s) := by
  obtain ⟨before, after, rfl⟩ := List.append_of_mem hx
  have early {y : α} (hy : y ∈ before) := List.mem_append_left (x :: after) hy
  have late {y : α} (hy : y ∈ after) := List.mem_append_right before (List.mem_cons_of_mem x hy)
  have reached : C (before.foldl f s) := List.foldlRecOn before f hs fun u c y hy => keeps y (early hy) u c
  rw [List.foldl_append, List.foldl_cons]
  exact (List.foldlRecOn after f (motive := fun u => C u ∧ Q u) ⟨keeps x hx _ reached, makes _ reached⟩
    fun u ⟨c, q⟩ y hy => ⟨keeps y (late hy) u c, stays y (late hy) u c q⟩).2

end Sys2Proof.Machine
end

section
/-! The completion of a bank switch, step by step (03 R54). -/

namespace Sys2Proof.Machine

/-! ### The tracker goes to SILENT -/

/-- The change to SILENT reports the class change alone, and that only from another class than NONE (02 R17, R38). -/
theorem concludeChange_toSilent (r : Rate) (t : Tracker) :
    concludeChange r t t.toSilent .none =
      (t.toSilent,
        if t.cls = .none then [] else [{ kind := .classChange t.cls .none, snap := t.toSilent.snap }]) := by
  have still : isDiscontinuity t.head t.head = false := decide_eq_false (by omega)
  by_cases none : t.cls = .none
  · simp [concludeChange, settleAfter, Tracker.classify, Tracker.toSilent, still, none]
  · simp [concludeChange, settleAfter, Tracker.classify, Tracker.toSilent, still, none, Ne.symm none]

/-! ### The roles of the banks -/

theorem swapBanks_activeBank (s : State) : (swapBanks s).table.activeBank = s.table.stagedBank := by
  simp only [swapBanks, CueTable.activeBank, CueTable.stagedBank]
  cases s.table.active <;> rfl

theorem swapBanks_cues (s : State) : (swapBanks s).cues = s.table.stagedBank.cues :=
  congrArg Bank.cues (swapBanks_activeBank s)

theorem swapBanks_calm (s : State) : (swapBanks s).Calm s.tracker.head := ⟨rfl, rfl⟩

/-! ### The arms lapse -/

theorem Retires.armedAt {s t : State} (h : Retires s t) {i : Nat} (n : s.takes.armedAt i = none) :
    t.takes.armedAt i = none := by
  cases he : t.takes.armedAt i with
  | none => rfl
  | some e =>
    obtain ⟨here, armed⟩ := Takes.armedAt_eq_some.mp he
    exact absurd (n.symm.trans (Takes.armedAt_eq_some.mpr ⟨h.entry i e here, armed⟩)) (Option.some_ne_none e).symm

theorem freeArmed_none {cause : FreeCause} {i : Nat} {s : State} (h : s.takes.armedAt i = none) : freeArmed cause i s = s := by
  unfold freeArmed
  rw [h]

theorem freeArmed_armedAt (cause : FreeCause) (i : Nat) (s : State) : (freeArmed cause i s).takes.armedAt i = none := by
  cases h : s.takes.armedAt i with
  | none => rwa [freeArmed_none h]
  | some e =>
    rw [freeArmed_takes h, Takes.armedAt, s.takes.setEntry_entryAt]
    rfl

/-- The OPEN entries stay where an ARMED one is freed. -/
theorem freeArmed_openAt (cause : FreeCause) (i : Nat) (s : State) (j : Nat) :
    (freeArmed cause i s).takes.openAt j = s.takes.openAt j := by
  cases h : s.takes.armedAt i with
  | none => rw [freeArmed_none h]
  | some e =>
    obtain ⟨here, armed⟩ := Takes.armedAt_eq_some.mp h
    have inside := (List.getElem?_eq_some_iff.mp (Takes.entryAt_eq_some here)).1
    rw [freeArmed_takes h, Takes.openAt, s.takes.entryAt_setEntry inside, Takes.openAt]
    split
    · rename_i same
      rw [same, here, Option.filter_some, armed]
      rfl
    · rfl

theorem Takes.openCount_eq_openKeys (t : Takes) : t.openCount = (openKeys t.entries).length := by
  rw [Takes.openCount_eq, openKeys, List.length_map]
  rfl

theorem freeArmed_openCount (cause : FreeCause) (i : Nat) (s : State) :
    (freeArmed cause i s).takes.openCount = s.takes.openCount := by
  cases h : s.takes.armedAt i with
  | none => rw [freeArmed_none h]
  | some e =>
    obtain ⟨here, armed⟩ := Takes.armedAt_eq_some.mp h
    rw [freeArmed_takes h, Takes.openCount_eq_openKeys, Takes.openCount_eq_openKeys]
    exact congrArg List.length (openKeys_set_armed (Takes.entryAt_eq_some here) armed)

/-- The arms of some numbers lapse, and the OPEN entries stay. -/
theorem lapse_leaves (l : List Nat) (s : State) :
    let t := l.foldl (fun s i => freeArmed (.lapse .bank) i s) s
    t.takes.openCount = s.takes.openCount ∧ (∀ j : Nat, t.takes.openAt j = s.takes.openAt j)
      ∧ ∀ i ∈ l, t.takes.armedAt i = none := by
  induction l generalizing s with
  | nil => exact ⟨rfl, fun _ => rfl, by simp⟩
  | cons k l ih =>
    obtain ⟨count, opens, lapsed⟩ := ih (freeArmed (.lapse .bank) k s)
    refine ⟨count.trans (freeArmed_openCount ..), fun j => (opens j).trans (freeArmed_openAt ..), fun i hi => ?_⟩
    rcases List.mem_cons.mp hi with rfl | hi
    · exact (Retires.foldl (fun s i => .freeArmed (.lapse .bank) i s) l _).armedAt (freeArmed_armedAt ..)
    · exact lapsed i hi

theorem Takes.mem_inUse_iff (t : Takes) (e : TakeEntry) : e ∈ t.inUse ↔ ∃ i : Nat, t.entryAt i = some e := by
  rw [Takes.mem_inUse, List.mem_iff_getElem?]
  exact exists_congr fun i => ⟨Takes.entryAt_of_get, Takes.entryAt_eq_some⟩

/-- No entry is ARMED when none is at any number of the table. -/
theorem Takes.armedCount_eq_zero {t : Takes} (h : ∀ i < t.entries.length, t.armedAt i = none) : t.armedCount = 0 := by
  rw [Takes.armedCount_eq, List.length_eq_zero_iff, List.filter_eq_nil_iff]
  intro e he armed
  obtain ⟨i, here⟩ := (t.mem_inUse_iff e).mp he
  have inside := (List.getElem?_eq_some_iff.mp (Takes.entryAt_eq_some here)).1
  have at_i := Takes.armedAt_eq_some.mpr ⟨here, by simpa using armed⟩
  rw [h i inside] at at_i
  cases at_i

theorem Winds.lapseArms (p : Nat) (s : State) : Winds p s (lapseArms s) := .foldl (fun i _ s => .freeArmed p .bank i s) s

/-! ### The channels rebuild -/

/-- The rebuilds in some order of the eight channels, the arbiter's (log 5). -/
theorem rebuildChannels_eq (s : State) :
    ∃ order : List Nat, order.Perm (List.range 8) ∧ rebuildChannels s = order.foldl rebuildChannel s.drawOrder.2
      ∧ order = (arbitrate s.drawOrder.1 ((List.range 8).map fun n => (Block.channel n, n))).map Prod.snd := by
  refine ⟨_, ?_, ?_, rfl⟩
  · refine ((arbitrate_perm _ _).map Prod.snd).trans ?_
    rw [List.map_map]
    exact .of_eq (List.map_id _)
  · rw [List.foldl_map]
    rfl

theorem rebuildChannels_takes (s : State) : (rebuildChannels s).takes = s.takes := by
  obtain ⟨order, -, eq, -⟩ := rebuildChannels_eq s
  have one (s : State) (n : Nat) : (rebuildChannel s n).takes = s.takes := by
    unfold rebuildChannel onChannel
    split
    · rfl
    · exact emitAll_takes _ _
  have drawn : s.drawOrder.2.takes = s.takes := by
    unfold State.drawOrder
    split <;> rfl
  rw [eq, ← drawn]
  clear eq drawn
  generalize s.drawOrder.2 = u
  induction order generalizing u with
  | nil => rfl
  | cons n order ih => exact (ih _).trans (one u n)

theorem Winds.rebuildChannels (p : Nat) (s : State) : Winds p s (rebuildChannels s) := by
  obtain ⟨order, -, eq, -⟩ := rebuildChannels_eq s
  rw [eq]
  exact (Winds.drawOrder p s).trans (.foldl (fun n _ s => .rebuildChannel p n s) _)

theorem rebuildChannels_fresh {p : Nat} {s : State} (calm : s.Calm p) {n : Nat} (hn : n < 8) :
    (rebuildChannels s).Fresh p n := by
  obtain ⟨order, perm, eq, -⟩ := rebuildChannels_eq s
  have down (n : Nat) (s : State) (calm : s.Calm p) := ((Winds.rebuildChannel p n s).keeps calm).1
  rw [eq]
  exact foldl_reaches (C := State.Calm p) (perm.mem_iff.mpr (List.mem_range.mpr hn))
    (fun n _ s calm => (down n s calm).calm calm) (fun n _ s calm fresh => (down n s calm).fresh fresh)
    (fun s calm => rebuildChannel_fresh calm.head n) (((Winds.drawOrder p s).keeps calm).1.calm calm)

/-! ### The tracker at another rate -/

theorem recordLostNotice_withSlots (n : Notice) (s : State) (slots : List Slot) :
    recordLostNotice n { s with slots } = { recordLostNotice n s with slots } := by
  unfold recordLostNotice
  dsimp only [State.faultPosition]
  generalize FaultLog.record _ s.faults = recorded
  obtain ⟨log, due⟩ := recorded
  cases due with
  | none => rfl
  | some cause => rfl

/-- A notice offered does not look at the slots. -/
theorem offer_withSlots (n : Notice) (s : State) (slots : List Slot) :
    offer n { s with slots } = { offer n s with slots } := by
  unfold offer
  rw [recordLostNotice_withSlots]
  by_cases allowed : s.link.mask.allows n.kind = true
  · by_cases room : s.link.notices.length < 32
    · simp only [allowed, room, if_true]
      rfl
    · simp only [allowed, room, if_true, if_false]
  · simp only [allowed, Bool.false_eq_true, if_false]

theorem restartAtRate_same {old : Rate} {s : State} (h : s.rate = old) : restartAtRate old s = s := if_pos h

/-- The tracker's change to SILENT at a switch, with its MOTION notice (log 21). -/
theorem silenceForSwitch_eq (s : State) :
    silenceForSwitch s =
      if s.tracker.cls = .none then { s with tracker := s.tracker.toSilent }
      else offer (.motion .none s.tracker.head 0) { s with tracker := s.tracker.toSilent } := by
  unfold silenceForSwitch
  rw [concludeChange_toSilent]
  split
  · rfl
  · rfl

theorem restartAtRate_other {old : Rate} {s : State} (h : s.rate ≠ old) :
    restartAtRate old s =
      if s.tracker.cls = .none then { s with tracker := s.tracker.toSilent, slots := [] }
      else offer (.motion .none s.tracker.head 0) { s with tracker := s.tracker.toSilent, slots := [] } := by
  have quiet := offer_withSlots (.motion .none s.tracker.head 0) { s with tracker := s.tracker.toSilent } []
  unfold restartAtRate
  rw [if_neg h, silenceForSwitch_eq]
  split
  · rfl
  · exact quiet.symm

theorem silenceForSwitch_winds {p : Nat} {s : State} (calm : s.Calm p) :
    WindsDown p s (silenceForSwitch s) ∧ (silenceForSwitch s).tracker = s.tracker.toSilent
      ∧ (silenceForSwitch s).takes = s.takes := by
  have silent : WindsDown p s { s with tracker := s.tracker.toSilent } :=
    .of rfl rfl rfl rfl rfl rfl (List.prefix_refl _) rfl rfl rfl rfl rfl rfl
  rw [silenceForSwitch_eq]
  split
  · exact ⟨silent, rfl, rfl⟩
  · obtain ⟨told, tracker, -⟩ := (Winds.offer p (.motion .none s.tracker.head 0) _).keeps (silent.calm calm)
    exact ⟨silent.trans told, tracker, offer_takes _ _⟩

/-! ### The whole completion -/

/-- The state before the slots of another rate go: the exchange, the lapses, the rebuilds, the silence and the last notice. -/
theorem completeSwitch_eq (s : State) :
    ∃ v : State, completeSwitch s = { v with slots := if (swapBanks s).rate = s.rate then v.slots else [] }
      ∧ WindsDown s.tracker.head (swapBanks s) v ∧ v.takes = (lapseArms (swapBanks s)).takes
      ∧ (∀ n < 8, v.Fresh s.tracker.head n)
      ∧ v.tracker = if (swapBanks s).rate = s.rate then s.tracker else s.tracker.toSilent := by
  have calm := swapBanks_calm s
  generalize hp : s.tracker.head = p at calm ⊢
  obtain ⟨lapsed, trackerL, -⟩ := (Winds.lapseArms p (swapBanks s)).keeps calm
  have calmL := lapsed.calm calm
  obtain ⟨down, trackerR, -⟩ := (Winds.rebuildChannels p (lapseArms (swapBanks s))).keeps calmL
  have calmR := down.calm calmL
  have takes := rebuildChannels_takes (lapseArms (swapBanks s))
  have fresh (n : Nat) (hn : n < 8) := rebuildChannels_fresh calmL hn
  have rate : (rebuildChannels (lapseArms (swapBanks s))).rate = (swapBanks s).rate := by
    rw [State.rate, State.rate, (lapsed.trans down).table]
  have tracker : (rebuildChannels (lapseArms (swapBanks s))).tracker = s.tracker := trackerR.trans trackerL
  have ends := lapsed.trans down
  unfold completeSwitch
  generalize rebuildChannels (lapseArms (swapBanks s)) = u at *
  unfold offerBankDone
  by_cases same : (swapBanks s).rate = s.rate
  · rw [restartAtRate_same (rate.trans same)]
    generalize Notice.bankDone _ _ _ _ = done
    obtain ⟨told, trackerT, -⟩ := (Winds.offer p done u).keeps calmR
    refine ⟨offer done u, ?_, ends.trans told, (offer_takes done u).trans takes, fun n hn => told.fresh (fresh n hn), ?_⟩
    · rw [if_pos same]
    · rw [if_pos same, trackerT, tracker]
  · have silenced : restartAtRate s.rate u = { silenceForSwitch u with slots := [] } := if_neg (rate ▸ same)
    obtain ⟨silent, trackerS, takesS⟩ := silenceForSwitch_winds calmR
    rw [silenced, offer_withSlots]
    generalize Notice.bankDone _ _ _ _ = done
    obtain ⟨told, trackerT, -⟩ := (Winds.offer p done (silenceForSwitch u)).keeps (silent.calm calmR)
    refine ⟨offer done (silenceForSwitch u), ?_, (ends.trans silent).trans told, ?_,
      fun n hn => told.fresh (silent.fresh (fresh n hn)), ?_⟩
    · rw [if_neg same]
    · rw [offer_takes, takesS, takes]
    · rw [if_neg same, trackerT, trackerS, tracker]

/-- Of the slots, those of the lapsed arms' keys and tracks go, the FIRM ones apart (07 R133; 08 R147). -/
theorem mem_slots_of_lapsed {p : Nat} {s v : State} (entries : s.takes.entries.length = 4)
    (down : WindsDown p (swapBanks s) v) (takes : v.takes = (lapseArms (swapBanks s)).takes) {y : Slot} (hy : y ∈ s.slots) :
    y ∈ v.slots ↔
      y.firmness = .firm ∨ ∀ e ∈ s.takes.inUse, e.opened = false → e.key = y.key → ∀ x ∈ e.items, x.track ≠ y.track := by
  obtain ⟨-, opens, lapsed⟩ := lapse_leaves entryNumbers (swapBanks s)
  have goes {i : Nat} {e : TakeEntry} (here : s.takes.entryAt i = some e) (armed : e.opened = false) :
      v.takes.entryAt i = none := by
    refine (down.takes.entry i).resolve_left fun still => ?_
    have hi : i < 4 := entries ▸ (List.getElem?_eq_some_iff.mp (Takes.entryAt_eq_some here)).1
    have arm := Takes.armedAt_eq_some.mpr ⟨still.trans here, armed⟩
    rw [takes] at arm
    exact Option.some_ne_none e (arm.symm.trans (lapsed i (List.mem_range.mpr hi)))
  have stays {i : Nat} {e : TakeEntry} (here : s.takes.entryAt i = some e) (opened : e.opened = true) :
      v.takes.entryAt i = some e := by
    rw [takes]
    exact (Takes.openAt_eq_some.mp ((opens i).trans (Takes.openAt_eq_some.mpr ⟨here, opened⟩))).1
  rw [down.takes.slots y hy]
  refine or_congr_right ⟨fun spared e he armed key x hx track => ?_, fun all i e here gone key x hx track => ?_⟩
  · obtain ⟨i, here⟩ := (s.takes.mem_inUse_iff e).mp he
    have opened := (spared i e here (goes here armed) key x hx track).1
    exact absurd (armed.symm.trans opened) (by decide)
  · cases opened : e.opened with
    | false => exact absurd track (all e ((s.takes.mem_inUse_iff e).mpr ⟨i, here⟩) opened key x hx)
    | true => exact absurd ((stays here opened).symm.trans gone) (Option.some_ne_none e)

/-- The last steps of a switch, from the state that the rebuilds leave (03 R54 steps 4 and 5). -/
theorem completeSwitch_ends (s : State) :
    let rebuilt := rebuildChannels (lapseArms (swapBanks s))
    let new := s.table.stagedBank
    rebuilt.rate = new.rate ∧ rebuilt.tracker = s.tracker
      ∧ completeSwitch s =
          offer (.bankDone s.table.active.other new.rate new.cues.length (decide (new.rate ≠ s.rate)))
            (restartAtRate s.rate rebuilt) := by
  obtain ⟨down, tracker, -⟩ :=
    ((Winds.lapseArms _ (swapBanks s)).trans (.rebuildChannels s.tracker.head _)).keeps (swapBanks_calm s)
  have table := down.table
  have kept (u : State) (h : u.table = (swapBanks s).table) : (restartAtRate s.rate u).table = (swapBanks s).table := by
    unfold restartAtRate
    rw [silenceForSwitch_eq]
    split
    · exact h
    · dsimp only
      split
      · exact h
      · rw [offer_table]
        exact h
  have active := congrArg CueTable.active (kept _ table)
  have bank := (congrArg CueTable.activeBank (kept _ table)).trans (swapBanks_activeBank s)
  have rate := congrArg Bank.rate bank
  have cues := congrArg Bank.cues bank
  refine ⟨by rw [State.rate, table, swapBanks_activeBank], tracker, ?_⟩
  unfold completeSwitch offerBankDone
  rw [active]
  simp only [State.rate, State.cues] at rate cues ⊢
  simp only [rate, cues]
  rfl

/-- The arbiter's order of the rebuilds (log 5). -/
theorem rebuildChannels_ordered (freed : State) :
    ∃ (order : List Nat) (u : State),
      order.Perm (List.range 8) ∧ (freed.arbiter = [] → order = List.range 8 ∧ u = freed)
        ∧ (∀ (choices : List Block) (rest : List (List Block)), freed.arbiter = choices :: rest →
            u = { freed with arbiter := rest }
              ∧ ∀ (n : Nat) (more : List Block), n < 8 → choices = .channel n :: more → order.head? = some n)
        ∧ rebuildChannels freed = order.foldl rebuildChannel u := by
  obtain ⟨order, perm, eq, ordered⟩ := rebuildChannels_eq freed
  refine ⟨order, freed.drawOrder.2, perm, fun none => ?_, fun choices rest some => ?_, eq⟩
  · have drawn : freed.drawOrder = ([], freed) := by simp only [State.drawOrder, none]
    rw [ordered, drawn]
    exact ⟨rfl, rfl⟩
  · have drawn := drawOrder_eq (s := freed) (.inr some)
    rw [drawn] at ordered ⊢
    refine ⟨rfl, fun n more hn first => ?_⟩
    subst first
    have head := arbitrate_first (.channel n) more ((List.range 8).map fun n => (Block.channel n, n))
      ⟨_, List.mem_map_of_mem (List.mem_range.mpr hn), rfl⟩
    obtain ⟨⟨b, m⟩, first, named⟩ := Option.map_eq_some_iff.mp head
    obtain ⟨k, -, task⟩ := List.mem_map.mp ((arbitrate_perm _ _).mem_iff.mp (List.mem_of_mem_head? first))
    obtain ⟨rfl, rfl⟩ := Prod.mk.inj task
    obtain rfl := Block.channel.inj named
    rw [ordered, List.head?_map, first]
    rfl

/-- Settles O45: the steps of a completion only wind the engine down, so that its end can be read off entry by entry and channel
by channel; a rebuild is the expansion of a blank channel. -/
theorem switchCompletionExchangesTheBanks : Obligations.SwitchCompletionExchangesTheBanks := by
  unfold Obligations.SwitchCompletionExchangesTheBanks
  refine ⟨fun s t entries count ht => ?_, fun s freed rebuilt last new _ hnew hfreed hrebuilt same other => ?_,
    fun s n c d es hc => ⟨rebuildChannel_disabled hc, fun on rebuilt => ?_⟩, fun env p c d es once rebuilt => ?_⟩
  · obtain ⟨v, eq, down, takes, fresh, tracker⟩ := completeSwitch_eq s
    rw [eq] at ht
    have table : t.table = (swapBanks s).table := by rw [ht]; exact down.table
    have cues : t.cues = (swapBanks s).cues := by rw [State.cues, State.cues, table]
    have rate : t.rate = (swapBanks s).rate := by rw [State.rate, State.rate, table]
    have channels : t.channels = v.channels := by rw [ht]
    have same_takes : t.takes = (lapseArms (swapBanks s)).takes := by rw [ht]; exact takes
    obtain ⟨openCount, -, lapsed⟩ := lapse_leaves entryNumbers (swapBanks s)
    have no_arm : (lapseArms (swapBanks s)).takes.armedCount = 0 := by
      refine Takes.armedCount_eq_zero fun i hi => lapsed i (List.mem_range.mpr ?_)
      rw [← takes, down.takes.length] at hi
      exact hi.trans_eq entries
    refine ⟨table, cues.trans (swapBanks_cues s), by rw [same_takes, no_arm], by rw [same_takes]; exact openCount,
      fun n c hc on => ?_, fun n c hc => ?_, fun same => ?_, fun other => ?_⟩
    · rw [channels] at hc
      have hn : n < 8 := (down.count.trans count) ▸ (List.getElem?_eq_some_iff.mp hc).1
      have parts := (fresh n hn).parts hc on
      rwa [State.cues, down.table, ← table] at parts
    · have hn : n < 8 := count ▸ (List.getElem?_eq_some_iff.mp hc).1
      rw [channels, cues, rate]
      exact down.channel_eq (fresh n hn) hc
    · rw [rate] at same
      rw [if_pos same] at tracker ht
      subst ht
      exact ⟨tracker, down.takes.sublist, fun y hy => mem_slots_of_lapsed entries down takes hy⟩
    · rw [rate] at other
      rw [if_neg other] at tracker ht
      subst ht
      exact ⟨tracker, rfl⟩
  · obtain ⟨rate, tracker, eq⟩ := completeSwitch_ends s
    subst hnew hrebuilt
    have freed_eq : freed = lapseArms (swapBanks s) := hfreed
    rw [← freed_eq] at rate tracker eq
    refine ⟨?_, rebuildChannels_ordered freed⟩
    rw [eq]
    by_cases h : s.table.stagedBank.rate = s.rate
    · rw [same h, restartAtRate_same (rate.trans h)]
    · rw [other h _ rfl, restartAtRate_other (rate ▸ h), tracker]
      rfl
  · rw [rebuildChannel_enabled hc on]
    have eq : c.rebuild (s.channelEnv n) s.tracker.head = (d, es) := rebuilt
    rw [eq]
  · rw [Channel.rebuild_eq] at rebuilt
    obtain ⟨rfl, rfl⟩ := Prod.mk.inj rebuilt
    refine ⟨⟨_, keysWhere_ascending _ _ once, fun k => ?_, rfl⟩, rfl⟩
    simp [CueStatus.isActive]

end Sys2Proof.Machine
end

section
/-! RESTART of every block, whatever the arbiter's order (11 R197; log 26). Each step only winds the engine down, and what one
block's own RESTART brings about every other step keeps. -/

namespace Sys2Proof.Machine

/-! ### The pass controller at rest -/

/-- No pass is in hand or queued and no transport request is outstanding or waiting (09 R171). -/
structure State.PassRests (s : State) : Prop where
  state : s.pass.state = .idle
  inHand : s.pass.inHand = none
  queued : s.pass.queued = none
  deadline : s.pass.deadline = none
  outstanding : s.transport.outstanding = none
  waiting : s.transport.waiting = none
  gathered : s.transport.gathered = []

theorem State.PassRests.retires {s t : State} (h : Retires s t) (rests : s.PassRests) : t.PassRests := by
  obtain ⟨f, pass⟩ := h.pass
  rw [PassCtl.editHand_none rests.inHand] at pass
  obtain ⟨state, inHand, queued, deadline, outstanding, waiting, gathered⟩ := rests
  constructor <;> simpa only [pass, h.transport]

theorem restartPass_rests (s : State) : (restartPass s).PassRests := ⟨rfl, rfl, rfl, rfl, rfl, rfl, rfl⟩

theorem Winds.restartPass (p : Nat) (s : State) : Winds p s (restartPass s) := by
  have told : Winds p s (offerRestartPass s) := by
    unfold offerRestartPass
    split
    · exact .refl p s
    · exact .offer p _ s
  exact told.trans ⟨fun _ => ⟨.of rfl rfl rfl rfl rfl rfl (List.prefix_refl _) rfl rfl rfl rfl rfl rfl, rfl, rfl⟩⟩

/-! ### The take controller at rest -/

theorem Retires.restartEntry (s : State) (i : Nat) : Retires s (restartEntry s i) := by
  unfold Machine.restartEntry
  split
  · exact .refl s
  · exact .ite (Retires.closeEntry .broken _ i s).1 (.freeArmed (.lapse .restart) i s)

theorem Retires.entryAt_none {s t : State} (h : Retires s t) {i : Nat} (gone : s.takes.entryAt i = none) :
    t.takes.entryAt i = none :=
  Option.eq_none_iff_forall_ne_some.mpr fun e here => Option.some_ne_none e ((h.entry i e here).symm.trans gone)

theorem restartTakes_entryAt (s : State) {i : Nat} (hi : i < 4) : (restartTakes s).takes.entryAt i = none :=
  foldl_reaches (C := fun _ => True) (Q := fun s => s.takes.entryAt i = none) (x := i) (List.mem_range.mpr hi)
    (fun _ _ _ _ => trivial) (fun j _ s _ gone => (Retires.restartEntry s j).entryAt_none gone)
    (fun s _ => restartEntry_entryAt s i) trivial

/-! ### What a block's own RESTART brings about -/

/-- What a block's own RESTART brings about, with the play head at `p`. -/
def State.Restarted (p : Nat) (b : Block) (s : State) : Prop :=
  match b with
  | .takes => ∀ i < 4, s.takes.entryAt i = none
  | .pass => s.PassRests
  | .channel n => s.Fresh p n
  | _ => True

/-- From `s` to `t` the engine winds down with what every RESTART has brought about kept. -/
structure KeepsRest (p : Nat) (s t : State) : Prop where
  down : WindsDown p s t
  rests : s.PassRests → t.PassRests

theorem State.Restarted.keep {p : Nat} {b : Block} {s t : State} (h : KeepsRest p s t) (done : s.Restarted p b) :
    t.Restarted p b := by
  cases b with
  | takes => exact fun i hi => (h.down.takes.entry i).elim (fun same => same.trans (done i hi)) id
  | pass => exact h.rests done
  | channel n => exact h.down.fresh done
  | tracker => trivial
  | cueTable => trivial
  | overlay => trivial

theorem ownRestart_restarted {p : Nat} {s : State} (calm : s.Calm p) (b : Block) : (ownRestart b s).Restarted p b := by
  cases b with
  | takes => exact fun i hi => restartTakes_entryAt s hi
  | pass => exact restartPass_rests s
  | channel n => exact rebuildChannel_fresh calm.head n
  | tracker => trivial
  | cueTable => trivial
  | overlay => trivial

theorem Winds.ownRestart (p : Nat) (b : Block) (s : State) : Winds p s (ownRestart b s) := by
  cases b with
  | takes => exact .restartTakes p s
  | pass => exact .restartPass p s
  | channel n => exact .rebuildChannel p n s
  | tracker => exact .refl p s
  | cueTable => exact .refl p s
  | overlay => exact .refl p s

theorem ownRestart_passRests (b : Block) {s : State} (rests : s.PassRests) : (ownRestart b s).PassRests := by
  cases b with
  | takes => exact rests.retires (.foldl Retires.restartEntry entryNumbers s)
  | pass => exact restartPass_rests s
  | channel n => exact rests.retires (.onChannel n _ s)
  | tracker => exact rests
  | cueTable => exact rests
  | overlay => exact rests

theorem deliver_passRests {p : Nat} {rep : Report} (silences : rep.Silences p) {b : Block} (taker : b ∈ reportBlocks)
    {s : State} (rests : s.PassRests) : (deliver b rep s).PassRests := by
  obtain ⟨⟨old, kind⟩, -, -⟩ := silences
  cases b with
  | tracker => exact rests.retires (.offerReport rep s)
  | channel n => exact rests.retires (.onChannel n _ s)
  | takes =>
    have closes : Retires s (takesReport rep s) := by
      simp only [takesReport, kind]
      exact .ite (.closeAllOpen .broken _ s) (.refl s)
    exact rests.retires closes
  | pass =>
    have idle : deliver .pass rep s = s := by simp only [deliver, passReport, rests.inHand]
    rw [idle]
    exact rests
  | cueTable =>
    rw [deliver_cueTable_change kind]
    exact rests.retires (.testSafePoint s)
  | overlay => exact absurd taker (by decide)

/-- A task of a RESTART: a block's own, or the report of the class change to NONE at a block that takes reports. -/
def RestartTask.ofRestart (p : Nat) (x : Block × RestartTask) : Prop :=
  match x.2 with
  | .own => True
  | .report rep => rep.Silences p ∧ x.1 ∈ reportBlocks

theorem ownRestart_keepsRest {p : Nat} {s : State} (calm : s.Calm p) (b : Block) : KeepsRest p s (ownRestart b s) :=
  ⟨((Winds.ownRestart p b s).keeps calm).1, ownRestart_passRests b⟩

theorem Winds.restartTask {p : Nat} {x : Block × RestartTask} (h : RestartTask.ofRestart p x) (s : State) :
    Winds p s (restartTask s x) := by
  obtain ⟨b, task⟩ := x
  cases task with
  | own => exact .ownRestart p b s
  | report rep => exact .deliver h.2 h.1 s

theorem restartTask_keepsRest {p : Nat} {x : Block × RestartTask} (h : RestartTask.ofRestart p x) {s : State}
    (calm : s.Calm p) : KeepsRest p s (restartTask s x) := by
  refine ⟨((Winds.restartTask h s).keeps calm).1, ?_⟩
  obtain ⟨b, task⟩ := x
  cases task with
  | own => exact ownRestart_passRests b
  | report rep => exact deliver_passRests h.1 h.2

/-! ### The arbiter's order -/

/-- Every block but the tracker stands ahead of it or behind it. -/
theorem ahead_or_behind {b : Block} (ne : b ≠ .tracker) {order : List Block} (h : b ∈ order) :
    b ∈ (order.takeWhile fun b => decide (b ≠ .tracker))
      ∨ b ∈ (order.dropWhile fun b => decide (b ≠ .tracker)).drop 1 := by
  induction order with
  | nil => cases h
  | cons x order ih =>
    by_cases tracker : x = .tracker
    · subst tracker
      exact .inr (List.mem_of_ne_of_mem ne h)
    · rw [List.takeWhile_cons_of_pos (by simpa using tracker), List.dropWhile_cons_of_pos (by simpa using tracker)]
      rcases List.mem_cons.mp h with rfl | h
      · exact .inl List.mem_cons_self
      · exact (ih h).imp_left (List.mem_cons_of_mem x)

theorem mem_orderRestarts (choices : List Block) (b : Block) : b ∈ orderRestarts choices ↔ b ∈ restartOrder := by
  unfold orderRestarts
  rw [((arbitrate_perm _ _).map Prod.fst).mem_iff, List.map_map]
  simp

/-! ### The three parts of a RESTART -/

section
variable {p : Nat} {s : State} (order : List Block)

theorem restartAhead_leaves (calm : s.Calm p) :
    WindsDown p s (restartAhead order s) ∧ (restartAhead order s).tracker = s.tracker
      ∧ ∀ b ∈ (order.takeWhile fun b => decide (b ≠ .tracker)), (restartAhead order s).Restarted p b := by
  obtain ⟨down, tracker, -⟩ := (Winds.foldl (fun b _ s => .ownRestart p b s) s :
    Winds p s ((order.takeWhile fun b => decide (b ≠ .tracker)).foldl (fun s b => ownRestart b s) s)).keeps calm
  refine ⟨down, tracker, fun b hb => ?_⟩
  exact foldl_reaches (C := State.Calm p) (Q := State.Restarted p b) hb
    (fun c _ u calm => (ownRestart_keepsRest calm c).down.calm calm)
    (fun c _ u calm done => done.keep (ownRestart_keepsRest calm c)) (fun u calm => ownRestart_restarted calm b) calm

theorem silenceForRestart_leaves (calm : s.Calm p) :
    KeepsRest p s (silenceForRestart s).1 ∧ (silenceForRestart s).1.tracker = s.tracker.toSilent
      ∧ (silenceForRestart s).1.reader = { invalidRun := 0, sinceCut := 0 }
      ∧ ∀ rep ∈ (silenceForRestart s).2, rep.Silences p := by
  unfold silenceForRestart
  rw [concludeChange_toSilent]
  refine ⟨⟨.of rfl rfl rfl rfl rfl rfl (List.prefix_refl _) rfl rfl rfl rfl rfl rfl, fun rests => ?_⟩, rfl, rfl,
    fun rep hrep => ?_⟩
  · exact rests.retires (s := s) (.of rfl rfl rfl)
  · dsimp only at hrep
    split at hrep
    · cases hrep
    · obtain rfl := List.mem_singleton.mp hrep
      exact ⟨⟨_, rfl⟩, calm.head, rfl⟩

theorem restartBehind_leaves (calm : s.Calm p) :
    WindsDown p s (restartBehind order s) ∧ (restartBehind order s).tracker = s.tracker.toSilent
      ∧ (restartBehind order s).reader = { invalidRun := 0, sinceCut := 0 }
      ∧ ∀ b : Block, s.Restarted p b ∨ b ∈ (order.dropWhile fun b => decide (b ≠ .tracker)).drop 1 →
          (restartBehind order s).Restarted p b := by
  obtain ⟨silent, trackerS, readerS, silences⟩ := silenceForRestart_leaves calm
  have calmS := silent.down.calm calm
  obtain ⟨drawn, trackerD, readerD⟩ := (Winds.drawOrder p (silenceForRestart s).1).keeps calmS
  have restD : KeepsRest p (silenceForRestart s).1 (silenceForRestart s).1.drawOrder.2 :=
    ⟨drawn, .retires (.drawOrder _)⟩
  have calmD := drawn.calm calmS
  unfold restartBehind
  dsimp only
  generalize htasks : arbitrate _ _ = tasks
  have task (x : Block × RestartTask) (hx : x ∈ tasks) : RestartTask.ofRestart p x := by
    rw [← htasks, (arbitrate_perm _ _).mem_iff, List.mem_append] at hx
    rcases hx with report | own
    · obtain ⟨⟨b, rep⟩, delivery, rfl⟩ := List.mem_map.mp report
      obtain ⟨taker, hrep⟩ := (mem_allDeliveries _ _).mp delivery
      exact ⟨silences rep hrep, taker⟩
    · obtain ⟨b, -, rfl⟩ := List.mem_map.mp own
      trivial
  obtain ⟨down, tracker, reader⟩ := (Winds.foldl (fun x hx s => .restartTask (task x hx) s) _ :
    Winds p _ (tasks.foldl restartTask (silenceForRestart s).1.drawOrder.2)).keeps calmD
  refine ⟨(silent.down.trans drawn).trans down, (tracker.trans trackerD).trans trackerS,
    (reader.trans readerD).trans readerS, fun b h => ?_⟩
  have keeps (x : Block × RestartTask) (hx : x ∈ tasks) (u : State) (calm : u.Calm p) :=
    restartTask_keepsRest (task x hx) calm
  rcases h with done | own
  · have start := done.keep silent |>.keep restD
    exact (List.foldlRecOn tasks restartTask (motive := fun u => u.Calm p ∧ u.Restarted p b) ⟨calmD, start⟩
      fun u ⟨calm, done⟩ x hx => ⟨(keeps x hx u calm).down.calm calm, done.keep (keeps x hx u calm)⟩).2
  · have hx : (b, RestartTask.own) ∈ tasks := by
      rw [← htasks, (arbitrate_perm _ _).mem_iff]
      exact List.mem_append_right _ (List.mem_map_of_mem own)
    exact foldl_reaches (C := State.Calm p) (Q := State.Restarted p b) hx (fun x hx u calm => (keeps x hx u calm).down.calm calm)
      (fun x hx u calm done => done.keep (keeps x hx u calm)) (fun u calm => ownRestart_restarted calm b) calmD

end

/-- What RESTART of every block leaves (11 R197 step 3). -/
theorem restartBlocks_leaves {p : Nat} {s : State} (head : s.tracker.head = p) :
    WindsDown p (clearSwitch s) (restartBlocks s) ∧ (restartBlocks s).tracker = s.tracker.toSilent
      ∧ (restartBlocks s).reader = { invalidRun := 0, sinceCut := 0 }
      ∧ ∀ b ∈ restartOrder, b ≠ .tracker → (restartBlocks s).Restarted p b := by
  have calm : (clearSwitch s).Calm p := ⟨head, rfl⟩
  obtain ⟨drawn, trackerD, -⟩ := (Winds.drawOrder p (clearSwitch s)).keeps calm
  have calmD := drawn.calm calm
  unfold restartBlocks
  dsimp only
  generalize horder : orderRestarts _ = order
  obtain ⟨downA, trackerA, doneA⟩ := restartAhead_leaves order calmD
  obtain ⟨downB, trackerB, readerB, doneB⟩ := restartBehind_leaves order (downA.calm calmD)
  refine ⟨(drawn.trans downA).trans downB, ?_, readerB, fun b hb ne => ?_⟩
  · rw [trackerB, trackerA, trackerD]
    rfl
  · rw [← mem_orderRestarts, horder] at hb
    exact doneB b ((ahead_or_behind ne hb).imp_left (doneA b))

/-! ### The gate lines -/

/-- Every gate line is that of an OPEN entry's track, so none is on once every entry is gone (07 R123). -/
theorem TakesWind.gateLines_off {p : Nat} {s t : State} (h : TakesWind p s t) (coherent : s.takes.coherent)
    (gone : ∀ i : Nat, t.takes.entryAt i = none) : t.takes.gateLines = 0 := by
  obtain ⟨-, -, -, lit, -⟩ := coherent
  refine BitVec.eq_of_getLsbD_eq fun k _ => ?_
  rw [BitVec.ofNat_eq_ofNat, BitVec.getLsbD_zero, ← Bool.not_eq_true]
  intro on
  obtain ⟨was, others⟩ := h.lines k on
  obtain ⟨e, he, opened, x, hx, track, -⟩ := lit k was
  obtain ⟨i, here⟩ := (s.takes.mem_inUse_iff e).mp he
  exact others i e here (gone i) opened x hx track

theorem Takes.inUse_nil {t : Takes} (gone : ∀ i : Nat, t.entryAt i = none) : t.inUse = [] := by
  refine List.eq_nil_iff_forall_not_mem.mpr fun e he => ?_
  obtain ⟨i, here⟩ := (t.mem_inUse_iff e).mp he
  exact Option.some_ne_none e (here.symm.trans (gone i))

/-! ### The request -/

/-- Settles O59: whatever the arbiter's order, every block comes to its own RESTART, and what that brings about the steps of the
others keep. -/
theorem restartReturnsEveryBlock : Obligations.RestartReturnsEveryBlock := by
  unfold Obligations.RestartReturnsEveryBlock
  intro tag s c entries count
  have settings : s.sameSettings (restartBlocks { s.taken with link := { s.taken.link with intake := [] } }) :=
    (moves_restartBlocks false _).sameSettings
  obtain ⟨down, tracker, reader, done⟩ :=
    restartBlocks_leaves (s := { s.taken with link := { s.taken.link with intake := [] } }) (p := s.tracker.head) rfl
  refine ⟨_, request_answers (f := ⟨0x04, tag, []⟩) rfl c rfl, ?_⟩
  generalize restartBlocks { s.taken with link := { s.taken.link with intake := [] } } = t at *
  have fresh (n : Nat) (hn : n < 8) : t.Fresh s.tracker.head n :=
    done (.channel n) (List.mem_append_right _ (List.mem_map_of_mem (List.mem_range.mpr hn))) (by simp)
  have rests : t.PassRests := done .pass (by decide) (by decide)
  have gone (i : Nat) : t.takes.entryAt i = none := by
    by_cases hi : i < 4
    · exact done .takes (by decide) (by decide) i hi
    · have outside : t.takes.entries.length ≤ i := by
        have length : t.takes.entries.length = 4 := down.takes.length.trans entries
        omega
      rw [Takes.entryAt, List.getElem?_eq_none outside]
      rfl
  have inUse := Takes.inUse_nil gone
  refine ⟨tracker, reader, inUse, fun coherent => down.takes.gateLines_off coherent gone,
    rests.state, rests.inHand, rests.queued, rests.deadline, down.number,
    rests.outstanding, rests.waiting, rests.gathered, down.line, down.link, down.notices, down.table,
    down.counter, down.window, down.video, fun n c hc => ?_, fun n c hc on => ?_, ?_, ?_, fun y => ?_,
    down.faults.length, down.faults.order, down.faults.kept, down.faults.new, down.faults.first, down.faults.full,
    down.faults.owed, down.faults.idle, settings⟩
  · have hn : n < 8 := count ▸ (List.getElem?_eq_some_iff.mp hc).1
    exact down.channel_eq (fresh n hn) hc
  · have hn : n < 8 := (down.count.trans count) ▸ (List.getElem?_eq_some_iff.mp hc).1
    exact ((fresh n hn).parts hc on).2.2
  · obtain ⟨records, eq, keys, all⟩ := down.takes.records
    have none_left : openKeys t.takes.entries = [] := by
      rw [openKeys, ← Takes.inUse, inUse]
      rfl
    rw [none_left, List.append_nil] at keys
    exact ⟨records, eq, keys, all⟩
  · obtain ⟨k, used, left⟩ := down.takes.reservations
    rw [inUse, List.length_nil, Nat.zero_add] at used
    rw [left, used]
    rfl
  · refine ⟨fun hy => ⟨down.takes.sublist.subset hy, ?_⟩, fun ⟨hy, spared⟩ => (down.takes.slots y hy).mpr ?_⟩
    · refine ((down.takes.slots y (down.takes.sublist.subset hy)).mp hy).imp_right fun all e he => ?_
      obtain ⟨i, here⟩ := (s.takes.mem_inUse_iff e).mp he
      exact all i e here (gone i)
    · exact spared.imp_right fun all i e here _ => all e ((s.takes.mem_inUse_iff e).mpr ⟨i, here⟩)

end Sys2Proof.Machine
end

section
/-! The tables that every step keeps in order: the banks (03 R45), and the schedules and status maps of the channels (04 R62,
05 R74). -/

namespace Sys2Proof.Machine

/-! ### Moves of the takes -/

theorem flagEntry_touches (s : State) (i : Nat) :
    ∃ entries : List (Option TakeEntry), flagEntry s i = { s with takes := { s.takes with entries } } := by
  unfold flagEntry
  split
  · exact ⟨_, rfl⟩
  · exact ⟨_, rfl⟩

/-- An edit of a cue touches entries and slots alone (07 R134). -/
theorem editEntry_touches (cue : Cue) (s : State) (i : Nat) :
    ∃ (entries : List (Option TakeEntry)) (slots : List Slot),
      editEntry cue s i = { s with takes := { s.takes with entries }, slots } := by
  unfold editEntry
  split
  · exact ⟨_, _, rfl⟩
  · split
    · exact ⟨_, _, rfl⟩
    · exact ⟨_, _, rfl⟩

/-! ### Channels -/

/-- The active bank of a table in order holds no key twice. -/
theorem State.cues_nodup {s : State} (h : s.table.ordered) : (s.cues.map Cue.key).Nodup :=
  (s.table.activeBank_ordered h).2.1

/-- The tone units' timers leave every schedule and status map (06 R97). -/
theorem schedulesFit_elapseTo (now : Stamp) {s : State} (h : s.schedulesFit) : (elapseTo now s).schedulesFit := by
  obtain ⟨count, fit⟩ := h
  refine ⟨(List.length_map _).trans count, fun d hd => ?_⟩
  obtain ⟨c, hc, rfl⟩ := List.mem_map.mp hd
  exact fit c hc

/-! ### Every move -/

/-- What stands in the tables of `s` in order stands so in those of `t`. -/
structure KeepsOrder (s t : State) : Prop where
  banks : s.table.ordered → t.table.ordered
  channels : s.table.ordered → s.schedulesFit → t.schedulesFit

/-- A change of other blocks. -/
theorem KeepsOrder.of {s t : State} (table : t.table = s.table) (channels : t.channels = s.channels) : KeepsOrder s t where
  banks h := table ▸ h
  channels _ h := by rwa [State.schedulesFit, channels]

/-- A change of the channels to as many that fit. -/
theorem KeepsOrder.of_channels {s : State} {cs : List Channel} (count : cs.length = s.channels.length)
    (fit : (s.cues.map Cue.key).Nodup → (∀ c ∈ s.channels, c.fits) → ∀ c ∈ cs, c.fits) :
    KeepsOrder s { s with channels := cs } where
  banks h := h
  channels ordered h := ⟨count.trans h.1, fit (State.cues_nodup ordered) h.2⟩

theorem KeepsOrder.trans {s t u : State} (h : KeepsOrder s t) (k : KeepsOrder t u) : KeepsOrder s u where
  banks ordered := k.banks (h.banks ordered)
  channels ordered fit := k.channels (h.banks ordered) (h.channels ordered fit)

theorem Move.keepsOrder {b : Bool} {s t : State} (m : Move b s t) : KeepsOrder s t := by
  cases m with
  | clock _ now => exact ⟨id, fun _ => schedulesFit_elapseTo now⟩
  | notice _ n => exact .of (offer_table n s) (offer_channels n s)
  | fault _ f => exact .of (recordFault_table f s) (recordFault_channels f s)
  | channels _ cs _ settings fit => exact .of_channels (by simpa using congrArg List.length settings) fit
  | settings cs _ count fit => exact .of_channels count fit
  | roles _ name pending => exact ⟨id, fun _ => id⟩
  | banks table _ ordered => exact ⟨ordered, fun _ => id⟩
  | gates _ cls p i =>
    obtain ⟨entries, lines, slots, e⟩ := evalEntry_touches cls p s i
    rw [e]
    exact .of rfl rfl
  | opens _ old new i =>
    obtain ⟨entries, e⟩ := openCrossed_touches old new s i
    rw [e]
    exact .of rfl rfl
  | flags i =>
    obtain ⟨entries, e⟩ := flagEntry_touches s i
    rw [e]
    exact .of rfl rfl
  | rewindow cue i =>
    obtain ⟨entries, slots, e⟩ := editEntry_touches cue s i
    rw [e]
    exact .of rfl rfl
  | accept f =>
    obtain ⟨intake, replies, e⟩ := acceptFrame_touches f s
    rw [e]
    exact .of rfl rfl
  | errorReply r =>
    obtain ⟨replies, e⟩ := queueErrorReply_touches r s
    rw [e]
    exact .of rfl rfl
  | _ => exact .of rfl rfl

/-! ### Every step -/

theorem Moves.keepsOrder {b : Bool} {s t : State} (m : Moves b s t) : KeepsOrder s t :=
  m.keep (P := fun u => KeepsOrder s u) (fun _ _ k h => h.trans k.keepsOrder) (.of rfl rfl)

theorem Effect.keepsOrder {s t : State} (e : Effect s t) : KeepsOrder s t := by
  cases e with
  | event m => exact m.keepsOrder
  | request r m _ => exact m.keepsOrder.trans (.of rfl rfl)
  | power => exact ⟨fun _ => reset_table_ordered, fun _ _ => reset_schedulesFit⟩

theorem step_keepsOrder {s t : State} (h : step s = .next t) : KeepsOrder s t := by
  unfold step at h
  split at h
  · cases h
    exact (Move.clock false (s.counter + 1) s).keepsOrder
  · rename_i command rest _
    have popped : KeepsOrder s { s with pending := rest } := .of rfl rfl
    exact popped.trans (exec_effect command h).keepsOrder

/-- Settles O48: each small move of the state keeps both banks in order. -/
theorem banksStayOrdered : Obligations.BanksStayOrdered := fun _ _ ordered h => (step_keepsOrder h).banks ordered

/-- Settles O41: each small move keeps the channels within bounds, against banks that stand in order as it begins. -/
theorem schedulesStayWithin48 : Obligations.SchedulesStayWithin48 := fun _ _ ordered fit h =>
  (step_keepsOrder h).channels ordered fit

end Sys2Proof.Machine
end

section
/-! BANK_SETUP, DROP_CUE and CLEAR_BANK (03 R47 to R51), SWITCH_BANK and CANCEL_SWITCH (R52 to R55). -/

namespace Sys2Proof.Machine

/-! ### Rates and records looked up -/

theorem Rate.ofCode_code (r : Rate) : Rate.ofCode r.code = some r := by cases r <;> rfl

theorem Rate.ofCode_eq_none {n : Nat} (h : 5 < n) : Rate.ofCode n = none := by
  obtain ⟨m, rfl⟩ := Nat.exists_eq_add_of_le' h
  rfl

theorem findCue_eq_none_iff (cues : List Cue) (k : Key) : findCue cues k = none ↔ ∀ c ∈ cues, c.key ≠ k := by
  simp [findCue]

theorem findCue_first {k : Key} {before after : List Cue} {c : Cue} (h : c.key = k) (n : ∀ d ∈ before, d.key ≠ k) :
    findCue (before ++ c :: after) k = some c :=
  find?_append_cons (by simp [h]) fun d hd => by simp [n d hd]

/-! ### The staged bank (03 R39) -/

theorem CueTable.roles_of_a (b : Bank) {t : CueTable} (h : t.active = .a) :
    t.activeBank = t.bankA ∧ t.stagedBank = t.bankB ∧ t.withStaged b = { t with bankB := b } ∧ t.active.other = .b := by
  simp [CueTable.activeBank, CueTable.stagedBank, CueTable.withStaged, BankName.other, h]

theorem CueTable.roles_of_b (b : Bank) {t : CueTable} (h : t.active = .b) :
    t.activeBank = t.bankB ∧ t.stagedBank = t.bankA ∧ t.withStaged b = { t with bankA := b } ∧ t.active.other = .a := by
  simp [CueTable.activeBank, CueTable.stagedBank, CueTable.withStaged, BankName.other, h]

/-! ### While a switch is pending (03 R51) -/

section
variable {s : State} (pending : s.table.switchPending = true)
include pending

theorem bankSetupPerform_pending (rate : Byte) : bankSetupPerform rate s = refuse .switchPending s := if_pos pending

theorem loadCuePerform_pending (key : WireKey) (x : CueItems) :
    loadCuePerform key x s = refuseKey .switchPending key s := if_pos pending

theorem dropCuePerform_pending (key : WireKey) : dropCuePerform key s = refuse .switchPending s := if_pos pending

theorem clearBankPerform_pending : clearBankPerform s = refuse .switchPending s := if_pos pending

end

/-! ### With no switch pending (03 R47, R49, R50) -/

section
variable {s : State} (free : s.table.switchPending = false)
include free

theorem bankSetupPerform_range {rate : Byte} (h : 5 < rate.toNat) : bankSetupPerform rate s = refuse .range s := by
  simp only [bankSetupPerform, free, Rate.ofCode_eq_none h, Bool.false_eq_true, if_false]

section
variable {rate : Byte} {r : Rate} (h : r.code = rate.toNat)
include h

theorem bankSetupPerform_filled (filled : s.table.stagedBank.cues ≠ []) : bankSetupPerform rate s = refuse .state s := by
  simp only [bankSetupPerform, free, ← h, r.ofCode_code, Bool.false_eq_true, if_false, if_pos filled]

theorem bankSetupPerform_sets (empty : s.table.stagedBank.cues = []) :
    bankSetupPerform rate s =
      ({ s with table := s.table.withStaged { s.table.stagedBank with rate := r } },
        b1 0 ++ b1 s.table.active.other.code ++ [rate]) := by
  have item : b1 r.code = [rate] := by rw [h, b1, BitVec.ofNat_toNat, BitVec.setWidth_eq]
  simp only [bankSetupPerform, free, ← h, r.ofCode_code, Bool.false_eq_true, if_false, empty, ne_eq, not_true_eq_false,
    item]
  rfl

end

theorem dropCuePerform_range {key : WireKey} (h : keyOf key = none) : dropCuePerform key s = refuse .range s := by
  simp only [dropCuePerform, free, h, Bool.false_eq_true, if_false]

section
variable {key : WireKey} {k : Key} (h : keyOf key = some k)
include h

theorem dropCuePerform_unknown (no : findCue s.table.stagedBank.cues k = none) :
    dropCuePerform key s = refuse .unknownKey s := by
  simp only [dropCuePerform, free, h, no, Bool.false_eq_true, if_false]

theorem dropCuePerform_drops {old : Cue} (found : findCue s.table.stagedBank.cues k = some old) :
    dropCuePerform key s =
      (s.withStagedCues (dropKey k s.table.stagedBank.cues),
        b1 0 ++ b2 (dropKey k s.table.stagedBank.cues).length ++ b1 s.table.active.other.code) := by
  simp only [dropCuePerform, free, h, found, Bool.false_eq_true, if_false]
  rfl

end

theorem clearBankPerform_clears :
    clearBankPerform s = (s.withStagedCues [], b1 0 ++ b2 0 ++ b1 s.table.active.other.code) :=
  if_neg (by simp [free])

end

/-! ### The requests of the staged bank -/

section
variable {tag : Byte} {s t : State} {body : List Byte}

theorem execBankSetup_answers {rate : Byte} (c : s.canTake (.bankSetup tag rate) = true)
    (p : bankSetupPerform rate s.taken = (t, body)) : exec (.bankSetup tag rate) s = .next (t.answered 0x90 tag body) :=
  request_answers (f := ⟨0x10, tag, [rate]⟩) rfl c p

theorem execDropCue_answers {key : WireKey} (c : s.canTake (.dropCue tag key) = true)
    (p : dropCuePerform key s.taken = (t, body)) : exec (.dropCue tag key) s = .next (t.answered 0x92 tag body) :=
  request_answers (f := ⟨0x12, tag, wireKeyItem key⟩) rfl c p

theorem execClearBank_answers (c : s.canTake (.clearBank tag) = true) (p : clearBankPerform s.taken = (t, body)) :
    exec (.clearBank tag) s = .next (t.answered 0x93 tag body) :=
  request_answers (f := ⟨0x13, tag, []⟩) rfl c p

end

/-- Settles O42: the refusals while a switch is pending, then each request's tests in their order and its effect. -/
theorem stagedBankRequestsAct : Obligations.StagedBankRequestsAct := by
  refine ⟨fun b t => ⟨CueTable.roles_of_a b, CueTable.roles_of_b b⟩,
    fun cues k => ⟨findCue_eq_none_iff cues k, fun before after c split hk no => split ▸ findCue_first hk no⟩,
    fun tag rate key x s => ⟨fun pending => ⟨fun c => ?_, fun c => ?_, fun c => ?_, fun c => ?_⟩,
      fun free c => ⟨fun bad => ?_, fun r hr => ⟨fun filled => ?_, fun empty => ?_⟩⟩,
      fun free c => ⟨fun bad => ?_, fun k hk => ⟨fun no => ?_, ?_⟩⟩, fun free c => ?_⟩⟩
  · exact execBankSetup_answers c (bankSetupPerform_pending (s := s.taken) pending rate)
  · exact execLoadCue_answers c (loadCuePerform_pending (s := s.taken) pending key x)
  · exact execDropCue_answers c (dropCuePerform_pending (s := s.taken) pending key)
  · exact execClearBank_answers c (clearBankPerform_pending (s := s.taken) pending)
  · exact execBankSetup_answers c (bankSetupPerform_range (s := s.taken) free bad)
  · exact execBankSetup_answers c (bankSetupPerform_filled (s := s.taken) free hr filled)
  · exact execBankSetup_answers c (bankSetupPerform_sets (s := s.taken) free hr empty)
  · exact execDropCue_answers c (dropCuePerform_range (s := s.taken) free bad)
  · exact execDropCue_answers c (dropCuePerform_unknown (s := s.taken) free hk no)
  · rintro old found _ rfl
    exact execDropCue_answers c (dropCuePerform_drops (s := s.taken) free hk found)
  · exact execClearBank_answers c (clearBankPerform_clears (s := s.taken) free)

/-! ### The safe point (03 R53) -/

theorem State.safePoint_iff (s : State) :
    s.safePoint = true ↔ s.tracker.cls ≠ .play ∧ s.takes.openCount = 0 ∧ s.pass.state = .idle := by
  simp [State.safePoint, and_assoc]

/-- A switch that completes leaves the banks as they stand, in each other's role (03 R54). -/
theorem completeSwitch_table (s : State) :
    (completeSwitch s).table = { s.table with switchPending := false, active := s.table.active.other } := by
  obtain ⟨v, eq, down, -⟩ := completeSwitch_eq s
  rw [eq]
  exact down.table

/-! ### SWITCH_BANK and CANCEL_SWITCH (03 R52, R55) -/

theorem switchBankPerform_busy {s : State} (pending : s.table.switchPending = true) :
    switchBankPerform s = refuse .busy s := if_pos pending

section
variable {s : State} (free : s.table.switchPending = false)
include free

theorem switchBankPerform_defers (busy : s.safePoint = false) :
    switchBankPerform s = ({ s with table := { s.table with switchPending := true } }, [2]) := by
  have waits : testSafePoint { s with table := { s.table with switchPending := true } }
      = { s with table := { s.table with switchPending := true } } := testSafePoint_waits (.inr busy)
  simp only [switchBankPerform, free, waits, Bool.false_eq_true, if_false, if_true]
  rfl

theorem switchBankPerform_completes {t : State} (safe : s.safePoint = true)
    (ht : t = completeSwitch { s with table := { s.table with switchPending := true } }) :
    t.table = { s.table with active := s.table.active.other }
      ∧ switchBankPerform s = (t, b1 0 ++ b1 s.table.active.other.code ++ b1 s.table.stagedBank.rate.code) := by
  have completes : testSafePoint { s with table := { s.table with switchPending := true } } = t :=
    (testSafePoint_completes (s := { s with table := { s.table with switchPending := true } }) rfl safe).trans ht.symm
  have table : t.table = { s.table with active := s.table.active.other } := by
    rw [ht, completeSwitch_table, ← free]
  have bank : t.table.activeBank = s.table.stagedBank := by
    rw [ht, completeSwitch_table]
    exact swapBanks_activeBank s
  refine ⟨table, ?_⟩
  simp only [switchBankPerform, free, completes, Bool.false_eq_true, if_false, State.rate, bank]
  simp only [table, free, Bool.false_eq_true, if_false]
  rfl

end

theorem cancelSwitchPerform_cancels {s : State} (pending : s.table.switchPending = true) :
    cancelSwitchPerform s =
      (offer (.bankCancelled s.table.active s.rate s.cues.length)
        { s with table := { s.table with switchPending := false } }, [0]) := if_pos pending

theorem cancelSwitchPerform_state {s : State} (free : s.table.switchPending = false) :
    cancelSwitchPerform s = refuse .state s := if_neg (by simp [free])

section
variable {tag : Byte} {s t : State} {body : List Byte}

theorem execSwitchBank_answers (c : s.canTake (.switchBank tag) = true) (p : switchBankPerform s.taken = (t, body)) :
    exec (.switchBank tag) s = .next (t.answered 0x94 tag body) :=
  request_answers (f := ⟨0x14, tag, []⟩) rfl c p

theorem execCancelSwitch_answers (c : s.canTake (.cancelSwitch tag) = true) (p : cancelSwitchPerform s.taken = (t, body)) :
    exec (.cancelSwitch tag) s = .next (t.answered 0x95 tag body) :=
  request_answers (f := ⟨0x15, tag, []⟩) rfl c p

end

/-- Settles O44: the test of the safe point, and both requests with a switch pending and without. -/
theorem switchWaitsForTheSafePoint : Obligations.SwitchWaitsForTheSafePoint := by
  refine fun tag s => ⟨⟨s.safePoint_iff, testSafePoint_completes, testSafePoint_waits⟩,
    fun c => ⟨fun pending => ?_, fun free => ⟨fun blocked => ?_, fun still shut idle => ?_⟩⟩,
    fun c => ⟨fun pending => ?_, fun free => ?_⟩⟩
  · exact execSwitchBank_answers c (switchBankPerform_busy (s := s.taken) pending)
  · have waits : s.taken.safePoint = false := by
      rw [← Bool.not_eq_true, State.safePoint_iff]
      rintro ⟨still, shut, idle⟩
      rcases blocked with play | opened | busy
      · exact still play
      · exact absurd shut (Nat.pos_iff_ne_zero.mp opened)
      · exact busy idle
    exact execSwitchBank_answers c (switchBankPerform_defers (s := s.taken) free waits)
  · have safe : s.taken.safePoint = true := s.taken.safePoint_iff.mpr ⟨still, shut, idle⟩
    obtain ⟨table, completes⟩ := switchBankPerform_completes (s := s.taken) free safe rfl
    exact ⟨_, rfl, table, execSwitchBank_answers c completes⟩
  · exact execCancelSwitch_answers c (cancelSwitchPerform_cancels (s := s.taken) pending)
  · exact execCancelSwitch_answers c (cancelSwitchPerform_state (s := s.taken) free)

end Sys2Proof.Machine
end

section
/-! COLLECT_TAKES (08 R144) and CLEAR_SLOTS (08 R148), and the key or ALL that a request names (03 R40). -/

namespace Sys2Proof.Machine

/-! ### A key or ALL (03 R40) -/

/-- ALL passes its test, and a key passes exactly when it is in its range. -/
theorem keyOrAll_reads (w : WireKey) :
    keyOrAll .all = some none ∧ (keyOf w = none → keyOrAll (.key w) = none)
      ∧ ∀ k : Key, keyOf w = some k → keyOrAll (.key w) = some (some k) :=
  ⟨rfl, fun h => by rw [keyOrAll, h]; rfl, fun k h => by rw [keyOrAll, h]; rfl⟩

theorem wanted_iff (x y : Key) : wanted none x = true ∧ (wanted (some y) x = true ↔ x = y) :=
  ⟨rfl, decide_eq_true_iff⟩

/-! ### COLLECT_TAKES (08 R144) -/

/-- Every record up to and with the first one of a number is collected. -/
theorem collectUpTo_first {n : Nat} {before after : List TakeRecord} {r : TakeRecord} (hr : r.number = n)
    (no : ∀ q ∈ before, q.number ≠ n) :
    collectUpTo n (before ++ r :: after) = (before ++ [r]).map (fun q => { q with collected := true }) ++ after := by
  induction before with
  | nil =>
    rw [List.nil_append, collectUpTo, if_pos hr]
    rfl
  | cons q before ih =>
    rw [List.cons_append, collectUpTo, if_neg (no q List.mem_cons_self),
      ih fun p hp => no p (List.mem_cons_of_mem q hp)]
    rfl

/-- Collecting some records raises the count by those that were not collected before. -/
theorem countP_collected (chosen after : List TakeRecord) :
    (chosen.map (fun (q : TakeRecord) => { q with collected := true }) ++ after).countP TakeRecord.collected
      = (chosen ++ after).countP TakeRecord.collected + chosen.countP fun (q : TakeRecord) => !q.collected := by
  have all : (chosen.map fun (q : TakeRecord) => { q with collected := true }).countP TakeRecord.collected
      = chosen.length := by
    rw [List.countP_map, List.countP_eq_length]
    exact fun _ _ => rfl
  have split := List.length_eq_countP_add_countP TakeRecord.collected (l := chosen)
  simp only [Bool.not_eq_true, Bool.decide_eq_false] at split
  rw [List.countP_append, List.countP_append, all]
  omega

theorem collectTakesPerform_range (s : State) : collectTakesPerform 0 s = refuse .range s := rfl

theorem collectTakesPerform_unknown {n : Half} {s : State} (present : n ≠ 0)
    (no : ∀ r ∈ s.log.records, r.number ≠ n.toNat) : collectTakesPerform n s = refuse .unknownKey s := by
  simp only [collectTakesPerform, if_neg present, (s.log.recordOf_eq_none_iff n.toNat).mpr no]

theorem collectTakesPerform_collects {n : Half} {s : State} {before after : List TakeRecord} {r : TakeRecord}
    (present : n ≠ 0) (split : s.log.records = before ++ r :: after) (hr : r.number = n.toNat)
    (no : ∀ q ∈ before, q.number ≠ n.toNat) {records : List TakeRecord}
    (h : records = (before ++ [r]).map (fun q => { q with collected := true }) ++ after) :
    collectTakesPerform n s =
      ({ s with log := { s.log with records } },
        b1 0 ++ half n ++ b2 ((before ++ [r]).countP fun (q : TakeRecord) => !q.collected)
          ++ b2 (records.countP fun (q : TakeRecord) => q.collected)) := by
  have collects : collectUpTo n.toNat s.log.records = records := by rw [split, collectUpTo_first hr no, h]
  have whole : s.log.records = before ++ [r] ++ after := by rw [split, List.append_assoc]; rfl
  have marked : records.countP TakeRecord.collected - s.log.records.countP TakeRecord.collected
      = (before ++ [r]).countP fun (q : TakeRecord) => !q.collected := by
    rw [h, countP_collected, whole, Nat.add_sub_cancel_left]
  simp only [collectTakesPerform, if_neg present, TakeLog.recordOf_first split hr no, collects, TakeLog.collected, marked]
  rfl

/-! ### CLEAR_SLOTS (08 R148) -/

theorem State.slotInUse_iff (s : State) (x : Slot) :
    s.slotInUse x = true ↔ ∃ e ∈ s.takes.inUse, e.key = x.key ∧ ∃ y ∈ e.items, y.track = x.track := by
  simp [State.slotInUse]

theorem clearSlotsPerform_range {which : KeyOrAll} {s : State} (h : keyOrAll which = none) :
    clearSlotsPerform which s = refuse .range s := by
  simp only [clearSlotsPerform, h]

theorem clearSlotsPerform_eq {which : KeyOrAll} {k : Option Key} {s : State} (h : keyOrAll which = some k) :
    clearSlotsPerform which s =
      if ∃ x ∈ s.slots, wanted k x.key = true ∧ s.slotInUse x = true then refuse .inProgress s
      else
        ({ s with slots := s.slots.filter fun x => !wanted k x.key },
          b1 0 ++ b2 (s.slots.countP fun (x : Slot) => wanted k x.key)) := by
  simp only [clearSlotsPerform, h, List.any_eq_true, List.mem_filter, and_assoc, List.countP_eq_length_filter]
  rfl

/-! ### The requests -/

section
variable {tag : Byte} {s t : State} {body : List Byte}

theorem execCollectTakes_answers {n : Half} (c : s.canTake (.collectTakes tag n) = true)
    (p : collectTakesPerform n s.taken = (t, body)) : exec (.collectTakes tag n) s = .next (t.answered 0xA4 tag body) :=
  request_answers (f := ⟨0x24, tag, half n⟩) rfl c p

theorem execClearSlots_answers {which : KeyOrAll} (c : s.canTake (.clearSlots tag which) = true)
    (p : clearSlotsPerform which s.taken = (t, body)) :
    exec (.clearSlots tag which) s = .next (t.answered 0xA5 tag body) :=
  request_answers (f := ⟨0x25, tag, keyOrAllPayload which⟩) rfl c p

end

/-- Settles O52: each request's tests in their order and its effect. -/
theorem recordsAreCollectedAndSlotsCleared : Obligations.RecordsAreCollectedAndSlotsCleared := by
  refine ⟨keyOrAll_reads, wanted_iff, fun tag n s c => ⟨?_, fun present no => ?_, ?_⟩,
    fun tag which s c => ⟨fun bad => ?_, fun k hk => ⟨?_, fun unused => ?_⟩⟩⟩
  · rintro rfl
    exact execCollectTakes_answers c (collectTakesPerform_range s.taken)
  · exact execCollectTakes_answers c (collectTakesPerform_unknown (s := s.taken) present no)
  · intro before after r present split hr no records h
    exact execCollectTakes_answers c (collectTakesPerform_collects (s := s.taken) present split hr no h)
  · exact execClearSlots_answers c (clearSlotsPerform_range (s := s.taken) bad)
  · rintro ⟨x, hx, asked, held⟩
    exact execClearSlots_answers c
      ((clearSlotsPerform_eq hk).trans (if_pos ⟨x, hx, asked, (s.taken.slotInUse_iff x).mpr held⟩))
  · refine execClearSlots_answers c ((clearSlotsPerform_eq hk).trans (if_neg ?_))
    rintro ⟨x, hx, asked, held⟩
    obtain ⟨e, he, key, y, hy, track⟩ := (s.taken.slotInUse_iff x).mp held
    exact unused x hx asked e he key y hy track

end Sys2Proof.Machine
end

section
/-! Closes of OPEN entries (07 R128 to R130): what each leaves of the table and the log, whatever bank switch completes behind
it (03 R53, R54), and several of them in ascending entry number. -/

namespace Sys2Proof.Machine

/-! ### An entry of the table -/

theorem Takes.openAt_of_get {t : Takes} {i : Nat} {e : TakeEntry} (here : t.entries[i]? = some (some e)) :
    t.openAt i = if e.opened then some e else none := by
  rw [Takes.openAt, Takes.entryAt_of_get here, Option.filter_some]

theorem Takes.armed_of_openAt_none {t : Takes} {i : Nat} {e : TakeEntry} (here : t.entries[i]? = some (some e))
    (shut : t.openAt i = none) : e.opened = false := by
  rw [Takes.openAt_of_get here] at shut
  simpa using shut

/-! ### What leaves the OPEN entries and the records -/

/-- From `s` to `t` no take opens or closes: ARMED entries are at most freed, and their reservations released. -/
structure SparesOpen (s t : State) : Prop where
  openAt : ∀ i : Nat, t.takes.openAt i = s.takes.openAt i
  keys : openKeys t.takes.entries = openKeys s.takes.entries
  records : t.log.records = s.log.records
  number : t.log.nextNumber = s.log.nextNumber

theorem SparesOpen.of {s t : State} (takes : t.takes = s.takes) (log : t.log = s.log) : SparesOpen s t :=
  ⟨fun _ => by rw [takes], by rw [takes], by rw [log], by rw [log]⟩

theorem SparesOpen.refl (s : State) : SparesOpen s s := .of rfl rfl

theorem SparesOpen.trans {s t u : State} (h : SparesOpen s t) (k : SparesOpen t u) : SparesOpen s u where
  openAt i := (k.openAt i).trans (h.openAt i)
  keys := k.keys.trans h.keys
  records := k.records.trans h.records
  number := k.number.trans h.number

theorem SparesOpen.ite {c : Prop} [Decidable c] {s t u : State} (h : SparesOpen s t) (k : SparesOpen s u) :
    SparesOpen s (if c then t else u) := by
  split
  · exact h
  · exact k

theorem SparesOpen.foldl {α : Type} {f : State → α → State} (h : ∀ (s : State) (x : α), SparesOpen s (f s x)) (l : List α)
    (s : State) : SparesOpen s (l.foldl f s) :=
  List.foldlRecOn l f (motive := SparesOpen s) (.refl s) fun u k x _ => k.trans (h u x)

theorem SparesOpen.offer (n : Notice) (s : State) : SparesOpen s (offer n s) := .of (offer_takes n s) (offer_log n s)

/-- What the pass controller makes of its freed arm stays within it (09 R163). -/
theorem passArmFreed_touches (i : Nat) (cause : FreeCause) (s : State) :
    ∃ p : PassCtl, passArmFreed i cause s = { s with pass := p } := by
  unfold passArmFreed
  split
  · exact ⟨_, rfl⟩
  · split
    · exact ⟨_, rfl⟩
    · exact ⟨_, rfl⟩

/-- What the pass controller makes of its closed take stays within it (09 R163). -/
theorem passTakeClosed_touches (i n : Nat) (st : TakeStatus) (d : Bool) (s : State) :
    ∃ p : PassCtl, passTakeClosed i n st d s = { s with pass := p } := by
  unfold passTakeClosed
  split
  · exact ⟨_, rfl⟩
  · split
    · exact ⟨_, rfl⟩
    · exact ⟨_, rfl⟩

theorem freeArmed_log {cause : FreeCause} {i : Nat} {s : State} {e : TakeEntry} (h : s.takes.armedAt i = some e) :
    (freeArmed cause i s).log = s.log.release := by
  have told (u : State) : (if e.origin = .pass then passArmFreed i cause u else u).log = u.log := by
    split
    · obtain ⟨p, eq⟩ := passArmFreed_touches i cause u
      rw [eq]
    · rfl
  unfold freeArmed
  rw [h]
  refine (told _).trans ?_
  cases cause with
  | disarm => rfl
  | lapse reason => exact offer_log _ _

theorem SparesOpen.freeArmed (cause : FreeCause) (i : Nat) (s : State) : SparesOpen s (freeArmed cause i s) := by
  cases h : s.takes.armedAt i with
  | none =>
    rw [freeArmed_none h]
    exact .refl s
  | some e =>
    obtain ⟨here, armed⟩ := Takes.armedAt_eq_some.mp h
    refine ⟨freeArmed_openAt cause i s, ?_, by rw [freeArmed_log h]; rfl, by rw [freeArmed_log h]; rfl⟩
    rw [freeArmed_takes h]
    exact openKeys_set_armed (Takes.entryAt_eq_some here) armed

theorem SparesOpen.passTakeClosed (i n : Nat) (st : TakeStatus) (d : Bool) (s : State) :
    SparesOpen s (passTakeClosed i n st d s) := by
  obtain ⟨p, eq⟩ := passTakeClosed_touches i n st d s
  rw [eq]
  exact .of rfl rfl

theorem SparesOpen.onChannel (n : Nat) (f : Channel → Channel × List Emit) (s : State) : SparesOpen s (onChannel n f s) := by
  unfold Machine.onChannel
  split
  · exact .refl s
  · exact .of (emitAll_takes _ _) (emitAll_log _ _)

theorem SparesOpen.drawOrder (s : State) : SparesOpen s s.drawOrder.2 := by
  unfold State.drawOrder
  split
  · exact .refl s
  · exact .of rfl rfl

theorem SparesOpen.restartAtRate (old : Rate) (s : State) : SparesOpen s (restartAtRate old s) := by
  by_cases same : s.rate = old
  · rw [restartAtRate_same same]
    exact .refl s
  · have silent : SparesOpen s { s with tracker := s.tracker.toSilent, slots := [] } := .of rfl rfl
    rw [restartAtRate_other same]
    exact .ite silent (silent.trans (.offer _ _))

/-- A switch that completes closes no take (03 R54). -/
theorem SparesOpen.completeSwitch (s : State) : SparesOpen s (completeSwitch s) := by
  have swapped : SparesOpen s (swapBanks s) := .of rfl rfl
  have lapsed := swapped.trans (.foldl (fun s i => .freeArmed (.lapse .bank) i s) entryNumbers _)
  have rebuilt : SparesOpen s (rebuildChannels (lapseArms (swapBanks s))) :=
    lapsed.trans ((SparesOpen.drawOrder _).trans (.foldl (fun s _ => .onChannel _ _ s) _ _))
  exact (rebuilt.trans (.restartAtRate _ _)).trans (.offer _ _)

theorem SparesOpen.testSafePoint (s : State) : SparesOpen s (testSafePoint s) := .ite (.completeSwitch s) (.refl s)

/-! ### One close (07 R129) -/

theorem closeEntry_none {st : TakeStatus} {pos i : Nat} {s : State} (h : s.takes.openAt i = none) :
    closeEntry st pos i s = s := by
  unfold closeEntry
  rw [h]

section
variable {st : TakeStatus} {pos i : Nat} {s : State} {e : TakeEntry} (h : s.takes.openAt i = some e)
include h

/-- A close writes its record, offers its notice, and is told to the pass controller and the cue table. -/
theorem closeEntry_told {told : State}
    (ht : told = offer (.take s.log.nextNumber e.key st pos e.origin e.passNumber e.disarmAfter) (writeClose st pos i e s)) :
    closeEntry st pos i s =
      testSafePoint (if e.origin = .pass then passTakeClosed i s.log.nextNumber st e.disarmAfter told else told) := by
  unfold closeEntry
  rw [h, ht]

/-- What follows the record of a close leaves the other OPEN entries and the records. -/
theorem closeEntry_spares : SparesOpen (writeClose st pos i e s) (closeEntry st pos i s) := by
  rw [closeEntry_told h rfl]
  exact ((SparesOpen.offer _ _).trans (.ite (.passTakeClosed ..) (.refl _))).trans (.testSafePoint _)

theorem closeEntry_openAt (j : Nat) :
    (closeEntry st pos i s).takes.openAt j = if j = i then none else s.takes.openAt j := by
  have inside := (List.getElem?_eq_some_iff.mp (Takes.entryAt_eq_some (Takes.openAt_eq_some.mp h).1)).1
  have freed : (writeClose st pos i e s).takes.openAt j = (s.takes.setEntry i none).openAt j := rfl
  rw [(closeEntry_spares h).openAt, freed, Takes.openAt, s.takes.entryAt_setEntry inside]
  split
  · rfl
  · rfl

theorem closeEntry_nextNumber : (closeEntry st pos i s).log.nextNumber = takeNumberAfter s.log.nextNumber :=
  (closeEntry_spares h).number

theorem closeEntry_records :
    ∃ r : TakeRecord, (closeEntry st pos i s).log.records = s.log.records ++ [r]
      ∧ r.key = e.key ∧ r.status = st ∧ r.closePos = pos ∧ r.collected = false :=
  ⟨_, (closeEntry_spares h).records, rfl, rfl, rfl, rfl⟩

theorem closeEntry_openKeys : openKeys (closeEntry st pos i s).takes.entries = openKeys (s.takes.entries.set i none) :=
  (closeEntry_spares h).keys

/-- With no switch pending a close changes no entry but its own. -/
theorem closeEntry_calm (calm : s.table.switchPending = false) :
    (closeEntry st pos i s).takes.entries = s.takes.entries.set i none ∧ (closeEntry st pos i s).table = s.table := by
  have told (u : State) :
      ∃ p : PassCtl, (if e.origin = .pass then passTakeClosed i s.log.nextNumber st e.disarmAfter u else u)
        = { u with pass := p } := by
    split
    · exact passTakeClosed_touches ..
    · exact ⟨_, rfl⟩
  obtain ⟨p, eq⟩ := told
    (offer (.take s.log.nextNumber e.key st pos e.origin e.passNumber e.disarmAfter) (writeClose st pos i e s))
  rw [closeEntry_told h rfl, eq, testSafePoint_waits (.inl (by rw [offer_table]; exact calm)), offer_takes, offer_table]
  exact ⟨rfl, rfl⟩

end

/-! ### Several closes -/

/-- The closes of ascending entry numbers write their records in that order. -/
theorem closeEntries_records (st : TakeStatus) (pos n k : Nat) (s : State) (below : ∀ j < k, s.takes.openAt j = none) :
    ∃ rs : List TakeRecord,
      ((List.range' k n).foldl (fun s i => closeEntry st pos i s) s).log.records = s.log.records ++ rs
        ∧ rs.map TakeRecord.key ++ openKeys ((List.range' k n).foldl (fun s i => closeEntry st pos i s) s).takes.entries
            = openKeys s.takes.entries
        ∧ ∀ r ∈ rs, r.status = st ∧ r.closePos = pos ∧ r.collected = false := by
  induction n generalizing k s with
  | zero => exact ⟨[], (List.append_nil _).symm, rfl, by simp⟩
  | succ n ih =>
    rw [List.range'_succ, List.foldl_cons]
    have shut : ∀ j < k + 1, (closeEntry st pos k s).takes.openAt j = none := by
      obtain ⟨retires, closed⟩ := Retires.closeEntry st pos k s
      intro j hj
      rcases Nat.lt_succ_iff_lt_or_eq.mp hj with lower | rfl
      · exact retires.openAt (below j lower)
      · exact closed
    obtain ⟨rs, records, keys, all⟩ := ih (k + 1) (closeEntry st pos k s) shut
    cases h : s.takes.openAt k with
    | none =>
      rw [closeEntry_none h] at records keys ⊢
      exact ⟨rs, records, keys, all⟩
    | some e =>
      obtain ⟨r, record, key, made⟩ := closeEntry_records (st := st) (pos := pos) h
      obtain ⟨here, opened⟩ := Takes.openAt_eq_some.mp h
      have first : ∀ j < k, ∀ f, s.takes.entries[j]? = some (some f) → f.opened = false :=
        fun j hj f hf => Takes.armed_of_openAt_none hf (below j hj)
      refine ⟨r :: rs, by rw [records, record, List.append_assoc]; rfl, ?_, ?_⟩
      · rw [List.map_cons, List.cons_append, keys, closeEntry_openKeys h, key]
        exact openKeys_set_open (Takes.entryAt_eq_some here) opened first
      · exact fun q hq => (List.mem_cons.mp hq).elim (fun same => same ▸ made) (all q)

/-- With no switch pending the closes of other entries leave an ARMED one (03 R54). -/
theorem closeEntries_armed (st : TakeStatus) (pos : Nat) {j : Nat} {f : TakeEntry} (armed : f.opened = false) (l : List Nat)
    {s : State} (calm : s.table.switchPending = false) (here : s.takes.entries[j]? = some (some f)) :
    (l.foldl (fun s i => closeEntry st pos i s) s).takes.entries[j]? = some (some f) := by
  refine (List.foldlRecOn l _
    (motive := fun (u : State) => u.table.switchPending = false ∧ u.takes.entries[j]? = some (some f)) ⟨calm, here⟩ fun u ⟨calm, here⟩ i _ => ?_).2
  cases h : u.takes.openAt i with
  | none =>
    rw [closeEntry_none h]
    exact ⟨calm, here⟩
  | some e =>
    obtain ⟨entries, table⟩ := closeEntry_calm (st := st) (pos := pos) h calm
    have other : i ≠ j := by
      rintro rfl
      rw [Takes.openAt_of_get here, armed] at h
      cases h
    rw [table, entries, List.getElem?_set_ne other]
    exact ⟨calm, here⟩

/-! ### Every OPEN entry (07 R128) -/

section
variable (st : TakeStatus) (pos : Nat) {s : State} (entries : s.takes.entries.length = 4)
include entries

theorem closeAllOpen_openCount : (closeAllOpen st pos s).takes.openCount = 0 := by
  refine Takes.openCount_eq_zero fun i hi => closeAllOpen_openAt st pos ?_
  rwa [(Retires.closeAllOpen st pos s).length, entries] at hi

theorem closeAllOpen_records :
    ∃ records : List TakeRecord,
      (closeAllOpen st pos s).log.records = s.log.records ++ records
        ∧ records.map TakeRecord.key = (s.takes.inUse.filter TakeEntry.opened).map TakeEntry.key
        ∧ ∀ r ∈ records, r.status = st ∧ r.closePos = pos ∧ r.collected = false := by
  obtain ⟨rs, records, keys, all⟩ := closeEntries_records st pos 4 0 s (by omega)
  rw [← entryNumbers_eq_range'] at records keys
  have none_left : openKeys (closeAllOpen st pos s).takes.entries = [] :=
    List.eq_nil_of_length_eq_zero
      ((Takes.openCount_eq_openKeys _).symm.trans (closeAllOpen_openCount st pos entries))
  exact ⟨rs, records, (List.append_nil _).symm.trans ((congrArg _ none_left.symm).trans keys), all⟩

/-- With no switch pending the OPEN entries alone go. -/
theorem closeAllOpen_entry (calm : s.table.switchPending = false) {i : Nat} {e : TakeEntry}
    (here : s.takes.entries[i]? = some (some e)) :
    (closeAllOpen st pos s).takes.entries[i]? = some (if e.opened then none else some e) := by
  cases opened : e.opened with
  | false => exact closeEntries_armed st pos opened entryNumbers calm here
  | true =>
    have retires := Retires.closeAllOpen st pos s
    have hi := (List.getElem?_eq_some_iff.mp here).1
    have gone : (closeAllOpen st pos s).takes.entryAt i = none := by
      cases left : (closeAllOpen st pos s).takes.entryAt i with
      | none => rfl
      | some f =>
        obtain rfl := Option.some.inj ((Takes.entryAt_of_get here).symm.trans (retires.entry i f left))
        have shut := closeAllOpen_openAt (s := s) st pos (entries ▸ hi)
        exact absurd (Takes.openAt_eq_some.mpr ⟨left, opened⟩) (by simp [shut])
    rw [← retires.length] at hi
    rw [Takes.entryAt, List.getElem?_eq_getElem hi] at gone
    rw [List.getElem?_eq_getElem hi]
    exact congrArg some gone

end

/-! ### The take numbers of one ABORT_TAKE (07 R130, 08 R141) -/

/-- Of entries that are all OPEN, each close gets the take number after the one before. -/
theorem abortEntries_numbers {l : List Nat} {s : State} (once : l.Nodup)
    (opened : ∀ i ∈ l, (s.takes.openAt i).isSome = true) :
    (abortEntries l s).2 = List.iterate takeNumberAfter s.log.nextNumber l.length := by
  have grows (ns : List Nat) :
      (l.foldl (fun acc i => (closeEntry .aborted acc.1.tracker.head i acc.1, acc.2 ++ [acc.1.log.nextNumber])) (s, ns)).2
        = ns ++ List.iterate takeNumberAfter s.log.nextNumber l.length := by
    induction l generalizing s ns with
    | nil => exact (List.append_nil _).symm
    | cons i l ih =>
      obtain ⟨fresh, once⟩ := List.nodup_cons.mp once
      obtain ⟨e, h⟩ := Option.isSome_iff_exists.mp (opened i List.mem_cons_self)
      rw [List.foldl_cons, ih once, closeEntry_nextNumber h, List.append_assoc]
      · rfl
      · intro j hj
        have other : j ≠ i := by
          rintro rfl
          exact fresh hj
        rw [closeEntry_openAt h, if_neg other]
        exact opened j (List.mem_cons_of_mem i hj)
  exact grows []

theorem abortEntries_closes (l : List Nat) (s : State) :
    (abortEntries l s).1 = l.foldl (fun u i => closeEntry .aborted u.tracker.head i u) s :=
  (List.foldl_hom Prod.fst fun _ _ => rfl).symm

end Sys2Proof.Machine
end

section
/-! DISARM, ABORT_TAKE and ARM_DEADLINE_EXPIRY (07 R130 to R133), and the take controller at the tracker's reports (07 R122,
R127, R128, R135). -/

namespace Sys2Proof.Machine

/-! ### The entries that a test picks -/

theorem Takes.mem_numbersOf (test : TakeEntry → Bool) (t : Takes) (i : Nat) :
    i ∈ t.numbersOf test ↔ i < 4 ∧ ∃ e : TakeEntry, t.entries[i]? = some (some e) ∧ test e = true := by
  have picked : (t.entryAt i).any test = true ↔ ∃ e : TakeEntry, t.entries[i]? = some (some e) ∧ test e = true := by
    rw [Option.any_eq_true]
    exact exists_congr fun e => and_congr_left fun _ => ⟨Takes.entryAt_eq_some, Takes.entryAt_of_get⟩
  rw [Takes.numbersOf, List.mem_filter, entryNumbers, List.mem_range, picked]

theorem Takes.numbersOf_ascending (test : TakeEntry → Bool) (t : Takes) :
    (t.numbersOf test).Pairwise fun a b => a < b := List.pairwise_lt_range.filter _

theorem Takes.numbersOf_openAt {k : Option Key} {t : Takes} {i : Nat}
    (h : i ∈ t.numbersOf fun e => e.opened && wanted k e.key) : (t.openAt i).isSome = true := by
  obtain ⟨-, e, here, picked⟩ := (Takes.mem_numbersOf _ t i).mp h
  rw [Takes.openAt_of_get here, if_pos (Bool.and_eq_true_iff.mp picked).1]
  rfl

/-! ### One entry freed or flagged (07 R131, R133) -/

section
variable {i : Nat} {e : TakeEntry} {s : State} (here : s.takes.entries[i]? = some (some e))
include here

theorem freeArmed_open (cause : FreeCause) (opened : e.opened = true) : freeArmed cause i s = s :=
  freeArmed_none (by rw [Takes.armedAt_of_get here, if_pos opened])

theorem flagEntry_open (opened : e.opened = true) :
    flagEntry s i =
      { s with
        takes := { s.takes with entries := s.takes.entries.set i (some { e with disarmAfter := true }) } } := by
  simp only [flagEntry, Takes.openAt_of_get here, if_pos opened, Takes.setEntry]

theorem flagEntry_armed (armed : e.opened = false) : flagEntry s i = s := by
  simp only [flagEntry, Takes.openAt_of_get here, armed, Bool.false_eq_true, if_false]

/-- A freed entry is released, its lapse offered, and a pass arm's freeing told to the pass controller. -/
theorem freeArmed_armed (cause : FreeCause) (armed : e.opened = false) {freed : State}
    (h : freed = match cause with
      | .disarm => releaseEntry i e s
      | .lapse why => offer (.armLapsed i e.key e.origin why) (releaseEntry i e s)) :
    (e.origin = .host → freeArmed cause i s = freed)
      ∧ (e.origin = .pass → freeArmed cause i s = passArmFreed i cause freed) := by
  subst h
  simp only [freeArmed, Takes.armedAt_of_get here, armed, Bool.false_eq_true, if_false]
  exact ⟨fun host => if_neg (by simp [host]), fun pass => if_pos pass⟩

end

/-! ### DISARM (07 R131) -/

theorem disarmPerform_range {which : KeyOrAll} {s : State} (h : keyOrAll which = none) :
    disarmPerform which s = refuse .range s := by
  simp only [disarmPerform, h]

section
variable {which : KeyOrAll} {s : State} {k : Option Key} (h : keyOrAll which = some k) {armed opened : List Nat}
  (ha : armed = s.takes.numbersOf fun e => !e.opened && wanted k e.key)
  (ho : opened = s.takes.numbersOf fun e => e.opened && wanted k e.key)
include h ha ho

theorem disarmPerform_state (noArm : armed = []) (noOpen : opened = []) : disarmPerform which s = refuse .state s := by
  simp only [disarmPerform, h, ← ha, ← ho]
  exact if_pos ⟨noArm, noOpen⟩

theorem disarmPerform_frees (named : armed ≠ [] ∨ opened ≠ []) :
    disarmPerform which s =
      (opened.foldl flagEntry (armed.foldl (fun u i => freeArmed .disarm i u) s),
        b1 (if opened = [] then 0 else 2) ++ listOf b1 armed ++ listOf b1 opened) := by
  have code : (if opened = [] then ResultCode.ok else ResultCode.deferred).item = b1 (if opened = [] then 0 else 2) := by
    split
    · rfl
    · rfl
  simp only [disarmPerform, h, ← ha, ← ho, code]
  exact if_neg (by tauto)

end

/-! ### ABORT_TAKE (07 R130) -/

theorem abortTakePerform_range {which : KeyOrAll} {s : State} (h : keyOrAll which = none) :
    abortTakePerform which s = refuse .range s := by
  simp only [abortTakePerform, h]

section
variable {which : KeyOrAll} {s : State} {k : Option Key} (h : keyOrAll which = some k) {opened : List Nat}
  (ho : opened = s.takes.numbersOf fun e => e.opened && wanted k e.key)
include h ho

theorem abortTakePerform_state (noOpen : opened = []) : abortTakePerform which s = refuse .state s := by
  simp only [abortTakePerform, h, ← ho]
  exact if_pos noOpen

theorem abortTakePerform_closes (named : opened ≠ []) :
    abortTakePerform which s =
      (opened.foldl (fun u i => closeEntry .aborted u.tracker.head i u) s,
        b1 0 ++ listOf b2 (List.iterate takeNumberAfter s.log.nextNumber opened.length)) := by
  have once : opened.Nodup := ho ▸ (Takes.numbersOf_ascending _ _).imp Nat.ne_of_lt
  have allOpen : ∀ i ∈ opened, (s.takes.openAt i).isSome = true := fun i hi => Takes.numbersOf_openAt (k := k) (ho ▸ hi)
  simp only [abortTakePerform, h, ← ho, abortEntries_closes, abortEntries_numbers once allOpen]
  exact if_neg named

end

/-- Take numbers in a row: each is the one after the number before it (08 R141). -/
theorem takeNumbers_follow {n count j a b : Nat} (ha : (List.iterate takeNumberAfter n count)[j]? = some a)
    (hb : (List.iterate takeNumberAfter n count)[j + 1]? = some b) : b = if a = 65535 then 1 else a + 1 := by
  have inside := (List.getElem?_eq_some_iff.mp hb).1
  rw [List.length_iterate] at inside
  rw [List.getElem?_iterate _ _ _ _ (by omega)] at ha hb
  cases ha
  cases hb
  exact Function.iterate_succ_apply' ..

theorem takeNumbers_head? {n count : Nat} (h : count ≠ 0) : (List.iterate takeNumberAfter n count).head? = some n := by
  obtain ⟨m, rfl⟩ := Nat.exists_eq_succ_of_ne_zero h
  rfl

/-! ### ARM_DEADLINE_EXPIRY (07 R132) -/

theorem expireArm_due {i : Nat} {s : State} {e : TakeEntry} {d : Stamp} (here : s.takes.entryAt i = some e)
    (armed : e.opened = false) (limit : e.deadline = some d) (due : elapsed d s.counter < 2147483648) :
    expireArm i s = freeArmed (.lapse .time) i s := by
  have bound : (s.takes.armedAt i).bind TakeEntry.deadline = some d := by
    rw [Takes.armedAt_eq_some.mpr ⟨here, armed⟩]
    exact limit
  simp only [expireArm, bound, reached, due, decide_true, if_true]

theorem expireArm_idle {i : Nat} {s : State}
    (h : ∀ (e : TakeEntry) (d : Stamp), s.takes.entryAt i = some e → e.opened = false → e.deadline = some d →
      2147483648 ≤ elapsed d s.counter) : expireArm i s = s := by
  unfold expireArm
  split
  · rfl
  · rename_i d bound
    obtain ⟨e, arm, limit⟩ := Option.bind_eq_some_iff.mp bound
    obtain ⟨here, armed⟩ := Takes.armedAt_eq_some.mp arm
    exact if_neg (by simpa [reached] using h e d here armed limit)

/-! ### Openings and completions (07 R122, R127) -/

section
variable {old new i : Nat} {s : State} {e : TakeEntry} (here : s.takes.entries[i]? = some (some e))
include here

theorem openCrossed_opens (armed : e.opened = false) (beyond : old < e.winStart) (crossed : e.winStart ≤ new) :
    openCrossed old new s i =
      { s with
        takes := { s.takes with
          entries := s.takes.entries.set i (some { e with opened := true, deadline := none }) } } := by
  simp only [openCrossed, Takes.armedAt_of_get here, armed, Bool.false_eq_true, if_false, crosses, beyond, crossed,
    decide_true, Bool.and_self, if_true, Takes.setEntry]

theorem openCrossed_leaves (h : e.opened = true ∨ e.winStart ≤ old ∨ new < e.winStart) : openCrossed old new s i = s := by
  simp only [openCrossed, Takes.armedAt_of_get here]
  cases opened : e.opened with
  | true => rfl
  | false =>
    have outside : crosses old new e.winStart = false := by
      rw [opened] at h
      simp only [crosses, Bool.and_eq_false_iff, decide_eq_false_iff_not]
      rcases h with isOpen | behind | short
      · cases isOpen
      · exact .inl (by omega)
      · exact .inr (by omega)
    simp only [outside, Bool.false_eq_true, if_false]

theorem completeReached_closes (opened : e.opened = true) (done : e.winEnd ≤ new) :
    completeReached new s i = closeEntry .complete new i s := by
  simp only [completeReached, Takes.openAt_of_get here, if_pos opened, if_pos done]

theorem completeReached_leaves (h : e.opened = false ∨ new < e.winEnd) : completeReached new s i = s := by
  simp only [completeReached, Takes.openAt_of_get here]
  cases opened : e.opened with
  | false => rfl
  | true =>
    have short : ¬ e.winEnd ≤ new := by
      rw [opened] at h
      exact Nat.not_le_of_lt (h.resolve_left Bool.noConfusion)
    simp only [if_true, if_neg short]

end

/-! ### The tracker's reports (07 R135) -/

/-- At an advance that does not move P forward in PLAY the gates alone are evaluated. -/
theorem takesAdvance_still {snap : Snap} {old new : Nat} {step0 : Bool}
    (h : new ≤ old ∨ step0 = true ∨ snap.cls ≠ .play) (s : State) :
    takesAdvance snap old new step0 s = evalGates snap.cls new s := by
  have still : (decide (old < new) && !step0 && decide (snap.cls = .play)) = false := by
    rcases h with back | zero | other
    · simp [Nat.not_lt.mpr back]
    · simp [zero]
    · simp [other]
  simp only [takesAdvance, still, Bool.false_and, Bool.false_eq_true, if_false]

theorem takesAdvance_forward {snap : Snap} {old new : Nat} (ahead : old < new) (play : snap.cls = .play) (s : State) :
    takesAdvance snap old new false s =
      evalGates .play new
        ([0, 1, 2, 3].foldl (completeReached new)
          (if snap.settled then [0, 1, 2, 3].foldl (openCrossed old new) s else s)) := by
  simp only [takesAdvance, ahead, play, decide_true, Bool.not_false, Bool.and_self, Bool.true_and, if_true]
  rfl

/-! ### The requests -/

section
variable {tag : Byte} {which : KeyOrAll} {s t : State} {body : List Byte}

theorem execDisarm_answers (c : s.canTake (.disarm tag which) = true) (p : disarmPerform which s.taken = (t, body)) :
    exec (.disarm tag which) s = .next (t.answered 0xA1 tag body) :=
  request_answers (f := ⟨0x21, tag, keyOrAllPayload which⟩) rfl c p

theorem execAbortTake_answers (c : s.canTake (.abortTake tag which) = true)
    (p : abortTakePerform which s.taken = (t, body)) :
    exec (.abortTake tag which) s = .next (t.answered 0xA2 tag body) :=
  request_answers (f := ⟨0x22, tag, keyOrAllPayload which⟩) rfl c p

end

/-- Settles O50: requests and deadlines by the entries they pick, reports and closes entry by entry; a bank switch that
completes behind a close leaves the OPEN entries and the records, so several closes follow one another. -/
theorem entriesAreFreedAndClosed : Obligations.EntriesAreFreedAndClosed := by
  refine ⟨keyOrAll_reads, wanted_iff, fun test t => ⟨t.numbersOf_ascending test, Takes.mem_numbersOf test t⟩,
    fun tag which s => ⟨fun c => ⟨fun bad => ?_, fun k armed opened hk ha ho => ⟨fun noArm noOpen => ?_, fun named => ?_⟩⟩,
      fun c => ⟨fun bad => ?_, fun k opened hk ho => ⟨fun noOpen => ?_, fun named => ?_⟩⟩⟩,
    fun i e cause s freed here => ⟨fun opened => ⟨freeArmed_open here cause opened, flagEntry_open here opened⟩,
      flagEntry_armed here, ?_, ?_⟩,
    fun n now s => ⟨fun e d here armed limit due => ?_, fun none_due => ?_⟩,
    fun snap old new s => ⟨rfl, rfl, rfl, fun cls other => if_pos ⟨rfl, other⟩, fun a b stays => if_neg ?_,
      fun step0 still => takesAdvance_still still s, fun ahead play => takesAdvance_forward ahead play s⟩,
    ?_, fun old new s i e here => ⟨openCrossed_opens here, openCrossed_leaves here, completeReached_closes here,
      completeReached_leaves here, fun st pos told opened ht => ?_⟩⟩
  · exact execDisarm_answers c (disarmPerform_range bad)
  · exact execDisarm_answers c (disarmPerform_state (s := s.taken) hk ha ho noArm noOpen)
  · exact execDisarm_answers c (disarmPerform_frees (s := s.taken) hk ha ho named)
  · exact execAbortTake_answers c (abortTakePerform_range bad)
  · exact execAbortTake_answers c (abortTakePerform_state (s := s.taken) hk ho noOpen)
  · exact ⟨_, List.length_iterate .., takeNumbers_head? (mt List.length_eq_zero_iff.mp named),
      fun j a b => takeNumbers_follow, execAbortTake_answers c (abortTakePerform_closes (s := s.taken) hk ho named)⟩
  · rintro armed rfl h
    exact freeArmed_armed here .disarm armed h
  · rintro why armed rfl h
    exact freeArmed_armed here (.lapse why) armed h
  · exact congrArg Host.Outcome.next (expireArm_due (s := elapseTo now s) here armed limit due)
  · exact congrArg Host.Outcome.next (expireArm_idle (s := elapseTo now s) none_due)
  · rintro ⟨rfl, other⟩
    exact stays.elim (fun no => no rfl) other
  · rintro st pos s t entries rfl
    exact ⟨closeAllOpen_openCount st pos entries, closeAllOpen_records st pos entries,
      fun calm i e => closeAllOpen_entry st pos entries calm⟩
  · have closes := closeEntry_told ((Takes.openAt_of_get here).trans (if_pos opened)) ht
    refine ⟨fun host => closes.trans (congrArg testSafePoint (if_neg ?_)),
      fun pass => closes.trans (congrArg testSafePoint (if_pos pass))⟩
    simp [host]

end Sys2Proof.Machine
end

section
/-! SET_CHANNEL (04 R61 to R70): its settings field by field, and what a change of them does to the channel's map, schedule and
outputs. -/

namespace Sys2Proof.Machine

/-! ### The fields (04 R61, R65) -/

/-- A number field of a request: the value it carries, its range, and the setting it replaces. -/
abbrev NumberItem := Option Nat × Nat × Nat × Nat

/-- The setting that a number field leaves, and whether its value was clamped. -/
def NumberItem.clamped : NumberItem → Nat × Bool
  | (v, lo, hi, was) => clampField lo hi was v

theorem NumberItem.clamped_adjusted_iff (f : NumberItem) :
    f.clamped.2 = true ↔ ∃ a lo hi was : Nat, f = (some a, lo, hi, was) ∧ (a < lo ∨ hi < a) := by
  obtain ⟨v, lo, hi, was⟩ := f
  cases v <;> simp [NumberItem.clamped, clampField, clampTo]

/-- The six numbers of a SET_CHANNEL, as the channel's settings stand before it. -/
def ChannelSettings.numberFields (x : ChannelItems) (old : ChannelSettings) : List NumberItem :=
  [(x.textLead.map BitVec.toNat, 0, 250, old.textLead), (x.lane.map BitVec.toNat, 0, 7, old.lane),
    (x.colour.map BitVec.toNat, 0, 7, old.colour), (x.pitch.map BitVec.toNat, 300, 3000, old.pitch),
    (x.level.map BitVec.toNat, 0, 15, old.level), (x.beepLength.map BitVec.toNat, 20, 400, old.beepLength)]

/-- The six settings that are numbers, in the order of the fields. -/
def ChannelSettings.numbers (s : ChannelSettings) : List Nat :=
  [s.textLead, s.lane, s.colour, s.pitch, s.level, s.beepLength]

theorem ChannelSettings.update_eq_none_iff (x : ChannelItems) (old : ChannelSettings) :
    old.update x = none ↔ ∃ b : Byte, (x.enabled = some b ∨ x.toneMode = some b) ∧ 1 < b.toNat := by
  have flags : (∃ b : Byte, (x.enabled = some b ∨ x.toneMode = some b) ∧ 1 < b.toNat) ↔
      testField yesNo x.enabled = none ∨ testField yesNo x.toneMode = none := by
    simp only [testField_eq_none_iff, yesNo_eq_none_iff, or_and_right, exists_or]
  rw [flags]
  unfold ChannelSettings.update
  cases testField yesNo x.enabled with
  | none => simp
  | some enabled => cases testField yesNo x.toneMode <;> simp

section
variable {x : ChannelItems} {old new : ChannelSettings} {adj : Bool} (h : old.update x = some (new, adj))
include h

/-- The fields of a SET_CHANNEL that passed its tests: two flags, two filters, six numbers. -/
theorem ChannelSettings.update_eq_some :
    (∃ enabled steady : Option Bool,
        testField yesNo x.enabled = some enabled ∧ new.enabled = enabled.getD old.enabled
          ∧ testField yesNo x.toneMode = some steady ∧ new.steady = steady.getD old.steady)
      ∧ new.filterTag = x.filterTag.getD old.filterTag ∧ new.filterMask = x.filterMask.getD old.filterMask
      ∧ new.numbers = (old.numberFields x).map (fun f => f.clamped.1)
      ∧ adj = (old.numberFields x).any fun f => f.clamped.2 := by
  unfold ChannelSettings.update at h
  split at h
  · rename_i enabled steady he hs
    cases h
    refine ⟨⟨enabled, steady, he, rfl, hs, rfl⟩, rfl, rfl, rfl, ?_⟩
    simp [ChannelSettings.numberFields, NumberItem.clamped, Bool.or_assoc]
  · cases h

/-- Each number that is present replaces its setting, held to its range, and an absent one keeps it. -/
theorem ChannelSettings.update_number {i lo hi was : Nat} {v : Option Nat}
    (field : (old.numberFields x)[i]? = some (v, lo, hi, was)) :
    new.numbers[i]? = some (v.elim was fun a => max lo (min a hi)) := by
  obtain ⟨-, -, -, numbers, -⟩ := ChannelSettings.update_eq_some h
  rw [numbers, List.getElem?_map, field]
  cases v <;> rfl

theorem ChannelSettings.update_adjusted_iff :
    adj = true ↔ ∃ a lo hi was : Nat, (some a, lo, hi, was) ∈ old.numberFields x ∧ (a < lo ∨ hi < a) := by
  obtain ⟨-, -, -, -, rfl⟩ := ChannelSettings.update_eq_some h
  simp only [List.any_eq_true, NumberItem.clamped_adjusted_iff]
  constructor
  · rintro ⟨_, hf, a, lo, hi, was, rfl, out⟩
    exact ⟨a, lo, hi, was, hf, out⟩
  · rintro ⟨a, lo, hi, was, hf, out⟩
    exact ⟨_, hf, a, lo, hi, was, rfl, out⟩

end

/-! ### Expansion keeps what does not wait (05 R76) -/

/-- Queueing a cue leaves the map entries of other keys. -/
theorem Channel.mem_queueCue_map {q : Cue} {c : Channel} {m : MapEntry} (hm : m ∈ c.map) (other : q.key ≠ m.key) :
    m ∈ (c.queueCue q).map :=
  List.mem_map.mpr ⟨m, hm, if_neg other.symm⟩

theorem Channel.mem_takeIn_map {xs : List Candidate} {c : Channel} {m : MapEntry} (hm : m ∈ c.map)
    (other : ∀ x ∈ xs, x.cue.key ≠ m.key) : m ∈ (Channel.takeIn xs c).map := by
  induction xs generalizing c with
  | nil => exact hm
  | cons x xs ih =>
    obtain ⟨first, rest⟩ := List.forall_mem_cons.mp other
    unfold Channel.takeIn
    split
    · exact ih (Channel.mem_queueCue_map hm first) rest
    · exact hm

/-- Cues taken in only add to the schedule. -/
theorem Channel.mem_takeIn_schedule {e : Entry} (xs : List Candidate) {c : Channel} (he : e ∈ c.schedule) :
    e ∈ (Channel.takeIn xs c).schedule := by
  induction xs generalizing c with
  | nil => exact he
  | cons x xs ih =>
    unfold Channel.takeIn
    split
    · exact ih ((placeEntries_perm _ _).mem_iff.mpr (List.mem_append_left _ he))
    · exact he

/-- An expansion leaves the map entry of a key that no WAITING entry has. -/
theorem Channel.mem_expand_map (env : ChannelEnv) (p : Nat) {c : Channel} {m : MapEntry} (hm : m ∈ c.map)
    (settled : ∀ w ∈ c.map, w.status = .waiting → w.key ≠ m.key) : m ∈ (c.expand env p).map := by
  refine Channel.mem_takeIn_map hm fun x hx => ?_
  obtain ⟨-, ⟨w, hw, key, waiting⟩, -⟩ := (mem_candidates env p c x).mp hx
  exact key ▸ settled w hw waiting

/-! ### What a change of settings does to a channel (04 R66 to R70) -/

theorem Channel.acceptsTag_iff (tag : Half) (c : Channel) :
    c.acceptsTag tag = true ↔ tag &&& c.settings.filterMask = c.settings.filterTag &&& c.settings.filterMask :=
  decide_eq_true_iff

theorem ChannelSettings.rederives_iff (a b : ChannelSettings) :
    a.rederives b = true ↔ a.filterTag ≠ b.filterTag ∨ a.filterMask ≠ b.filterMask ∨ a.textLead ≠ b.textLead := by
  simp [ChannelSettings.rederives, or_assoc]

/-- Fresh statuses are WAITING or PASSED. -/
theorem freshEntry_not_active (q : Cue) (textLead p : Nat) : (freshEntry q textLead p).status ≠ .active := by
  unfold freshEntry classified
  dsimp only
  split <;> simp

theorem Channel.changeToneMode_others (old : ChannelSettings) (d : Channel) :
    (d.changeToneMode old).map = d.map ∧ (d.changeToneMode old).schedule = d.schedule
      ∧ (d.changeToneMode old).lamps = d.lamps ∧ (d.changeToneMode old).overlay = d.overlay := by
  unfold Channel.changeToneMode
  split <;> exact ⟨rfl, rfl, rfl, rfl⟩

/-- A change of tone mode empties the tone unit (06 R99). -/
theorem Channel.changeToneMode_eq {old new : ChannelSettings} {d : Channel} (h : d.settings = new) :
    d.changeToneMode old = { d with tone := if old.steady = new.steady then d.tone else Tone.idle } := by
  subst h
  unfold Channel.changeToneMode
  split <;> rfl

/-- The map's ACTIVE cues. -/
def Channel.activeEntries (c : Channel) : List MapEntry := c.map.filter fun m => decide (m.status = .active)

/-- A channel rebuild before its expansion: the ACTIVE cues with their entries, and a fresh status for every other cue that is
accepted (04 R66). -/
def Channel.rederived (env : ChannelEnv) (p : Nat) (c : Channel) : Channel :=
  { c with
    map :=
      c.activeEntries
        ++ ((env.cues.filter fun q => c.acceptsTag q.tag).filter fun q =>
              decide (q.key ∉ c.activeEntries.map MapEntry.key)).map fun q => freshEntry q c.settings.textLead p,
    schedule := c.schedule.filter fun e => decide (e.key ∈ c.activeEntries.map MapEntry.key) }

theorem any_key_eq (l : List MapEntry) (k : Key) :
    (l.any fun m => decide (m.key = k)) = decide (k ∈ l.map MapEntry.key) := by
  rw [Bool.eq_iff_iff]
  simp

theorem Channel.rederive_eq (env : ChannelEnv) (p : Nat) (c : Channel) :
    c.rederive env p = (c.rederived env p).expand env p := by
  simp only [Channel.rederive, Channel.rederived, any_key_eq, Channel.freshMap, List.filter_map, Function.comp_def,
    ← decide_not]
  rfl

section
variable {env : ChannelEnv} {p : Nat} {c : Channel}

/-- The keys of the ACTIVE cues stand in the rebuilt map with no other status. -/
theorem Channel.rederived_active {m w : MapEntry} (hm : m ∈ c.activeEntries) (hw : w ∈ (c.rederived env p).map)
    (same : w.key = m.key) : w.status = .active := by
  rcases List.mem_append.mp hw with kept | fresh
  · exact of_decide_eq_true (List.mem_filter.mp kept).2
  · obtain ⟨q, hq, rfl⟩ := List.mem_map.mp fresh
    have apart : q.key ∉ c.activeEntries.map MapEntry.key := of_decide_eq_true (List.mem_filter.mp hq).2
    exact absurd (List.mem_map.mpr ⟨m, hm, same.symm⟩) apart

theorem Channel.rederive_keeps_active {m : MapEntry} (hm : m ∈ c.activeEntries) : m ∈ (c.rederive env p).map := by
  rw [Channel.rederive_eq]
  refine Channel.mem_expand_map env p (List.mem_append_left _ hm) fun w hw waiting same => ?_
  have active := Channel.rederived_active hm hw same
  simp [waiting] at active

theorem Channel.rederive_keeps_entries {e : Entry} (he : e ∈ c.schedule)
    (kept : e.key ∈ c.activeEntries.map MapEntry.key) : e ∈ (c.rederive env p).schedule := by
  rw [Channel.rederive_eq]
  exact Channel.mem_takeIn_schedule _ (List.mem_filter.mpr ⟨he, decide_eq_true kept⟩)

/-- A channel rebuild makes no cue ACTIVE. -/
theorem Channel.active_of_rederive {m : MapEntry} (hm : m ∈ (c.rederive env p).map) (active : m.status = .active) :
    m ∈ c.activeEntries := by
  obtain ⟨map, schedule, eq, -, statuses⟩ :=
    Channel.takeIn_eq ((c.rederived env p).candidates env p) (c.rederived env p)
  rw [Channel.rederive_eq, Channel.expand, eq] at hm
  rcases statuses m hm with queued | before
  · simp [queued] at active
  · rcases List.mem_append.mp before with kept | fresh
    · exact kept
    · obtain ⟨q, -, rfl⟩ := List.mem_map.mp fresh
      exact absurd active (freshEntry_not_active q _ p)

end

/-- A channel rebuild leaves the settings, the lamps and the overlay. -/
theorem Channel.rederive_leaves (env : ChannelEnv) (p : Nat) (c : Channel) :
    (c.rederive env p).settings = c.settings ∧ (c.rederive env p).lamps = c.lamps
      ∧ (c.rederive env p).overlay = c.overlay := by
  obtain ⟨map, schedule, eq, -⟩ := Channel.takeIn_eq ((c.rederived env p).candidates env p) (c.rederived env p)
  rw [Channel.rederive_eq, Channel.expand, eq]
  exact ⟨rfl, rfl, rfl⟩

theorem Channel.expand_keys (env : ChannelEnv) (p : Nat) (c : Channel) :
    (c.expand env p).map.map MapEntry.key = c.map.map MapEntry.key := by
  obtain ⟨map, schedule, eq, keys, -⟩ := Channel.takeIn_eq (c.candidates env p) c
  rw [Channel.expand, eq]
  exact keys

theorem Channel.activeCount_eq (c : Channel) : c.activeCount = c.activeEntries.length := List.countP_eq_length_filter ..

/-- A disabled channel is empty, its outputs are withdrawn, and each ACTIVE cue gives its notice (04 R69). -/
theorem Channel.disable_eq (env : ChannelEnv) (p : Nat) (c : Channel) :
    c.disable env p =
      ({ c.withdraw with map := [], schedule := [] },
        (keysWhere (fun m => m.status.isActive) c.map).map fun k => passedNotice env k .interrupted p) := by
  obtain ⟨notices, shape⟩ := c.interrupt_eq env p
  unfold Channel.disable
  dsimp only
  rw [notices, shape]
  rfl

section
variable {env : ChannelEnv} {p : Nat} {new : ChannelSettings} {c : Channel}

theorem Channel.changeSettings_enables (off : c.settings.enabled = false) (on : new.enabled = true) :
    c.changeSettings env p new =
      (((({ c with settings := new } : Channel).enable env p).changeToneMode c.settings, []), 0) := by
  simp [Channel.changeSettings, off, on]

theorem Channel.changeSettings_disables (on : c.settings.enabled = true) (off : new.enabled = false) :
    c.changeSettings env p new =
      (((({ c with settings := new } : Channel).disable env p).1.changeToneMode c.settings,
          (({ c with settings := new } : Channel).disable env p).2), 0) := by
  simp [Channel.changeSettings, off, on]

theorem Channel.changeSettings_rederives (was : c.settings.enabled = true) (on : new.enabled = true)
    (differs : c.settings.rederives new = true) :
    c.changeSettings env p new =
      (((({ c with settings := new } : Channel).rederive env p).changeToneMode c.settings, []),
        c.activeEntries.length) := by
  simp only [Channel.changeSettings, was, on, differs, Channel.activeCount_eq]
  rfl

/-- Any other change leaves map and schedule alone (04 R70). -/
theorem Channel.changeSettings_others (same : c.settings.enabled = new.enabled)
    (agrees : new.enabled = true → c.settings.rederives new = false) :
    c.changeSettings env p new = ((({ c with settings := new } : Channel).changeToneMode c.settings, []), 0) := by
  cases on : new.enabled with
  | false => simp [Channel.changeSettings, same, on]
  | true => simp [Channel.changeSettings, same, on, agrees on]

end

/-! ### The request -/

section
variable {tag ch : Byte} {x : ChannelItems} {s t : State} {body : List Byte} {c : Channel}

theorem setChannelPerform_noChannel (absent : s.channels[ch.toNat]? = none) :
    setChannelPerform ch x s = refuse .range s := by
  simp only [setChannelPerform, absent]

theorem setChannelPerform_badFlag (hc : s.channels[ch.toNat]? = some c) (bad : c.settings.update x = none) :
    setChannelPerform ch x s = refuse .range s := by
  simp only [setChannelPerform, hc, bad]

theorem setChannelPerform_sets {new : ChannelSettings} {adj : Bool} {d : Channel} {es : List Emit} {kept : Nat}
    (hc : s.channels[ch.toNat]? = some c) (good : c.settings.update x = some (new, adj))
    (changes : c.changeSettings (s.channelEnv ch.toNat) s.tracker.head new = ((d, es), kept)) :
    setChannelPerform ch x s =
      (emitAll es { s with channels := s.channels.set ch.toNat d },
        b1 (if 0 < kept then 2 else if adj then 1 else 0) ++ [ch] ++ new.item ++ b2 d.map.length
          ++ b1 d.schedule.length ++ b1 kept) := by
  have settings : d.settings = new := by
    simpa [changes] using Channel.changeSettings_settings (s.channelEnv ch.toNat) s.tracker.head new c
  have code : (if 0 < kept then ResultCode.deferred else okOr adj).item
      = b1 (if 0 < kept then 2 else if adj then 1 else 0) := by
    split
    · rfl
    · exact okOr_item adj
  simp only [setChannelPerform, hc, good, changes, settings, code]

theorem execSetChannel_answers (can : s.canTake (.setChannel tag ch x) = true)
    (p : setChannelPerform ch x s.taken = (t, body)) :
    exec (.setChannel tag ch x) s = .next (t.answered 0x8A tag body) :=
  request_answers (f := ⟨0x0A, tag, ch :: channelPayload x⟩) rfl can p

end

/-- Settles O39: the tests of the request, its fields one by one, then the four kinds of change. -/
theorem setChannelReplacesAndRederives : Obligations.SetChannelReplacesAndRederives := by
  refine ⟨fun tag ch x s can => ⟨fun absent => ?_,
      fun c hc => ⟨fun bad => ?_, fun new adj d es kept good changes => ?_⟩⟩,
    ?_, fun tag c a b => ⟨c.acceptsTag_iff tag, a.rederives_iff b⟩, ?_⟩
  · exact execSetChannel_answers can (setChannelPerform_noChannel (s := s.taken) absent)
  · exact execSetChannel_answers can (setChannelPerform_badFlag (s := s.taken) hc bad)
  · exact execSetChannel_answers can (setChannelPerform_sets (s := s.taken) hc good changes)
  · rintro x old _ rfl
    refine ⟨ChannelSettings.update_eq_none_iff x old, fun new adj h => ?_⟩
    obtain ⟨⟨enabled, steady, he, on, hs, mode⟩, filterTag, filterMask, -⟩ := ChannelSettings.update_eq_some h
    obtain ⟨onKept, onSet⟩ := editPunch_cases (old := old.enabled) he
    obtain ⟨modeKept, modeSet⟩ := editPunch_cases (old := old.steady) hs
    rw [on, mode, filterTag, filterMask]
    refine ⟨onKept, onSet, modeKept, modeSet, fun no => by rw [no]; rfl, fun v hv => by rw [hv]; rfl,
      fun no => by rw [no]; rfl, fun v hv => by rw [hv]; rfl, fun i lo hi was v field => ?_,
      ChannelSettings.update_adjusted_iff h⟩
    refine (ChannelSettings.update_number h field).trans ?_
    cases v <;> rfl
  · rintro env p new c d es kept toned fresh _ _ changes htoned hfresh rfl rfl
    obtain rfl : fresh = fun q => freshEntry q new.textLead p := funext hfresh
    have tone {u : Channel} (hu : u.settings = new) : u.changeToneMode c.settings = toned u :=
      (Channel.changeToneMode_eq hu).trans (htoned u).symm
    have settings : d.settings = new := by
      simpa [changes] using Channel.changeSettings_settings env p new c
    refine ⟨settings, fun off on => ?_, fun on off => ?_, fun was on differs => ?_, fun same agrees => ?_⟩
    · rw [Channel.changeSettings_enables off on, tone (Channel.expand_keeps ..).1] at changes
      cases changes
      refine ⟨?_, rfl, rfl, rfl⟩
      rw [htoned]
      exact (Channel.expand_keys ..).trans (Channel.freshMap_keys ..)
    · rw [Channel.changeSettings_disables on off, Channel.disable_eq, Channel.changeToneMode_eq rfl] at changes
      cases changes
      exact ⟨rfl, rfl, ite_self _, rfl, rfl, rfl, rfl⟩
    · obtain ⟨map, schedule, lamps, overlay⟩ :=
        (Channel.rederive env p { c with settings := new }).changeToneMode_others c.settings
      obtain ⟨took, lampsKept, overlayKept⟩ := Channel.rederive_leaves env p { c with settings := new }
      rw [Channel.changeSettings_rederives was on differs] at changes
      cases changes
      refine ⟨rfl, rfl, fun m hm => ?_, fun e he active => ?_, fun m hm => ?_, ?_, lamps.trans lampsKept,
        overlay.trans overlayKept⟩
      · exact map ▸ Channel.rederive_keeps_active (c := { c with settings := new }) hm
      · exact schedule ▸ Channel.rederive_keeps_entries (c := { c with settings := new }) he active
      · exact Channel.active_of_rederive (c := { c with settings := new }) (map ▸ hm)
      · exact (tone took).trans (congrArg toned (Channel.rederive_eq ..))
    · rw [Channel.changeSettings_others same agrees, tone rfl] at changes
      cases changes
      exact ⟨rfl, rfl, rfl⟩

end Sys2Proof.Machine
end

section
/-! The video input, the overlay lanes and the drawing (06 R105 to R113; 04 R70). -/

namespace Sys2Proof.Machine

/-! ### What a channel draws (06 R105, R110) -/

theorem Channel.draw_eq (p : Nat) (c : Channel) :
    c.draw p =
      (if 0 < c.overlay.punch then [.punch c.settings.lane] else [])
        ++ (c.overlay.streamer.toList.map fun x =>
          DrawItem.bar c.settings.lane (colourOf c.settings.colour) (barEdge p x.start x.length))
        ++ c.overlay.shown.toList.map fun t =>
          DrawItem.text c.settings.lane (colourOf c.settings.colour) (t.text.take 60) := by
  unfold Channel.draw
  cases c.overlay.streamer <;> cases c.overlay.shown <;> rfl

theorem Channel.holdsOverlay_iff (c : Channel) :
    c.holdsOverlay = true ↔ c.overlay.streamer ≠ none ∨ 0 < c.overlay.punch ∨ c.overlay.shown ≠ none := by
  simp only [Channel.holdsOverlay, Bool.or_eq_true, Option.isSome_iff_ne_none, decide_eq_true_eq, or_assoc]

/-- The passing of time moves the tone units alone, so the same is drawn (06 R97). -/
theorem elapseTo_draw (p : Nat) (now : Stamp) (s : State) :
    (elapseTo now s).channels.flatMap (Channel.draw p) = s.channels.flatMap (Channel.draw p) := by
  simp only [elapseTo, List.flatMap_map]
  rfl

theorem elapseTo_holdsOverlay (now : Stamp) (s : State) :
    (elapseTo now s).channels.any Channel.holdsOverlay = s.channels.any Channel.holdsOverlay := by
  simp only [elapseTo, List.any_map]
  rfl

/-! ### The video input (06 R106, R110, R113) -/

section
variable {now : Stamp} {s : State}

theorem execVideoFrameStart_draws (h : s.video.ahead = false ∨ s.video.lastStart ≠ now) :
    exec (.videoFrameStart now) s =
      .next
        { elapseTo now s with
          video :=
            { present := true, lastStart := now, drawing := s.channels.flatMap (Channel.draw s.tracker.head),
              ahead := false },
          channels := (elapseTo now s).channels.map Channel.lowerPunch } := by
  have first : ¬ (s.video.ahead = true ∧ s.video.lastStart = now) := by
    rintro ⟨ahead, same⟩
    rcases h with h | h
    · simp [ahead] at h
    · exact h same
  rw [← elapseTo_draw s.tracker.head now s]
  exact congrArg Host.Outcome.next (if_neg first)

theorem execVideoFrameStart_taken (ahead : s.video.ahead = true) (same : s.video.lastStart = now) :
    exec (.videoFrameStart now) s = .next { elapseTo now s with video := { s.video with ahead := false } } :=
  congrArg Host.Outcome.next (if_pos ⟨ahead, same⟩)

theorem Video.overdue_iff (v : Video) :
    v.overdue now = true ↔ v.present = true ∧ 100000 ≤ elapsed v.lastStart now := by
  simp [Video.overdue]

theorem execVideoLost_loses (present : s.video.present = true) (late : 100000 ≤ elapsed s.video.lastStart now) :
    exec (.videoLost now) s = .next (loseVideo (elapseTo now s)) :=
  congrArg Host.Outcome.next (if_pos ((Video.overdue_iff s.video).mpr ⟨present, late⟩))

theorem execVideoLost_early (h : s.video.present = false ∨ elapsed s.video.lastStart now < 100000) :
    exec (.videoLost now) s = .next (elapseTo now s) := by
  refine congrArg Host.Outcome.next (if_neg fun due => ?_)
  obtain ⟨present, late⟩ := (Video.overdue_iff s.video).mp due
  rcases h with absent | early
  · simp [absent] at present
  · omega

end

/-- The loss of video: its fault, then the flag, the drawing and the punches cleared (06 R106). -/
theorem loseVideo_eq (s : State) :
    loseVideo s =
      { recordVideoLost s with
        video := { s.video with present := false, drawing := [] },
        channels := s.channels.map fun c => { c with overlay := { c.overlay with punch := 0 } } } := by
  simp [loseVideo, clearPicture, recordVideoLost]

/-! ### Events at a lane (06 R108, R109) -/

section
variable {present : Bool} {e : FiredEvent} {copy : CueCopy} (o : Overlay) (he : e.copy = some copy)
include he

theorem Overlay.take_streamerStart (k : e.kind = .streamerStart) :
    o.take present e = { o with streamer := some { start := e.point, length := copy.streamer, key := e.key } } := by
  simp only [Overlay.take, k, he]

theorem Overlay.take_lineIn (k : e.kind = .lineIn) :
    o.take present e =
      { o with
        streamer := if o.streamer.map Streamer.key = some e.key then none else o.streamer,
        punch := if copy.punch = true ∧ present = true then 2 else o.punch } := by
  simp only [Overlay.take, k, he, Bool.and_eq_true]
  congr 1
  cases o.streamer <;> simp [Option.filter]

theorem Overlay.take_textShow {text : List Byte} (k : e.kind = .textShow) (ht : copy.text = some text) :
    o.take present e = { o with shown := some { text, key := e.key } } := by
  simp only [Overlay.take, k, he, ht]

end

theorem Overlay.take_textClear (present : Bool) {e : FiredEvent} (o : Overlay) (k : e.kind = .textClear) :
    o.take present e = { o with shown := if o.shown.map ShownText.key = some e.key then none else o.shown } := by
  simp only [Overlay.take, k]
  congr 1
  cases o.shown <;> simp [Option.filter]

theorem Overlay.take_other (present : Bool) {e : FiredEvent} (o : Overlay) {n : Nat}
    (k : e.kind = .lineOut ∨ e.kind = .beep n) : o.take present e = o := by
  rcases k with k | k <;> simp only [Overlay.take, k]

/-! ### Painting (06 R105, R112; 04 R70) -/

/-- A later item is painted over the earlier ones. -/
theorem colourAt_append (drawing : List DrawItem) (item : DrawItem) (line pixel : Nat) :
    colourAt (drawing ++ [item]) line pixel =
      if item.covers line pixel then some item.colour else colourAt drawing line pixel := by
  simp only [colourAt, topItem, List.reverse_append, List.reverse_singleton, List.singleton_append, List.find?_cons]
  cases item.covers line pixel <;> rfl

/-- The colour codes name the eight colours in their order (04 R70). -/
theorem colourOf_code {code : Nat} (h : code ≤ 7) :
    [Colour.white, .yellow, .cyan, .green, .magenta, .red, .blue, .orange][code]? = some (colourOf code) := by
  interval_cases code <;> rfl

theorem punch_covers_iff (lane line pixel : Nat) :
    (DrawItem.punch lane).covers line pixel = true ↔ 135 * lane ≤ line ∧ line < 135 * lane + 135 ∧ pixel < 1920 := by
  simp only [DrawItem.covers, Bool.and_eq_true, decide_eq_true_eq, and_assoc]
  rfl

theorem text_covers_iff (lane line pixel : Nat) (colour : Colour) (chars : List Byte) :
    (DrawItem.text lane colour chars).covers line pixel = true ↔
      135 * lane + 108 ≤ line ∧ line < 135 * lane + 135 ∧ pixel < 32 * chars.length := by
  simp only [DrawItem.covers, Bool.and_eq_true, decide_eq_true_eq, and_assoc]
  rfl

/-- Settles O35: the two events of the video input, what an event makes of a lane, and what is drawn of it in which colour. -/
theorem videoEventsDrawAndClear : Obligations.VideoEventsDrawAndClear := by
  refine ⟨fun now s => ⟨execVideoFrameStart_draws, execVideoFrameStart_taken, ?_, execVideoLost_early⟩,
    fun present e o copy he => ⟨o.take_streamerStart he, o.take_lineIn he, fun text => o.take_textShow he,
      o.take_textClear present, fun k => o.take_other present⟩,
    Channel.holdsOverlay_iff, Channel.draw_eq, fun code => colourOf_code,
    fun drawing item line pixel => ⟨rfl, colourAt_append drawing item line pixel⟩,
    fun lane line pixel x colour chars => ⟨rfl, rfl, rfl, punch_covers_iff lane line pixel,
      text_covers_iff lane line pixel colour chars⟩⟩
  rintro present late x rfl
  rw [execVideoLost_loses present late, loseVideo_eq, recordVideoLost, elapseTo_holdsOverlay]
  rfl

end Sys2Proof.Machine
end

section
/-! SET_SCHEDULE, SET_TAKE_TIMING and SET_PASS_TIMING (05 R75, R76; 07 R117; 09 R153). -/

namespace Sys2Proof.Machine

/-! ### Clamped numbers -/

/-- A present number within its range is stored, one outside it becomes the nearer end. -/
theorem clampField_present {lo hi : Nat} (h : lo ≤ hi) (old v : Nat) :
    clampField lo hi old (some v) = if v < lo then (lo, true) else if hi < v then (hi, true) else (v, false) := by
  simp only [clampField, clampTo]
  split
  case isTrue below => simp [below, show min v hi ≤ lo by omega]
  case isFalse reaches =>
    split
    case isTrue above => simp [above, h, show hi ≤ v by omega]
    case isFalse fits => simp [reaches, fits, show min v hi = v by omega, show lo ≤ v by omega]

/-! ### A changed window at a channel (05 R76) -/

section
variable {s : State} {n : Nat} {c : Channel}

theorem expandChannel_absent (beyond : s.channels.length ≤ n) : expandChannel s n = s := by
  simp only [expandChannel, onChannel, List.getElem?_eq_none beyond]

theorem expandChannel_disabled (hc : s.channels[n]? = some c) (off : c.settings.enabled = false) :
    expandChannel s n = s := by
  simp only [expandChannel, onChannel, hc, off, Bool.false_eq_true, if_false, set_same hc]
  rfl

theorem expandChannel_enabled (hc : s.channels[n]? = some c) (on : c.settings.enabled = true) :
    expandChannel s n =
      { s with channels := s.channels.set n (c.expand (s.channelEnv n) s.tracker.head) } := by
  simp only [expandChannel, onChannel, hc, on, if_true]
  rfl

end

/-! ### The requests -/

section
variable {tag : Byte} {s : State} {a b c : Nat} {i j k : Bool}

theorem setSchedulePerform_same {v : Option Half} {adj : Bool}
    (clamped : clampField 50 900 s.window (v.map BitVec.toNat) = (a, adj)) (same : a = s.window) :
    setSchedulePerform v s = (s, b1 (if adj then 1 else 0) ++ b2 a) := by
  subst same
  simp only [setSchedulePerform, clamped, if_true, okOr_item]

theorem setSchedulePerform_changes {v : Option Half} {adj : Bool}
    (clamped : clampField 50 900 s.window (v.map BitVec.toNat) = (a, adj)) (differs : a ≠ s.window) :
    setSchedulePerform v s =
      ((List.range 8).foldl expandChannel { s with window := a }, b1 (if adj then 1 else 0) ++ b2 a) := by
  simp only [setSchedulePerform, clamped, if_neg differs, okOr_item]

theorem execSetSchedule_answers {v : Option Half} {t : State} {body : List Byte}
    (can : s.canTake (.setSchedule tag v) = true) (p : setSchedulePerform v s.taken = (t, body)) :
    exec (.setSchedule tag v) s = .next (t.answered 0x89 tag body) :=
  request_answers (f := ⟨0x09, tag, opt half v⟩) rfl can p

theorem execSetTakeTiming_sets {x : TakeTimingItems} (can : s.canTake (.setTakeTiming tag x) = true)
    (lead : clampField 0 50 s.takes.punchLead (x.punchLead.map BitVec.toNat) = (a, i))
    (tail : clampField 0 100 s.takes.punchTail (x.punchTail.map BitVec.toNat) = (b, j))
    (window : clampField 5 600 s.takes.armWindow (x.armWindow.map BitVec.toNat) = (c, k)) :
    exec (.setTakeTiming tag x) s =
      .next
        ({ s.taken with takes := { s.takes with punchLead := a, punchTail := b, armWindow := c } }.answered 0x8B tag
          (b1 (if i || j || k then 1 else 0) ++ b1 a ++ b1 b ++ b2 c)) := by
  refine (request_taken (setTakeTimingPerform x) rfl can).trans ?_
  simp only [setTakeTimingPerform, taken_takes, lead, tail, window, okOr_item]
  rfl

theorem execSetPassTiming_sets {x : PassTimingItems} (can : s.canTake (.setPassTiming tag x) = true)
    (pre : clampField 0 1500 s.pass.preroll (x.preroll.map BitVec.toNat) = (a, i))
    (post : clampField 0 750 s.pass.postroll (x.postroll.map BitVec.toNat) = (b, j))
    (limit : clampField 5 120 s.pass.locateTimeout (x.locateTimeout.map BitVec.toNat) = (c, k)) :
    exec (.setPassTiming tag x) s =
      .next
        ({ s.taken with pass := { s.pass with preroll := a, postroll := b, locateTimeout := c } }.answered 0x8C tag
          (b1 (if i || j || k then 1 else 0) ++ b2 a ++ b2 b ++ b1 c)) := by
  refine (request_taken (setPassTimingPerform x) rfl can).trans ?_
  simp only [setPassTimingPerform, taken_pass, pre, post, limit, okOr_item]
  rfl

end

/-- Settles O38: the clamp of one number, the channels at a changed window, and the three requests. -/
theorem numberSettingsAreClamped : Obligations.NumberSettingsAreClamped := by
  refine ⟨fun lo hi old => ⟨rfl, fun v h => clampField_present h old v⟩,
    fun tag v s w adj can clamped => ⟨fun same => ?_, fun differs => ?_⟩,
    fun s n => ⟨expandChannel_absent, fun c hc => ⟨expandChannel_disabled hc, expandChannel_enabled hc⟩⟩,
    fun tag x s a b c i j k => execSetTakeTiming_sets, fun tag x s a b c i j k => execSetPassTiming_sets⟩
  · exact execSetSchedule_answers can (setSchedulePerform_same (s := s.taken) clamped same)
  · exact execSetSchedule_answers can (setSchedulePerform_changes (s := s.taken) clamped differs)

end Sys2Proof.Machine
end

section
/-! A cue's events and its earliest point, and the order in which entries stand in a schedule (05 R73, R74; 03 R40). -/

namespace Sys2Proof.Machine

/-! ### The events of a cue (05 R73) -/

/-- BEEP k of n stands n − k + 1 intervals ahead of the in point. -/
theorem mem_beepPoints (inPt n interval : Nat) (kind : EventKind) (point : Nat) :
    (kind, point) ∈ beepPoints inPt n interval ↔
      ∃ k : Nat, kind = .beep k ∧ 1 ≤ k ∧ k ≤ n ∧ point = inPt - (n - k + 1) * interval * 100 := by
  simp only [beepPoints, List.mem_map, List.mem_range, Prod.mk.injEq]
  constructor
  · rintro ⟨i, inside, rfl, rfl⟩
    exact ⟨i + 1, rfl, by omega, by omega, by rw [show n - (i + 1) + 1 = n - i by omega]⟩
  · rintro ⟨k, rfl, first, last, rfl⟩
    exact ⟨k - 1, by omega, by rw [Nat.sub_add_cancel first], by rw [show n - (k - 1) = n - k + 1 by omega]⟩

theorem beepPoints_kinds (inPt n interval : Nat) :
    (beepPoints inPt n interval).map Prod.fst = (List.range n).map fun i => EventKind.beep (i + 1) :=
  List.map_map ..

theorem mem_eventPoints (q : Cue) (lead : Nat) (kind : EventKind) (point : Nat) :
    (kind, point) ∈ eventPoints q lead ↔
      (kind = .textShow ∧ q.text ≠ none ∧ point = q.inPt - lead * 100)
        ∨ (kind = .streamerStart ∧ 0 < q.streamer ∧ point = q.inPt - q.streamer * 100)
        ∨ (∃ k : Nat, kind = .beep k ∧ 1 ≤ k ∧ k ≤ q.beeps
          ∧ point = q.inPt - (q.beeps - k + 1) * q.interval * 100)
        ∨ (kind = .lineIn ∧ point = q.inPt) ∨ (kind = .textClear ∧ q.text ≠ none ∧ point = q.outPt)
        ∨ (kind = .lineOut ∧ point = q.outPt) := by
  simp only [eventPoints, List.mem_append, mem_beepPoints, List.mem_ite_nil_right, List.mem_singleton, Prod.mk.injEq,
    Option.isSome_iff_ne_none, or_assoc, and_left_comm]

/-- No kind of event stands twice in a cue; each BEEP is told by its index. -/
theorem eventPoints_kinds_nodup (q : Cue) (lead : Nat) : ((eventPoints q lead).map Prod.fst).Nodup := by
  have beeps : ((List.range q.beeps).map fun i => EventKind.beep (i + 1)).Nodup :=
    List.nodup_range.map fun i j same => by simpa using same
  simp only [eventPoints, List.map_append, beepPoints_kinds, List.map_cons, List.map_nil]
  by_cases text : q.text.isSome <;> by_cases streamer : 0 < q.streamer <;> simp [List.nodup_append, text, streamer, beeps]

/-! ### The earliest point (05 R73) -/

theorem le_leastPoint_iff (n first : Nat) (points : List Nat) :
    n ≤ leastPoint first points ↔ n ≤ first ∧ ∀ x ∈ points, n ≤ x := by
  unfold leastPoint
  induction points generalizing first with
  | nil => simp
  | cons x points ih => simp only [List.foldl_cons, ih, le_min_iff, List.forall_mem_cons, and_assoc]

theorem leastPoint_mem (first : Nat) (points : List Nat) : leastPoint first points ∈ first :: points := by
  unfold leastPoint
  induction points generalizing first with
  | nil => simp
  | cons x points ih =>
    rw [List.foldl_cons]
    rcases List.mem_cons.mp (ih (min first x)) with least | later
    · rw [least]
      rcases min_choice first x with h | h <;> simp [h]
    · exact List.mem_cons_of_mem _ (List.mem_cons_of_mem _ later)

/-- The earliest point is that of one of the events: the least of all, where LINE_IN's is the in point. -/
theorem earliestPoint_mem (q : Cue) (lead : Nat) : earliestPoint q lead ∈ (eventPoints q lead).map Prod.snd := by
  rcases List.mem_cons.mp (leastPoint_mem q.inPt ((eventPoints q lead).map Prod.snd)) with least | mem
  · have lineIn : (EventKind.lineIn, q.inPt) ∈ eventPoints q lead := by simp [mem_eventPoints]
    exact List.mem_map.mpr ⟨_, lineIn, least.symm⟩
  · exact mem

theorem earliestPoint_le {q : Cue} {lead : Nat} {x : EventKind × Nat} (hx : x ∈ eventPoints q lead) :
    earliestPoint q lead ≤ x.2 :=
  ((le_leastPoint_iff _ _ _).mp le_rfl).2 _ (List.mem_map_of_mem hx)

/-! ### Schedule order (05 R74) -/

theorem suffixCode_lt_iff (a b : Key) :
    a.suffixCode < b.suffixCode ↔ ∃ y : Fin 26, b.suffix = some y ∧ ∀ x : Fin 26, a.suffix = some x → x < y := by
  unfold Key.suffixCode
  cases a.suffix <;> cases b.suffix <;> simp

/-- Keys stand by number, then by suffix, none before A (03 R40). -/
theorem Key.before_iff (a b : Key) :
    a.before b = true ↔
      a.num < b.num
        ∨ (a.num = b.num ∧ ∃ y : Fin 26, b.suffix = some y ∧ ∀ x : Fin 26, a.suffix = some x → x < y) := by
  simp only [Key.before, Bool.or_eq_true, Bool.and_eq_true, decide_eq_true_eq, suffixCode_lt_iff]

theorem Key.not_before_self (k : Key) : k.before k = false := by
  simp [Key.before]

/-- Among events of one kind only BEEPs are told apart, by their index. -/
theorem beepIndex_lt_iff {a b : EventKind} (same : a.rank = b.rank) :
    a.beepIndex < b.beepIndex ↔ ∃ i j : Nat, a = .beep i ∧ b = .beep j ∧ i < j := by
  cases a <;> cases b <;> simp [EventKind.beepIndex, EventKind.rank] at same ⊢

/-- Schedule order: point, kind, in point, key, then BEEP index (05 R74). -/
theorem Entry.before_iff_byKey (a b : Entry) :
    a.before b = true ↔
      a.point < b.point
        ∨ (a.point = b.point
          ∧ (a.kind.rank < b.kind.rank
            ∨ (a.kind.rank = b.kind.rank
              ∧ (a.cueIn < b.cueIn
                ∨ (a.cueIn = b.cueIn
                  ∧ (a.key.before b.key = true
                    ∨ (a.key = b.key ∧ ∃ i j : Nat, a.kind = .beep i ∧ b.kind = .beep j ∧ i < j))))))) := by
  rw [Entry.before]
  split
  case isTrue points =>
    simp only [decide_eq_true_eq, points, false_and, or_false]
  case isFalse points =>
    have points := not_not.mp points
    simp only [points, lt_irrefl, false_or, true_and]
    split
    case isTrue kinds => simp only [decide_eq_true_eq, kinds, false_and, or_false]
    case isFalse kinds =>
      have kinds := not_not.mp kinds
      rw [← beepIndex_lt_iff kinds]
      simp only [kinds, lt_irrefl, false_or, true_and]
      split
      case isTrue ins => simp only [decide_eq_true_eq, ins, false_and, or_false]
      case isFalse ins =>
        simp only [not_not.mp ins, lt_irrefl, false_or, true_and]
        split
        case isTrue keys => simp only [keys, false_and, or_false]
        case isFalse keys =>
          simp only [not_not.mp keys, Key.not_before_self, Bool.false_eq_true, false_or, true_and, decide_eq_true_eq]

end Sys2Proof.Machine
end

section
/-! An entry that fires, and the settled firing of an advance (05 R79, R80, R92; 04 R67). -/

namespace Sys2Proof.Machine

/-! ### One entry (05 R79) -/

/-- The event that the three outputs are handed when an entry of a cue fires. -/
def Entry.fired (m : MapEntry) (e : Entry) : FiredEvent :=
  { kind := e.kind, key := e.key, first := decide (m.status = .queued), point := e.point, copy := m.copy }

/-- A channel whose outputs have been handed an entry that has left the schedule, the cue's status not yet changed. -/
def Channel.handed (env : ChannelEnv) (e : Entry) (m : MapEntry) (c : Channel) : Channel :=
  ({ c with schedule := c.schedule.erase e } : Channel).present env.present env.now (e.fired m)

section
variable {env : ChannelEnv} {p : Nat} {e : Entry} {m : MapEntry} {c : Channel}

theorem Channel.fire_unknown (absent : c.entryOf e.key = none) :
    c.fire env p e = ({ c with schedule := c.schedule.erase e }, []) := by
  simp only [Channel.fire, absent]

theorem Channel.fire_known (known : c.entryOf e.key = some m) (notLast : e.kind ≠ .lineOut) :
    c.fire env p e = ({ c.handed env e m with map := setStatus e.key .active m.copy c.map }, lineNotice env e p) := by
  simp only [Channel.fire, known]
  cases kind : e.kind
  case lineOut => exact absurd kind notLast
  all_goals simp only [Channel.handed, Entry.fired, kind]; rfl

theorem Channel.fire_lineOut (known : c.entryOf e.key = some m) (last : e.kind = .lineOut) :
    c.fire env p e =
      (({ c.handed env e m with map := setStatus e.key .done none c.map } : Channel).settleMembership env.cues e.key,
        lineNotice env e p) := by
  simp only [Channel.fire, known, Channel.handed, Entry.fired, last]
  rfl

/-- A cue done that the channel still accepts stays in the map as DONE. -/
theorem Channel.fire_lineOut_accepted (known : c.entryOf e.key = some m) (last : e.kind = .lineOut)
    (acc : c.acceptsKey env.cues e.key = true) :
    c.fire env p e = ({ c.handed env e m with map := setStatus e.key .done none c.map }, lineNotice env e p) := by
  rw [Channel.fire_lineOut known last]
  exact congrArg (·, lineNotice env e p) (if_pos acc)

theorem dropStatus_setStatus (k : Key) (st : CueStatus) (copy : Option CueCopy) (map : List MapEntry) :
    dropStatus k (setStatus k st copy map) = dropStatus k map := by
  unfold dropStatus setStatus
  induction map with
  | nil => rfl
  | cons x map ih => by_cases h : x.key = k <;> simpa [h] using ih

/-- A cue done that the channel no longer accepts leaves the map (04 R67). -/
theorem Channel.fire_lineOut_unaccepted (known : c.entryOf e.key = some m) (last : e.kind = .lineOut)
    (no : c.acceptsKey env.cues e.key = false) :
    c.fire env p e = ({ c.handed env e m with map := dropStatus e.key c.map }, lineNotice env e p) := by
  rw [Channel.fire_lineOut known last, ← dropStatus_setStatus e.key .done none c.map]
  exact congrArg (·, lineNotice env e p) (if_neg (Bool.eq_false_iff.mp no))

/-- Whatever an entry does, a channel's map and schedule apart it only hands the outputs their event (05 R79). -/
theorem Channel.fire_shape (known : c.entryOf e.key = some m) :
    ∃ map : List MapEntry, c.fire env p e = ({ c.handed env e m with map }, lineNotice env e p) := by
  by_cases last : e.kind = .lineOut
  · cases acc : c.acceptsKey env.cues e.key with
    | true => exact ⟨_, Channel.fire_lineOut_accepted known last acc⟩
    | false => exact ⟨_, Channel.fire_lineOut_unaccepted known last acc⟩
  · exact ⟨_, Channel.fire_known known last⟩

/-- What an entry that fires hands on, whatever becomes of its cue (05 R79, R80). -/
theorem Channel.fire_hands (known : c.entryOf e.key = some m) :
    (c.fire env p e).1.settings = c.settings
      ∧ (c.fire env p e).1.tone = c.tone.take c.settings env.now (e.fired m)
      ∧ (c.fire env p e).1.lamps = c.lamps.take (e.fired m)
      ∧ (c.fire env p e).1.overlay = c.overlay.take env.present (e.fired m)
      ∧ (c.fire env p e).2 = lineNotice env e p := by
  obtain ⟨map, fires⟩ := Channel.fire_shape (env := env) (p := p) known
  rw [fires]
  exact ⟨rfl, rfl, rfl, rfl, rfl⟩

/-- An entry that fires leaves the schedule, and nothing else leaves or enters it. -/
theorem Channel.fire_schedule (env : ChannelEnv) (p : Nat) (e : Entry) (c : Channel) :
    (c.fire env p e).1.schedule = c.schedule.erase e := by
  cases known : c.entryOf e.key with
  | none => rw [Channel.fire_unknown known]
  | some m =>
    obtain ⟨map, fires⟩ := Channel.fire_shape (env := env) (p := p) known
    rw [fires]
    rfl

end

theorem lineNotice_lineIn {env : ChannelEnv} {e : Entry} (kind : e.kind = .lineIn) (p : Nat) :
    lineNotice env e p = [.notice (.line env.no e.key false e.point p)] := by
  simp only [lineNotice, kind]

theorem lineNotice_lineOut {env : ChannelEnv} {e : Entry} (kind : e.kind = .lineOut) (p : Nat) :
    lineNotice env e p = [.notice (.line env.no e.key true e.point p)] := by
  simp only [lineNotice, kind]

theorem lineNotice_other {env : ChannelEnv} {e : Entry} (notIn : e.kind ≠ .lineIn)
    (notOut : e.kind ≠ .lineOut) (p : Nat) : lineNotice env e p = [] := by
  unfold lineNotice
  split
  · contradiction
  · contradiction
  · rfl

/-! ### The settled firing (05 R80) -/

/-- Some entries fired one after another, with what they give out in their order. -/
def Channel.fireAll (env : ChannelEnv) (p : Nat) : List Entry → Channel → Channel × List Emit
  | [], c => (c, [])
  | e :: es, c =>
    let first := c.fire env p e
    let rest := Channel.fireAll env p es first.1
    (rest.1, first.2 ++ rest.2)

theorem Channel.foldl_fire (env : ChannelEnv) (p : Nat) (es : List Entry) (c : Channel) (given : List Emit) :
    es.foldl (fun acc e => let f := acc.1.fire env p e; (f.1, acc.2 ++ f.2)) (c, given)
      = ((Channel.fireAll env p es c).1, given ++ (Channel.fireAll env p es c).2) := by
  induction es generalizing c given with
  | nil => simp [Channel.fireAll]
  | cons e es ih => simp only [List.foldl_cons, ih, Channel.fireAll, List.append_assoc]

theorem Channel.fireCrossed_eq (env : ChannelEnv) (p : Nat) (c : Channel) :
    c.fireCrossed env p = Channel.fireAll env p (c.schedule.filter fun e => decide (e.point ≤ p)) c := by
  rw [Channel.fireCrossed, Channel.foldl_fire]
  rfl

/-- An entry at or before P fires ahead of those behind it. -/
theorem Channel.fireCrossed_first {env : ChannelEnv} {p : Nat} {c : Channel} {e : Entry} {rest : List Entry}
    (first : c.schedule = e :: rest) (crossed : e.point ≤ p) :
    c.fireCrossed env p =
      (((c.fire env p e).1.fireCrossed env p).1, (c.fire env p e).2 ++ ((c.fire env p e).1.fireCrossed env p).2) := by
  have behind : (c.fire env p e).1.schedule = rest := by
    rw [Channel.fire_schedule, first, List.erase_cons_head]
  simp only [Channel.fireCrossed_eq, behind, first, List.filter_cons, crossed, decide_true, if_true, Channel.fireAll]

theorem Channel.fireCrossed_none {env : ChannelEnv} {p : Nat} {c : Channel} (ahead : ∀ e ∈ c.schedule, p < e.point) :
    c.fireCrossed env p = (c, []) := by
  have none : (c.schedule.filter fun e => decide (e.point ≤ p)) = [] :=
    List.filter_eq_nil_iff.mpr fun e he => by simpa using ahead e he
  rw [Channel.fireCrossed_eq, none]
  rfl

theorem Channel.fireAll_schedule (env : ChannelEnv) (p : Nat) (es : List Entry) (c : Channel) :
    (Channel.fireAll env p es c).1.schedule = c.schedule.diff es := by
  induction es generalizing c with
  | nil => exact (List.diff_nil _).symm
  | cons e es ih => rw [List.diff_cons, ← Channel.fire_schedule env p e c, ← ih]; rfl

/-- What is left when every element of a list that meets a test is taken out of it once. -/
theorem diff_filter_self {α : Type} [DecidableEq α] (test : α → Bool) (l : List α) :
    l.diff (l.filter test) = l.filter fun x => !test x := by
  induction l with
  | nil => simp
  | cons x l ih =>
    cases h : test x with
    | true => simp [h, ih]
    | false =>
      have apart : x ∉ l.filter test := by simp [h]
      simp [h, List.cons_diff_of_not_mem apart, ih]

/-- After the settled firing only the entries beyond P are left, as they stood. -/
theorem Channel.fireCrossed_schedule (env : ChannelEnv) (p : Nat) (c : Channel) :
    (c.fireCrossed env p).1.schedule = c.schedule.filter fun e => decide (p < e.point) := by
  rw [Channel.fireCrossed_eq, Channel.fireAll_schedule, diff_filter_self]
  simp only [← decide_not, not_le]

end Sys2Proof.Machine
end

section
/-! The passings of a channel (05 R81 to R85) and the reversion (R87): which statuses and entries each changes, in which
order, with which notices and faults. -/

namespace Sys2Proof.Machine

/-! ### Some cues of a map -/

/-- The entries of a map that meet a condition have taken a status and lost their copy; the others stand as they did. -/
def Channel.Changed (c : Channel) (hit : MapEntry → Prop) (st : CueStatus) (map : List MapEntry) : Prop :=
  map.length = c.map.length
    ∧ ∀ (i : Nat) (m : MapEntry), c.map[i]? = some m →
        (hit m → map[i]? = some { m with status := st, copy := none }) ∧ (¬ hit m → map[i]? = some m)

/-- A schedule that has lost the entries of the cues that meet a condition, and those alone. -/
def Channel.Left (c : Channel) (hit : MapEntry → Prop) (schedule : List Entry) : Prop :=
  schedule.Sublist c.schedule ∧ ∀ e ∈ c.schedule, (e ∈ schedule ↔ ∀ m ∈ c.map, hit m → m.key ≠ e.key)

/-- The keys listed are those of the cues that meet a condition. -/
def Channel.KeysOf (c : Channel) (hit : MapEntry → Prop) (keys : List Key) : Prop :=
  ∀ k : Key, k ∈ keys ↔ ∃ m ∈ c.map, m.key = k ∧ hit m

section
variable {c : Channel} {hit : MapEntry → Prop} {keys : List Key}

theorem Channel.KeysOf.of_keysWhere {test : MapEntry → Bool} (agrees : ∀ m ∈ c.map, test m = true ↔ hit m) :
    c.KeysOf hit (keysWhere test c.map) := by
  intro k
  rw [mem_keysWhere]
  exact exists_congr fun m => and_congr_right fun hm => and_congr_right fun _ => agrees m hm

/-- In a map with no key twice, an entry's key is listed only for the entry itself. -/
theorem Channel.KeysOf.mem_iff (h : c.KeysOf hit keys) (n : (c.map.map MapEntry.key).Nodup) {m : MapEntry}
    (hm : m ∈ c.map) : m.key ∈ keys ↔ hit m := by
  refine (h m.key).trans ⟨?_, fun meets => ⟨m, hm, rfl, meets⟩⟩
  rintro ⟨x, hx, same, meets⟩
  exact List.inj_on_of_nodup_map n hx hm same ▸ meets

/-- Keys in ascending order stand once each. -/
theorem Key.nodup_of_ascending {keys : List Key} (ascending : keys.Pairwise fun a b => a.before b = true) : keys.Nodup :=
  ascending.imp fun {a b} before same => by simp [same, Key.not_before_self] at before

theorem Channel.entryOf_mem (n : (c.map.map MapEntry.key).Nodup) {m : MapEntry} (hm : m ∈ c.map) :
    c.entryOf m.key = some m := by
  obtain ⟨x, hx⟩ : ∃ x, c.entryOf m.key = some x :=
    Option.isSome_iff_exists.mp (List.find?_isSome.mpr ⟨m, hm, by simp⟩)
  have same : x.key = m.key := by simpa using List.find?_some hx
  rw [hx, List.inj_on_of_nodup_map n (List.mem_of_find?_eq_some hx) hm same]

theorem Channel.Changed.of_map {st : CueStatus} {f : MapEntry → MapEntry}
    (h : ∀ m ∈ c.map, (hit m → f m = { m with status := st, copy := none }) ∧ (¬ hit m → f m = m)) :
    c.Changed hit st (c.map.map f) := by
  refine ⟨List.length_map .., fun i m hm => ?_⟩
  obtain ⟨met, unmet⟩ := h m (List.mem_of_getElem? hm)
  rw [List.getElem?_map, hm]
  exact ⟨fun meets => congrArg some (met meets), fun fails => congrArg some (unmet fails)⟩

/-- Passing the cues listed discards their entries. -/
theorem Channel.KeysOf.left (h : c.KeysOf hit keys) (reason : Key → PassReason) :
    c.Left hit (c.passAll keys reason).schedule := by
  refine ⟨List.filter_sublist, fun e he => ?_⟩
  have listed : e.key ∉ keys ↔ ∀ m ∈ c.map, hit m → m.key ≠ e.key := by
    rw [h e.key]
    exact ⟨fun no m hm meets same => no ⟨m, hm, same, meets⟩, fun no ⟨m, hm, same, meets⟩ => no m hm meets same⟩
  rw [← listed]
  simp [Channel.passAll, he]

/-- Passing the cues listed for one reason changes their statuses. -/
theorem Channel.KeysOf.changed (h : c.KeysOf hit keys) (n : (c.map.map MapEntry.key).Nodup) (reason : PassReason) :
    c.Changed hit (.passed reason) (c.passAll keys fun _ => reason).map :=
  .of_map fun _ hm =>
    ⟨fun meets => if_pos ((h.mem_iff n hm).mpr meets), fun fails => if_neg (mt (h.mem_iff n hm).mp fails)⟩

end

/-! ### For SETTLE (05 R81) and for SKIPPED (05 R83) -/

section
variable {env : ChannelEnv} {p : Nat} {c : Channel} {hit : MapEntry → Prop}

theorem Channel.passForSettle_passes (n : (c.map.map MapEntry.key).Nodup)
    (hits : ∀ m : MapEntry, hit m ↔ m.status = .queued ∧ ∃ e ∈ c.schedule, e.key = m.key ∧ e.point ≤ p) :
    ∃ keys : List Key,
      keys.Pairwise (fun a b => a.before b = true) ∧ c.KeysOf hit keys
        ∧ c.passForSettle env p =
          (c.passAll keys fun _ => .settle, keys.map fun k => passedNotice env k .settle p) := by
  refine ⟨_, keysWhere_ascending _ _ n, .of_keysWhere fun m _ => ?_, Channel.passReported_eq ..⟩
  simp [hits]

/-- The out point of a cue is behind: that of its copy when QUEUED, of its record when WAITING (05 R83). -/
theorem outPoint_behind_iff (env : ChannelEnv) (p : Nat) (m : MapEntry) :
    (∃ o : Nat, outPointOf env m = some o ∧ o ≤ p) ↔
      (m.status = .queued ∧ ∃ x : CueCopy, m.copy = some x ∧ x.outPt ≤ p)
        ∨ (m.status = .waiting ∧ ∃ cue : Cue, findCue env.cues m.key = some cue ∧ cue.outPt ≤ p) := by
  unfold outPointOf
  cases m.status <;> cases m.copy <;> simp

theorem outPointOf_other {m : MapEntry} (notWaiting : m.status ≠ .waiting) (notQueued : m.status ≠ .queued) :
    outPointOf env m = none := by
  unfold outPointOf
  split
  · contradiction
  · contradiction
  · rfl

theorem Channel.passOvertaken_passes
    (hits : ∀ m : MapEntry, hit m ↔
      (m.status = .queued ∧ ∃ x : CueCopy, m.copy = some x ∧ x.outPt ≤ p)
        ∨ (m.status = .waiting ∧ ∃ cue : Cue, findCue env.cues m.key = some cue ∧ cue.outPt ≤ p)) :
    ∃ keys : List Key, c.KeysOf hit keys ∧ c.passOvertaken env p = c.passAll keys fun _ => .skipped := by
  refine ⟨_, .of_keysWhere fun m _ => ?_, Channel.passSkipped_eq ..⟩
  rw [hits, ← outPoint_behind_iff]
  cases outPointOf env m <;> simp

end

theorem outPointOf_waiting (env : ChannelEnv) {m : MapEntry} (waiting : m.status = .waiting) :
    outPointOf env m = (findCue env.cues m.key).map Cue.outPt := by
  simp only [outPointOf, waiting]

theorem outPointOf_queued (env : ChannelEnv) {m : MapEntry} {x : CueCopy} (queued : m.status = .queued)
    (held : m.copy = some x) : outPointOf env m = some x.outPt := by
  simp only [outPointOf, queued, held]

theorem Channel.earliestOf_waiting (env : ChannelEnv) (c : Channel) {m : MapEntry} (waiting : m.status = .waiting) :
    c.earliestOf env m = (findCue env.cues m.key).map fun q => earliestPoint q c.settings.textLead := by
  simp only [Channel.earliestOf, waiting]

/-- A channel accepts a key whose record it accepts (04 R63). -/
theorem Channel.acceptsKey_iff (cues : List Cue) (k : Key) (c : Channel) :
    c.acceptsKey cues k = true ↔ ∃ q : Cue, findCue cues k = some q ∧ c.acceptsTag q.tag = true := by
  rw [Channel.acceptsKey]
  cases findCue cues k <;> simp

/-! ### For want of room (05 R82) -/

/-- What the passing for want of room takes up of a WAITING cue: its record and its earliest point, when that is crossed. -/
def Channel.crossing (env : ChannelEnv) (p : Nat) (c : Channel) (m : MapEntry) : Option Candidate :=
  match findCue env.cues m.key with
  | none => none
  | some cue =>
    if earliestPoint cue c.settings.textLead ≤ p then
      some { cue, earliest := earliestPoint cue c.settings.textLead }
    else none

/-- The WAITING cues whose earliest point is crossed, in the order in which they are passed for want of room. -/
def Channel.overrun (env : ChannelEnv) (p : Nat) (c : Channel) : List Candidate :=
  sortBy Candidate.beforeByKey ((c.map.filter fun m => decide (m.status = .waiting)).filterMap (c.crossing env p))

/-- Their keys, in the same order. -/
def Channel.overrunKeys (env : ChannelEnv) (p : Nat) (c : Channel) : List Key := (c.overrun env p).map fun x => x.cue.key

/-- The fault and the notice of a cue passed for want of room, with the schedule's length as the fault's detail. -/
def overrunEmits (env : ChannelEnv) (p length : Nat) (k : Key) : List Emit :=
  [.fault
      { kind := .scheduleOverrun, position := some p, channel := some env.no, key := some k, detail := length },
    passedNotice env k .scheduleFull p]

theorem Candidate.beforeByKey_iff (a b : Candidate) : a.beforeByKey b = true ↔
    a.earliest < b.earliest ∨ (a.earliest = b.earliest ∧ a.cue.key.before b.cue.key = true) := by
  unfold Candidate.beforeByKey
  split
  case isTrue differ => simp only [decide_eq_true_eq, differ, false_and, or_false]
  case isFalse same => simp only [not_not.mp same, lt_irrefl, false_or, true_and]

theorem Candidate.beforeByKey_trans {a b c : Candidate} (h : a.beforeByKey b = true) (k : b.beforeByKey c = true) :
    a.beforeByKey c = true := by
  rw [Candidate.beforeByKey_iff] at *
  rcases h with h | ⟨h, hk⟩ <;> rcases k with k | ⟨k, kk⟩
  · exact .inl (by omega)
  · exact .inl (by omega)
  · exact .inl (by omega)
  · exact .inr ⟨by omega, Key.before_trans hk kk⟩

theorem Candidate.beforeByKey_total {a b : Candidate} (h : a.beforeByKey b = false) (n : a.cue.key ≠ b.cue.key) :
    b.beforeByKey a = true := by
  rw [← Bool.not_eq_true, Candidate.beforeByKey_iff, not_or, not_and, Bool.not_eq_true] at h
  rw [Candidate.beforeByKey_iff]
  obtain ⟨notAhead, notBefore⟩ := h
  by_cases e : a.earliest = b.earliest
  · exact .inr ⟨e.symm, Key.before_total (notBefore e) n⟩
  · exact .inl (by omega)

section
variable {env : ChannelEnv} {p : Nat} {c : Channel}

theorem Channel.crossing_eq_some_iff {m : MapEntry} {x : Candidate} :
    c.crossing env p m = some x ↔
      findCue env.cues m.key = some x.cue ∧ x.earliest = earliestPoint x.cue c.settings.textLead ∧ x.earliest ≤ p := by
  obtain ⟨cue, earliest⟩ := x
  unfold Channel.crossing
  cases findCue env.cues m.key with
  | none => simp
  | some q =>
    simp only [Option.ite_none_right_eq_some, Option.some.injEq, Candidate.mk.injEq]
    constructor
    · rintro ⟨crossed, rfl, rfl⟩
      exact ⟨rfl, rfl, crossed⟩
    · rintro ⟨rfl, rfl, crossed⟩
      exact ⟨crossed, rfl, rfl⟩

theorem Channel.mem_overrun {x : Candidate} :
    x ∈ c.overrun env p ↔
      (∃ m ∈ c.map, m.status = .waiting ∧ findCue env.cues m.key = some x.cue)
        ∧ x.earliest = earliestPoint x.cue c.settings.textLead ∧ x.earliest ≤ p := by
  rw [Channel.overrun, (sortBy_perm _ _).mem_iff]
  simp only [List.mem_filterMap, List.mem_filter, decide_eq_true_eq, Channel.crossing_eq_some_iff]
  constructor
  · rintro ⟨m, ⟨hm, waiting⟩, found, crossed⟩
    exact ⟨⟨m, hm, waiting, found⟩, crossed⟩
  · rintro ⟨⟨m, hm, waiting, found⟩, crossed⟩
    exact ⟨m, ⟨hm, waiting⟩, found, crossed⟩

theorem Channel.overrun_ascending (n : (c.map.map MapEntry.key).Nodup) :
    (c.overrun env p).Pairwise fun a b => a.beforeByKey b = true := by
  refine sortBy_pairwise _ _ (fun a b c => Candidate.beforeByKey_trans) ?_
  rw [List.pairwise_filterMap]
  have apart : (c.map.filter fun m => decide (m.status = .waiting)).Pairwise fun m q => m.key ≠ q.key :=
    (List.pairwise_map.mp n).sublist List.filter_sublist
  refine apart.imp fun {m q} ne x hx y hy behind => Candidate.beforeByKey_total behind ?_
  rw [findCue_key (Channel.crossing_eq_some_iff.mp hx).1, findCue_key (Channel.crossing_eq_some_iff.mp hy).1]
  exact ne.symm

/-- The cues passed for want of room stand by earliest point, then key (05 R82). -/
theorem Channel.overrun_cues_ascending (n : (c.map.map MapEntry.key).Nodup) :
    ((c.overrun env p).map Candidate.cue).Pairwise fun a b =>
      earliestPoint a c.settings.textLead < earliestPoint b c.settings.textLead
        ∨ (earliestPoint a c.settings.textLead = earliestPoint b c.settings.textLead ∧ a.key.before b.key = true) := by
  refine List.pairwise_map.mpr ((Channel.overrun_ascending n).imp_of_mem fun {a b} ha hb before => ?_)
  obtain ⟨-, earliestA, -⟩ := Channel.mem_overrun.mp ha
  obtain ⟨-, earliestB, -⟩ := Channel.mem_overrun.mp hb
  rwa [Candidate.beforeByKey_iff, earliestA, earliestB] at before

theorem Channel.overrun_cue_found {q : Cue} (hq : q ∈ (c.overrun env p).map Candidate.cue) :
    findCue env.cues q.key = some q := by
  obtain ⟨x, hx, rfl⟩ := List.mem_map.mp hq
  obtain ⟨⟨m, -, -, found⟩, -⟩ := Channel.mem_overrun.mp hx
  rwa [findCue_key found]

/-- The cues passed for want of room, by their keys. -/
theorem Channel.overrun_keysOf {hit : MapEntry → Prop}
    (hits : ∀ m : MapEntry, hit m ↔ m.status = .waiting
      ∧ ∃ cue : Cue, findCue env.cues m.key = some cue ∧ earliestPoint cue c.settings.textLead ≤ p) :
    c.KeysOf hit (c.overrunKeys env p) := by
  intro k
  simp only [Channel.overrunKeys, List.mem_map, hits, Channel.mem_overrun]
  constructor
  · rintro ⟨x, ⟨⟨m, hm, waiting, found⟩, earliest, crossed⟩, rfl⟩
    exact ⟨m, hm, (findCue_key found).symm, waiting, x.cue, found, earliest ▸ crossed⟩
  · rintro ⟨m, hm, rfl, waiting, cue, found, crossed⟩
    exact ⟨⟨cue, _⟩, ⟨⟨m, hm, waiting, found⟩, rfl, crossed⟩, findCue_key found⟩

/-- The channel that the passing for want of room leaves. -/
theorem Channel.passForRoom_channel (env : ChannelEnv) (p : Nat) (c : Channel) :
    (c.passForRoom env p).1 = c.passAll (c.overrunKeys env p) fun _ => .scheduleFull := by
  rw [← Channel.foldl_pass, Channel.overrunKeys, List.foldl_map]
  exact (List.foldl_hom Prod.fst fun _ _ => rfl).symm

theorem Channel.pass_schedule_of_free {k : Key} (free : ∀ e ∈ c.schedule, e.key ≠ k) (reason : PassReason) :
    (c.pass k reason).schedule = c.schedule :=
  List.filter_eq_self.mpr fun e he => decide_eq_true (free e he)

/-- While the cues that are passed hold no entries, each fault names the same length of the schedule. -/
theorem foldl_overrunEmits (l : List Candidate) (c : Channel) (given : List Emit)
    (free : ∀ x ∈ l, ∀ e ∈ c.schedule, e.key ≠ x.cue.key) :
    (l.foldl
        (fun acc x =>
          (acc.1.pass x.cue.key .scheduleFull, acc.2 ++ overrunEmits env p acc.1.schedule.length x.cue.key))
        (c, given)).2
      = given ++ l.flatMap fun x => overrunEmits env p c.schedule.length x.cue.key := by
  induction l generalizing c given with
  | nil => simp
  | cons x l ih =>
    obtain ⟨freeOfFirst, freeOfRest⟩ := List.forall_mem_cons.mp free
    have kept := Channel.pass_schedule_of_free freeOfFirst .scheduleFull
    rw [List.foldl_cons, ih _ _ (kept ▸ freeOfRest), kept, List.flatMap_cons, List.append_assoc]

/-- The passing for want of room of cues that hold no entries leaves the schedule as it was (05 R82). -/
theorem Channel.passForRoom_passes (free : ∀ x ∈ c.overrun env p, ∀ e ∈ c.schedule, e.key ≠ x.cue.key) :
    c.passForRoom env p =
      ({ c with map := (c.passAll (c.overrunKeys env p) fun _ => .scheduleFull).map },
        (c.overrun env p).flatMap fun x => overrunEmits env p c.schedule.length x.cue.key) := by
  have kept : (c.passAll (c.overrunKeys env p) fun _ => .scheduleFull).schedule = c.schedule := by
    refine List.filter_eq_self.mpr fun e he => decide_eq_true fun listed => ?_
    obtain ⟨x, hx, same⟩ := List.mem_map.mp listed
    exact free x hx e he same.symm
  refine Prod.ext ((Channel.passForRoom_channel env p c).trans ?_)
    ((foldl_overrunEmits _ c [] free).trans (List.nil_append _))
  exact congrArg
    (fun schedule =>
      ({ c with map := (c.passAll (c.overrunKeys env p) fun _ => .scheduleFull).map, schedule } : Channel)) kept

end

/-! ### At PLAY (05 R84, R85) -/

section
variable {env : ChannelEnv} {p : Nat} {c : Channel}

/-- Why a cue that is late at the entry of PLAY is passed: its out point decides (05 R84). -/
def Channel.joinReason (env : ChannelEnv) (p : Nat) (c : Channel) (k : Key) : PassReason :=
  match (c.entryOf k).bind (outPointOf env) with
  | some o => if o ≤ p then .skipped else .joinedLate
  | none => .joinedLate

/-- The passing of one late cue, as 05 R84 says it. -/
def Channel.joinOne (env : ChannelEnv) (p : Nat) (acc : Channel × List Emit) (k : Key) : Channel × List Emit :=
  (acc.1.pass k (acc.1.joinReason env p k),
    acc.2 ++ if acc.1.joinReason env p k = .joinedLate then [passedNotice env k .joinedLate p] else [])

/-- A WAITING or QUEUED cue whose earliest point is behind P (05 R84). -/
def Channel.isLate (env : ChannelEnv) (p : Nat) (c : Channel) (m : MapEntry) : Bool :=
  (decide (m.status = .waiting) || decide (m.status = .queued))
    && (match c.earliestOf env m with | some e => decide (e < p) | none => false)

theorem Channel.isLate_iff (env : ChannelEnv) (p : Nat) (c : Channel) (m : MapEntry) :
    c.isLate env p m = true ↔
      (m.status = .waiting ∨ m.status = .queued) ∧ ∃ e : Nat, c.earliestOf env m = some e ∧ e < p := by
  unfold Channel.isLate
  cases c.earliestOf env m <;> simp

theorem Channel.joinPlay_eq (env : ChannelEnv) (p : Nat) (c : Channel) :
    c.joinPlay env p = (keysWhere (c.isLate env p) c.map).foldl (Channel.joinOne env p) (c, []) := by
  unfold Channel.joinPlay
  refine congrArg (fun f => List.foldl f (c, []) _) (funext fun acc => funext fun k => ?_)
  unfold Channel.joinOne Channel.joinReason
  cases (acc.1.entryOf k).bind (outPointOf env) with
  | none => rfl
  | some o => by_cases behind : o ≤ p <;> simp [behind]

/-- Late cues of different keys are passed each for the reason it had at the entry of PLAY. -/
theorem foldl_joinOne (c0 : Channel) (keys : List Key) (apart : keys.Nodup) (c : Channel) (given : List Emit)
    (same : ∀ k ∈ keys, c.entryOf k = c0.entryOf k) :
    keys.foldl (Channel.joinOne env p) (c, given)
      = (c.passAll keys (c0.joinReason env p),
        given ++ (keys.filter fun k => decide (c0.joinReason env p k = .joinedLate)).map
          fun k => passedNotice env k .joinedLate p) := by
  induction keys generalizing c given with
  | nil => simp
  | cons k keys ih =>
    obtain ⟨ahead, apart⟩ := List.nodup_cons.mp apart
    obtain ⟨here, same⟩ := List.forall_mem_cons.mp same
    have reason : c.joinReason env p k = c0.joinReason env p k := by simp only [Channel.joinReason, here]
    have others : ∀ q ∈ keys, (c.pass k (c0.joinReason env p k)).entryOf q = c0.entryOf q := fun q hq =>
      (Channel.pass_entryOf (fun e : q = k => ahead (e ▸ hq)) _ c).trans (same q hq)
    rw [List.foldl_cons, Channel.joinOne, reason, ih apart _ _ others, Channel.pass_passAll, List.filter_cons]
    split <;> simp [*]

/-- In a map with no key twice a late cue is skipped exactly when its out point is behind. -/
theorem Channel.joinReason_eq (n : (c.map.map MapEntry.key).Nodup) {m : MapEntry} (hm : m ∈ c.map)
    {behind : MapEntry → Prop} (out : ∀ m : MapEntry, behind m ↔ ∃ o : Nat, outPointOf env m = some o ∧ o ≤ p) :
    (behind m → c.joinReason env p m.key = .skipped) ∧ (¬ behind m → c.joinReason env p m.key = .joinedLate) := by
  rw [out, Channel.joinReason, Channel.entryOf_mem n hm, Option.bind_some]
  cases outPointOf env m <;> simp

theorem Channel.joinPlay_passes (n : (c.map.map MapEntry.key).Nodup) {late : MapEntry → Prop}
    (lates : ∀ m : MapEntry, late m ↔
      (m.status = .waiting ∨ m.status = .queued) ∧ ∃ e : Nat, c.earliestOf env m = some e ∧ e < p) :
    ∃ keys : List Key,
      keys.Pairwise (fun a b => a.before b = true) ∧ c.KeysOf late keys
        ∧ c.joinPlay env p =
          (c.passAll keys (c.joinReason env p),
            (keys.filter fun k => decide (c.joinReason env p k = .joinedLate)).map
              fun k => passedNotice env k .joinedLate p) := by
  have ascending := keysWhere_ascending (c.isLate env p) c.map n
  refine ⟨_, ascending, .of_keysWhere fun m _ => (c.isLate_iff env p m).trans (lates m).symm, ?_⟩
  rw [Channel.joinPlay_eq, foldl_joinOne c _ (Key.nodup_of_ascending ascending) c [] fun _ _ => rfl, List.nil_append]

section
variable {late behind : MapEntry → Prop} {keys : List Key} (own : c.KeysOf late keys)
  (n : (c.map.map MapEntry.key).Nodup)
  (out : ∀ m : MapEntry, behind m ↔ ∃ o : Nat, outPointOf env m = some o ∧ o ≤ p)
include own n out

/-- Only the late cues whose out point is ahead give a notice. -/
theorem Channel.KeysOf.joined :
    c.KeysOf (fun m => late m ∧ ¬ behind m) (keys.filter fun k => decide (c.joinReason env p k = .joinedLate)) := by
  intro k
  simp only [List.mem_filter, decide_eq_true_eq]
  constructor
  · rintro ⟨listed, joins⟩
    obtain ⟨m, hm, rfl, isLate⟩ := (own k).mp listed
    refine ⟨m, hm, rfl, isLate, fun isBehind => ?_⟩
    rw [(Channel.joinReason_eq n hm out).1 isBehind] at joins
    cases joins
  · rintro ⟨m, hm, rfl, isLate, ahead⟩
    exact ⟨(own m.key).mpr ⟨m, hm, rfl, isLate⟩, (Channel.joinReason_eq n hm out).2 ahead⟩

theorem Channel.KeysOf.joins {i : Nat} {m : MapEntry} (hm : c.map[i]? = some m) :
    (late m → ¬ behind m →
        (c.passAll keys (c.joinReason env p)).map[i]? = some { m with status := .passed .joinedLate, copy := none })
      ∧ (late m → behind m →
        (c.passAll keys (c.joinReason env p)).map[i]? = some { m with status := .passed .skipped, copy := none })
      ∧ (¬ late m → (c.passAll keys (c.joinReason env p)).map[i]? = some m) := by
  have mem := List.mem_of_getElem? hm
  obtain ⟨skips, joins⟩ := Channel.joinReason_eq n mem out
  have entry : (c.passAll keys (c.joinReason env p)).map[i]? = some (m.passedIn keys (c.joinReason env p)) :=
    List.getElem?_map.trans (congrArg _ hm)
  have passes : late m →
      m.passedIn keys (c.joinReason env p) = { m with status := .passed (c.joinReason env p m.key), copy := none } :=
    fun isLate => if_pos ((own.mem_iff n mem).mpr isLate)
  rw [entry]
  exact ⟨fun isLate ahead => by rw [passes isLate, joins ahead],
    fun isLate isBehind => by rw [passes isLate, skips isBehind],
    fun inTime => congrArg some (if_neg (mt (own.mem_iff n mem).mp inTime))⟩

end

/-- A channel whose map has lost, of the cues listed, those that it does not accept (04 R67). -/
def Channel.keepAccepted (cues : List Cue) (keys : List Key) (c : Channel) : Channel :=
  { c with map := c.map.filter fun m => decide (m.key ∉ keys) || c.acceptsKey cues m.key }

theorem MapEntry.passedIn_key (keys : List Key) (reason : Key → PassReason) (m : MapEntry) :
    (m.passedIn keys reason).key = m.key := by
  unfold MapEntry.passedIn
  split <;> rfl

theorem Channel.settleMembership_keeps_accepted (cues : List Cue) (k : Key) (c : Channel) :
    c.settleMembership cues k = c.keepAccepted cues [k] := by
  rw [Channel.settleMembership_eq, Channel.keepAccepted]
  congr 1
  cases acc : c.acceptsKey cues k with
  | true =>
    refine (List.filter_eq_self.mpr fun m _ => ?_).symm
    by_cases same : m.key = k <;> simp [same, acc]
  | false =>
    refine List.filter_congr fun m _ => ?_
    by_cases same : m.key = k <;> simp [same, acc]

theorem Channel.keepAccepted_passAll (cues : List Cue) (gone keys : List Key) (reason : Key → PassReason) (c : Channel) :
    (c.keepAccepted cues gone).passAll keys reason = (c.passAll keys reason).keepAccepted cues gone := by
  simp only [Channel.keepAccepted, Channel.passAll, List.filter_map, Function.comp_def, MapEntry.passedIn_key]
  rfl

theorem Channel.keepAccepted_cons (cues : List Cue) (k : Key) (keys : List Key) (c : Channel) :
    (c.keepAccepted cues [k]).keepAccepted cues keys = c.keepAccepted cues (k :: keys) := by
  simp only [Channel.keepAccepted, List.filter_filter]
  congr 1
  refine List.filter_congr fun m _ => ?_
  have same : (c.keepAccepted cues [k]).acceptsKey cues m.key = c.acceptsKey cues m.key := rfl
  rw [Channel.keepAccepted] at same
  rw [same]
  cases c.acceptsKey cues m.key <;> simp [Bool.and_comm]

/-- Cues interrupted one after another are all passed, and those no longer accepted leave the map (05 R85, 04 R67). -/
theorem foldl_interrupt (cues : List Cue) (keys : List Key) (c : Channel) :
    keys.foldl (fun c k => (c.pass k .interrupted).settleMembership cues k) c
      = (c.passAll keys fun _ => .interrupted).keepAccepted cues keys := by
  induction keys generalizing c with
  | nil => simp [Channel.keepAccepted]
  | cons k keys ih =>
    rw [List.foldl_cons, ih, Channel.settleMembership_keeps_accepted, Channel.keepAccepted_passAll,
      Channel.keepAccepted_cons, Channel.pass_passAll fun _ => .interrupted]

/-- The keys of the ACTIVE cues, in ascending order. -/
def Channel.activeKeys (c : Channel) : List Key := keysWhere (fun m => m.status.isActive) c.map

theorem Channel.activeKeys_keysOf {hit : MapEntry → Prop} (hits : ∀ m : MapEntry, hit m ↔ m.status = .active) :
    c.KeysOf hit c.activeKeys :=
  .of_keysWhere fun m _ => by rw [hits, CueStatus.isActive, decide_eq_true_eq]

theorem Channel.leavePlay_passes (env : ChannelEnv) (p : Nat) (c : Channel) :
    c.leavePlay env p =
      (((c.passAll c.activeKeys fun _ => .interrupted).keepAccepted env.cues c.activeKeys).withdraw,
        c.activeKeys.map fun k => passedNotice env k .interrupted p) := by
  obtain ⟨notices, -⟩ := c.interrupt_eq env p
  have channel : (c.interrupt env p).1
      = (c.passAll c.activeKeys fun _ => .interrupted).keepAccepted env.cues c.activeKeys := by
    rw [← foldl_interrupt]
    exact (List.foldl_hom Prod.fst fun _ _ => rfl).symm
  rw [Channel.leavePlay, notices, channel]
  rfl

/-- What stands in the map after ACTIVE cues were interrupted. -/
theorem Channel.KeysOf.mem_interrupted {hit : MapEntry → Prop} {keys : List Key} (h : c.KeysOf hit keys)
    (n : (c.map.map MapEntry.key).Nodup) (cues : List Cue) (x : MapEntry) :
    x ∈ ((c.passAll keys fun _ => .interrupted).keepAccepted cues keys).map ↔
      (x ∈ c.map ∧ ¬ hit x)
        ∨ ∃ m ∈ c.map, hit m ∧ c.acceptsKey cues m.key = true
          ∧ x = { m with status := .passed .interrupted, copy := none } := by
  have kept : x ∈ ((c.passAll keys fun _ => .interrupted).keepAccepted cues keys).map ↔
      ∃ m ∈ c.map,
        (m.key ∉ keys ∨ c.acceptsKey cues m.key = true) ∧ m.passedIn keys (fun _ => .interrupted) = x := by
    rw [← Channel.keepAccepted_passAll]
    simp [Channel.keepAccepted, Channel.passAll, and_assoc]
  rw [kept]
  constructor
  · rintro ⟨m, hm, stays, rfl⟩
    by_cases meets : hit m
    · have listed := (h.mem_iff n hm).mpr meets
      exact .inr ⟨m, hm, meets, stays.resolve_left (not_not.mpr listed), if_pos listed⟩
    · have unlisted := mt (h.mem_iff n hm).mp meets
      rw [MapEntry.passedIn, if_neg unlisted]
      exact .inl ⟨hm, meets⟩
  · rintro (⟨hx, fails⟩ | ⟨m, hm, meets, acc, rfl⟩)
    · have unlisted := mt (h.mem_iff n hx).mp fails
      exact ⟨x, hx, .inl unlisted, if_neg unlisted⟩
    · exact ⟨m, hm, .inr acc, if_pos ((h.mem_iff n hm).mpr meets)⟩

end

/-! ### Reversion (05 R87) -/

/-- DONE and PASSED cues whose earliest point lies beyond P become WAITING. -/
theorem Channel.revert_changed {env : ChannelEnv} {p : Nat} {c : Channel} {hit : MapEntry → Prop}
    (hits : ∀ m : MapEntry, hit m ↔ (m.status = .done ∨ ∃ r : PassReason, m.status = .passed r)
      ∧ ∃ cue : Cue, findCue env.cues m.key = some cue ∧ p < earliestPoint cue c.settings.textLead) :
    c.Changed hit .waiting (c.revert env p).map := by
  refine .of_map fun m _ => ⟨fun meets => ?_, fun fails => ?_⟩
  · obtain ⟨past, cue, found, ahead⟩ := (hits m).mp meets
    rcases past with st | ⟨r, st⟩ <;> simp only [st, found, if_pos ahead]
  · have stays (past : m.status = .done ∨ ∃ r : PassReason, m.status = .passed r) (cue : Cue)
        (found : findCue env.cues m.key = some cue) : ¬ p < earliestPoint cue c.settings.textLead :=
      fun ahead => fails ((hits m).mpr ⟨past, cue, found, ahead⟩)
    cases st : m.status <;> cases found : findCue env.cues m.key <;> simp only
    case done.some cue => exact if_neg (stays (.inl st) cue found)
    case passed.some r cue => exact if_neg (stays (.inr ⟨r, st⟩) cue found)

end Sys2Proof.Machine
end

section
/-! The expansion pass (05 R72, R76), and what a channel does at each report of the tracker (05 R88). -/

namespace Sys2Proof.Machine

/-! ### An expansion pass (05 R76) -/

section
variable {env : ChannelEnv} {p : Nat} {c : Channel}

theorem candidate_keys_nodup {l : List Candidate} (ascending : l.Pairwise fun a b => a.before b = true)
    (own : ∀ x ∈ l, findCue env.cues x.cue.key = some x.cue ∧ x.earliest = earliestPoint x.cue c.settings.textLead) :
    ((l.map Candidate.cue).map Cue.key).Nodup := by
  rw [List.map_map]
  refine List.pairwise_map.mpr (ascending.imp_of_mem fun {a b} ha hb before same => ?_)
  obtain ⟨foundA, earliestA⟩ := own a ha
  obtain ⟨foundB, earliestB⟩ := own b hb
  have one : a.cue = b.cue := by
    have keys : a.cue.key = b.cue.key := same
    rw [keys, foundB] at foundA
    exact (Option.some.inj foundA).symm
  simp [Candidate.before_iff, Cue.before, earliestA, earliestB, one, Key.not_before_self] at before

/-- The pass queues its cues up to the first that does not fit, each whole (05 R76). -/
theorem Channel.expand_takes (n : (c.map.map MapEntry.key).Nodup) :
    ∃ taken later : List Cue,
      (c.candidates env p).map Candidate.cue = taken ++ later ∧ (taken.map Cue.key).Nodup
        ∧ c.expand env p =
          { c with
            map := c.map.map (MapEntry.queuedIn taken c.settings.textLead),
            schedule := placeEntries (taken.flatMap fun q => entriesOf q c.settings.textLead) c.schedule }
        ∧ (taken ≠ [] → (c.expand env p).schedule.length ≤ 48)
        ∧ ∀ (q : Cue) (rest : List Cue), later = q :: rest →
            48 < (c.expand env p).schedule.length + (eventPoints q c.settings.textLead).length := by
  obtain ⟨taken, later, all, takes, fits, next⟩ := takeIn_splits (c.candidates env p) c
  have ascending := candidates_ascending env p c n
  rw [all] at ascending
  have apart : ((taken.map Candidate.cue).map Cue.key).Nodup := by
    refine candidate_keys_nodup (env := env) (c := c) (List.pairwise_append.mp ascending).1 fun x hx => ?_
    obtain ⟨found, -, earliest, -⟩ := (mem_candidates env p c x).mp (all ▸ List.mem_append_left _ hx)
    exact ⟨found, earliest⟩
  refine ⟨taken.map Candidate.cue, later.map Candidate.cue, by rw [all, List.map_append], apart,
    takes.trans (queueAll_eq _ c apart), fun some => fits (mt (congrArg (List.map Candidate.cue)) some),
    fun q rest h => ?_⟩
  obtain ⟨x, behind, rfl, rfl, -⟩ := List.map_eq_cons_iff.mp h
  exact next x behind rfl

/-- The cues that a pass goes through. -/
theorem Channel.mem_candidate_cues (q : Cue) :
    q ∈ (c.candidates env p).map Candidate.cue ↔
      findCue env.cues q.key = some q ∧ (∃ m ∈ c.map, m.key = q.key ∧ m.status = .waiting)
        ∧ earliestPoint q c.settings.textLead ≤ p + env.window * 100 ∧ p < q.outPt := by
  simp only [List.mem_map, mem_candidates]
  constructor
  · rintro ⟨x, ⟨found, waits, earliest, near, ahead⟩, rfl⟩
    exact ⟨found, waits, earliest ▸ near, ahead⟩
  · rintro ⟨found, waits, near, ahead⟩
    exact ⟨⟨q, _⟩, ⟨found, waits, rfl, near, ahead⟩, rfl⟩

/-- The cues of a pass stand by earliest point, in point and key. -/
theorem Channel.candidate_cues_ascending (n : (c.map.map MapEntry.key).Nodup) :
    ((c.candidates env p).map Candidate.cue).Pairwise fun a b =>
      earliestPoint a c.settings.textLead < earliestPoint b c.settings.textLead
        ∨ (earliestPoint a c.settings.textLead = earliestPoint b c.settings.textLead
          ∧ (a.inPt < b.inPt ∨ (a.inPt = b.inPt ∧ a.key.before b.key = true))) := by
  refine List.pairwise_map.mpr ((candidates_ascending env p c n).imp_of_mem fun {a b} ha hb before => ?_)
  obtain ⟨-, -, earliestA, -⟩ := (mem_candidates env p c a).mp ha
  obtain ⟨-, -, earliestB, -⟩ := (mem_candidates env p c b).mp hb
  simpa only [Candidate.before_iff, Cue.before, earliestA, earliestB, Bool.or_eq_true, Bool.and_eq_true,
    decide_eq_true_eq] using before

/-- An entry that stands after the cues of a pass were taken in stood there before, or is of one of them. -/
theorem Channel.mem_takeIn_schedule_cases {e : Entry} (xs : List Candidate) {c : Channel}
    (he : e ∈ (Channel.takeIn xs c).schedule) :
    e ∈ c.schedule ∨ ∃ x ∈ xs, e ∈ entriesOf x.cue c.settings.textLead := by
  induction xs generalizing c with
  | nil => exact .inl he
  | cons x xs ih =>
    unfold Channel.takeIn at he
    split at he
    · rcases ih he with placed | ⟨y, hy, own⟩
      · rcases List.mem_append.mp ((placeEntries_perm _ _).mem_iff.mp placed) with stood | own
        · exact .inl stood
        · exact .inr ⟨x, List.mem_cons_self, own⟩
      · exact .inr ⟨y, List.mem_cons_of_mem x hy, own⟩
    · exact .inl he

end

section
variable {cues : List Cue} {lead : Nat} {m : MapEntry}

theorem MapEntry.queuedIn_taken (apart : (cues.map Cue.key).Nodup) {q : Cue} (hq : q ∈ cues) (same : q.key = m.key) :
    m.queuedIn cues lead = { m with status := .queued, copy := some (copyOf q lead) } := by
  obtain ⟨x, hx⟩ : ∃ x, cues.find? (fun q => decide (q.key = m.key)) = some x :=
    Option.isSome_iff_exists.mp (List.find?_isSome.mpr ⟨q, hq, decide_eq_true same⟩)
  have key : x.key = m.key := by simpa using List.find?_some hx
  have one : x = q := List.inj_on_of_nodup_map apart (List.mem_of_find?_eq_some hx) hq (key.trans same.symm)
  simp only [MapEntry.queuedIn, hx, one]

theorem MapEntry.queuedIn_other (other : ∀ q ∈ cues, q.key ≠ m.key) : m.queuedIn cues lead = m := by
  have absent : cues.find? (fun q => decide (q.key = m.key)) = none := by simpa using other
  simp only [MapEntry.queuedIn, absent]

end

/-! ### One report (05 R88) -/

section
variable {env : ChannelEnv} {p : Nat} {c : Channel}

theorem Channel.takeReport_disabled (off : c.settings.enabled = false) (rep : Report) :
    c.takeReport env rep = (c, []) := by
  simp only [Channel.takeReport, off, Bool.false_eq_true, if_false]

/-- No WAITING cue is left that the passing for want of room should have passed. -/
theorem Channel.passForRoom_waiting {m : MapEntry} {cue : Cue} (hm : m ∈ (c.passForRoom env p).1.map)
    (waiting : m.status = .waiting) (found : findCue env.cues m.key = some cue) :
    p < earliestPoint cue c.settings.textLead := by
  rw [Channel.passForRoom_channel] at hm
  obtain ⟨m0, hm0, rfl⟩ := List.mem_map.mp hm
  rw [MapEntry.passedIn_key] at found
  by_contra crossed
  have listed : m0.key ∈ c.overrunKeys env p := by
    by_cases waited : m0.status = .waiting
    · exact List.mem_map.mpr
        ⟨⟨cue, _⟩, Channel.mem_overrun.mpr ⟨⟨m0, hm0, waited, found⟩, rfl, not_lt.mp crossed⟩,
          findCue_key found⟩
    · by_contra unlisted
      rw [MapEntry.passedIn, if_neg unlisted] at waiting
      exact waited waiting
  rw [MapEntry.passedIn, if_pos listed] at waiting
  cases waiting

/-- Behind a settled firing the passing for want of room and the expansion leave no entry at or before P. -/
theorem Channel.expanded_ahead (ahead : ∀ e ∈ c.schedule, p < e.point) :
    ∀ e ∈ ((c.passForRoom env p).1.expand env p).schedule, p < e.point := by
  intro e he
  rcases Channel.mem_takeIn_schedule_cases _ he with stood | ⟨x, hx, own⟩
  · rw [Channel.passForRoom_channel] at stood
    exact ahead e (List.mem_of_mem_filter stood)
  · obtain ⟨found, ⟨m, hm, key, waiting⟩, -⟩ := (mem_candidates env p _ x).mp hx
    obtain ⟨y, hy, rfl⟩ := List.mem_map.mp own
    rw [(c.passForRoom_keeps env p).1] at hy
    exact (Channel.passForRoom_waiting hm waiting (key ▸ found)).trans_le (earliestPoint_le hy)

section
variable (on : c.settings.enabled = true) (snap : Snap)
include on

theorem Channel.takeReport_lock : c.takeReport env { kind := .lock, snap } = c.rebuild env snap.head := if_pos on

theorem Channel.takeReport_relocate (old new : Nat) :
    c.takeReport env { kind := .relocate old new, snap } = c.rebuild env new := if_pos on

theorem Channel.takeReport_classChange (was cls : MotionClass) :
    c.takeReport env { kind := .classChange was cls, snap } =
      if cls = .play then c.joinPlay env snap.head else if was = .play then c.leavePlay env snap.head else (c, []) :=
  if_pos on

theorem Channel.takeReport_settle : c.takeReport env { kind := .settle, snap } = (c, []) := if_pos on

theorem Channel.takeReport_advance (old new : Nat) (step0 : Bool) :
    c.takeReport env { kind := .advance old new step0, snap } = c.takeAdvance env snap old new step0 := if_pos on

end

theorem Channel.takeAdvance_back (snap : Snap) {old : Nat} {step0 : Bool} (back : p ≤ old ∨ step0 = true) :
    c.takeAdvance env snap old p step0 = ((c.revert env p).expand env p, []) := by
  have still : (decide (old < p) && !step0) = false := by
    rcases back with back | rfl <;> simp [*]
  simp only [Channel.takeAdvance, still, Bool.false_and, Bool.false_eq_true, if_false]

theorem Channel.takeAdvance_elsewhere {snap : Snap} {old : Nat} (ahead : old < p) (notPlay : snap.cls ≠ .play) :
    c.takeAdvance env snap old p false = (((c.revert env p).passOvertaken env p).expand env p, []) := by
  simp only [Channel.takeAdvance, ahead, notPlay, decide_true, decide_false, Bool.not_false, Bool.and_false,
    Bool.and_self, Bool.false_eq_true, if_true, if_false]

section
variable {snap : Snap} {old : Nat} {d d' : Channel} {es es' : List Emit}
  (fires : snap.settled = true → (c.revert env p).fireCrossed env p = (d, es)) (room : d.passForRoom env p = (d', es'))
include fires room

/-- An advance in PLAY fires or passes what is crossed, passes for want of room, and expands. -/
theorem Channel.takeAdvance_play (ahead : old < p) (play : snap.cls = .play)
    (settles : snap.settled = false → (c.revert env p).passForSettle env p = (d, es)) :
    c.takeAdvance env snap old p false = (d'.expand env p, es ++ es') := by
  have crosses : (if snap.settled then (c.revert env p).fireCrossed env p else (c.revert env p).passForSettle env p)
      = (d, es) := by
    cases settled : snap.settled with
    | true => exact fires settled
    | false => exact settles settled
  simp only [Channel.takeAdvance, ahead, play, decide_true, Bool.not_false, Bool.and_self, if_true, crosses, room]

/-- A settled advance in PLAY leaves no entry at or before P (05 R80). -/
theorem Channel.settled_leaves_ahead (settled : snap.settled = true) :
    ∀ e ∈ (d'.expand env p).schedule, p < e.point := by
  have left : d.schedule = (c.revert env p).schedule.filter fun e => decide (p < e.point) := by
    rw [← Channel.fireCrossed_schedule, fires settled]
  have ahead : ∀ e ∈ d.schedule, p < e.point := fun e he => by
    rw [left] at he
    exact of_decide_eq_true (List.mem_filter.mp he).2
  have done := Channel.expanded_ahead (env := env) ahead
  rwa [room] at done

end

end

end Sys2Proof.Machine
end

section
/-! What a channel does with its cues, put together (05 R72 to R88). -/

namespace Sys2Proof.Machine

/-- Settles O40: the firing of one entry and of all, the passings and the reversion, the events of a cue and their order, the
expansion pass, and what a channel makes of each report. -/
theorem settledAdvanceFiresCrossedEntries : Obligations.SettledAdvanceFiresCrossedEntries := by
  intro env p c changed left passed hchanged hleft hpassed
  obtain rfl : changed = c.Changed := by
    funext hit st map
    exact propext (hchanged hit st map)
  obtain rfl : left = c.Left := by
    funext hit schedule
    exact propext (hleft hit schedule)
  refine ⟨?fires, fun e rest d d' es es' first crossed fires rest' => ?first, Channel.fireCrossed_none,
    c.fireCrossed_schedule env p,
    fun n => ⟨?settle, ?room, ?overtaken, fun k => c.acceptsKey_iff env.cues k,
      fun m => ⟨fun waiting => ⟨outPointOf_waiting env waiting, c.earliestOf_waiting env waiting⟩,
        fun x queued held => ⟨outPointOf_queued env queued held, Channel.earliestOf_held held (.inl queued)⟩,
        outPointOf_other⟩,
      ?joins, ?leaves⟩,
    fun hit hits => ⟨Channel.revert_changed hits, rfl⟩,
    fun q lead => ⟨mem_eventPoints q lead, eventPoints_kinds_nodup q lead, earliestPoint_mem q lead,
      fun x => earliestPoint_le⟩,
    fun a b => ⟨fun k => rfl, a.before_iff_byKey b, a.key.before_iff b.key⟩, ?expands, fun snap old was cls => ?reports⟩
  case fires =>
    rintro e m d es ev known fires rfl
    obtain rfl : (c.fire env p e).1 = d := by rw [fires]
    obtain rfl : (c.fire env p e).2 = es := by rw [fires]
    obtain ⟨settings, tone, lamps, overlay, notices⟩ := Channel.fire_hands (env := env) (p := p) known
    exact ⟨settings, c.fire_schedule env p e, tone, lamps, overlay,
      fun kind => congrArg (·.1.map) (Channel.fire_known known kind),
      fun kind acc => congrArg (·.1.map) (Channel.fire_lineOut_accepted known kind acc),
      fun kind no => congrArg (·.1.map) (Channel.fire_lineOut_unaccepted known kind no),
      fun kind => notices.trans (lineNotice_lineIn kind p), fun kind => notices.trans (lineNotice_lineOut kind p),
      fun notIn notOut => notices.trans (lineNotice_other notIn notOut p)⟩
  case first =>
    rw [Channel.fireCrossed_first first crossed, fires, rest']
  case settle =>
    intro hit d es passes hits
    obtain ⟨keys, ascending, own, shape⟩ := Channel.passForSettle_passes n hits
    cases shape.symm.trans passes
    exact ⟨keys, ascending, own, (hpassed _ _).symm, own.changed n _, own.left _, rfl⟩
  case room =>
    intro hit d es passes hits free
    have own := Channel.overrun_keysOf hits
    have freeOfCues : ∀ x ∈ c.overrun env p, ∀ e ∈ c.schedule, e.key ≠ x.cue.key := fun x hx => by
      obtain ⟨m, hm, key, meets⟩ := (own x.cue.key).mp (List.mem_map_of_mem hx)
      exact key ▸ free m hm meets
    cases (Channel.passForRoom_passes freeOfCues).symm.trans passes
    refine ⟨(c.overrun env p).map Candidate.cue, Channel.overrun_cues_ascending n, fun k => ?_,
      fun x => Channel.overrun_cue_found, ?_, own.changed n _, rfl⟩
    · rw [List.map_map]
      exact own k
    · rw [List.flatMap_map]
      rfl
  case overtaken =>
    rintro hit d rfl hits
    obtain ⟨keys, own, shape⟩ := Channel.passOvertaken_passes (c := c) hits
    rw [shape]
    exact ⟨own.changed n _, own.left _, rfl⟩
  case joins =>
    intro late behind d es passes lates out
    obtain ⟨keys, ascending, own, shape⟩ := Channel.joinPlay_passes n lates
    cases shape.symm.trans passes
    exact ⟨_, ascending.sublist List.filter_sublist, own.joined n out, (hpassed _ _).symm, List.length_map ..,
      fun i m => own.joins n out, own.left _, rfl⟩
  case leaves =>
    intro hit d es passes hits
    have own := Channel.activeKeys_keysOf (c := c) hits
    cases (c.leavePlay_passes env p).symm.trans passes
    exact ⟨c.activeKeys, keysWhere_ascending _ _ n, own, (hpassed _ _).symm, own.mem_interrupted n env.cues,
      own.left fun _ => .interrupted, rfl⟩
  case expands =>
    rintro n d lead due rfl rfl dues
    obtain ⟨taken, later, all, apart, shape, fits, next⟩ := Channel.expand_takes (env := env) (p := p) n
    refine ⟨taken, later, ?_, fun q => ?_, ?_, fun i m hm => ⟨fun q hq same => ?_, fun other => ?_⟩, ?_,
      fun inOrder => ?_, fits, next, ?_⟩
    · exact all ▸ Channel.candidate_cues_ascending n
    · rw [← all, dues, Channel.mem_candidate_cues]
    all_goals rw [shape]
    · exact List.length_map ..
    · exact List.getElem?_map.trans ((congrArg _ hm).trans (congrArg some (MapEntry.queuedIn_taken apart hq same)))
    · exact List.getElem?_map.trans ((congrArg _ hm).trans (congrArg some (MapEntry.queuedIn_other other)))
    · exact placeEntries_perm _ _
    · exact placeEntries_inOrder _ _ inOrder
  case reports =>
    refine ⟨fun off kind => Channel.takeReport_disabled off _, fun on =>
      ⟨Channel.takeReport_lock on snap, Channel.takeReport_relocate on snap old p, ?_, ?_, ?_,
        Channel.takeReport_settle on snap, fun step0 back => ?_, fun d d' es es' ahead play fires settles room => ?_,
        fun ahead notPlay => ?_⟩⟩
    · intro play
      rw [Channel.takeReport_classChange on, if_pos play]
    · intro play notPlay
      rw [Channel.takeReport_classChange on, if_neg notPlay, if_pos play]
    · intro notPlay still
      rw [Channel.takeReport_classChange on, if_neg still, if_neg notPlay]
    · rw [Channel.takeReport_advance on, Channel.takeAdvance_back snap back]
    · exact ⟨(Channel.takeReport_advance on ..).trans (Channel.takeAdvance_play fires room ahead play settles),
        Channel.settled_leaves_ahead fires room⟩
    · rw [Channel.takeReport_advance on, Channel.takeAdvance_elsewhere ahead notPlay]

end Sys2Proof.Machine
end

section
/-! The tone units: the timer of a burst, the events of each tone mode, a changed mode and the two timers' commands (06 R96 to
R101). -/

namespace Sys2Proof.Machine

/-! ### The timer of a burst (06 R97) -/

section
variable {t : Tone}

theorem Tone.elapse_burst (us : Nat) (h : t.state = .burst) :
    t.elapse us =
      { t with remaining := t.remaining - (t.subMs + us) / 1000, subMs := (t.subMs + us) % 1000 } := by
  simp only [Tone.elapse, h]

theorem Tone.elapse_notBurst (us : Nat) (h : t.state ≠ .burst) : t.elapse us = t := by
  unfold Tone.elapse
  split
  case h_1 burst => exact absurd burst h
  case h_2 => rfl

end

/-- The part of a millisecond that one stretch leaves over is counted in the next. -/
theorem Tone.elapse_elapse (t : Tone) (a b : Nat) : (t.elapse a).elapse b = t.elapse (a + b) := by
  by_cases burst : t.state = .burst
  · have remaining :
        t.remaining - (t.subMs + a) / 1000 - ((t.subMs + a) % 1000 + b) / 1000
          = t.remaining - (t.subMs + (a + b)) / 1000 := by omega
    have subMs : ((t.subMs + a) % 1000 + b) % 1000 = (t.subMs + (a + b)) % 1000 := by omega
    rw [Tone.elapse_burst a burst, Tone.elapse_burst (a + b) burst, Tone.elapse_burst b (by exact burst)]
    simp only [remaining, subMs]
  · rw [Tone.elapse_notBurst a burst, Tone.elapse_notBurst b burst, Tone.elapse_notBurst (a + b) burst]

/-! ### Events at a tone unit (06 R97, R98) -/

section
variable {set : ChannelSettings} {now : Stamp} {t : Tone}

theorem Tone.beepBurst_idle (h : t.state = .idle) :
    t.beepBurst set now =
      { t with
        state := .burst, remaining := set.beepLength, subMs := 0,
        period := some { pitch := set.pitch, start := now } } := by
  simp only [Tone.beepBurst, h]

theorem Tone.beepBurst_burst (h : t.state = .burst) :
    t.beepBurst set now = { t with remaining := set.beepLength, subMs := 0 } := by
  simp only [Tone.beepBurst, h]

/-- The milliseconds a new burst has left are its beep length less the time that passed, a begun one counted whole. -/
theorem Tone.beepBurst_elapse_remaining (set : ChannelSettings) (now : Stamp) (us : Nat) :
    ((Tone.idle.beepBurst set now).elapse us).remaining = (set.beepLength * 1000 - us + 999) / 1000 := by
  rw [Tone.beepBurst_idle rfl, Tone.elapse_burst us rfl]
  change set.beepLength - (0 + us) / 1000 = _
  omega

/-- The holder set after a BEEP of a cue. -/
def Tone.holdersWith (k : Key) (t : Tone) : List Key := if k ∈ t.holders then t.holders else t.holders ++ [k]

/-- The holder set after a LINE_IN of a cue. -/
def Tone.holdersWithout (k : Key) (t : Tone) : List Key := t.holders.filter fun x => decide (x ≠ k)

theorem Tone.beepSteady_idle (k : Key) (h : t.state = .idle) :
    t.beepSteady set now k =
      { t with
        state := .held, holders := t.holdersWith k, period := some { pitch := set.pitch, start := now } } := by
  simp only [Tone.beepSteady, Tone.holdersWith, h]

theorem Tone.beepSteady_held (k : Key) (h : t.state = .held) :
    t.beepSteady set now k = { t with holders := t.holdersWith k } := by
  simp only [Tone.beepSteady, Tone.holdersWith, h]

theorem Tone.release_last {k : Key} (holds : k ∈ t.holders) (last : t.holdersWithout k = []) :
    t.release k = Tone.idle :=
  (if_pos holds).trans (if_pos last)

theorem Tone.release_shared {k : Key} (holds : k ∈ t.holders) (others : t.holdersWithout k ≠ []) :
    t.release k = { t with holders := t.holdersWithout k } :=
  (if_pos holds).trans (if_neg others)

theorem Tone.release_absent {k : Key} (absent : k ∉ t.holders) : t.release k = t := if_neg absent

variable {e : FiredEvent} {n : Nat}

theorem Tone.take_beep_burst (kind : e.kind = .beep n) (mode : set.steady = false) :
    t.take set now e = t.beepBurst set now := by
  simp only [Tone.take, kind, mode, Bool.false_eq_true, if_false]

theorem Tone.take_beep_steady (kind : e.kind = .beep n) (mode : set.steady = true) :
    t.take set now e = t.beepSteady set now e.key := by
  simp only [Tone.take, kind, mode, if_true]

theorem Tone.take_lineIn_steady (kind : e.kind = .lineIn) (mode : set.steady = true) :
    t.take set now e = t.release e.key := by
  simp only [Tone.take, kind, mode, if_true]

theorem Tone.take_other (noBeep : ∀ k : Nat, e.kind ≠ .beep k) (leaves : e.kind ≠ .lineIn ∨ set.steady = false) :
    t.take set now e = t := by
  unfold Tone.take
  split
  case h_1 k kind => exact absurd kind (noBeep k)
  case h_2 kind =>
    have mode : set.steady = false := leaves.resolve_left fun no => no kind
    simp only [mode, Bool.false_eq_true, if_false]
  case h_3 => rfl

end

/-! ### The output and a changed tone mode (06 R96, R99) -/

theorem Channel.toneOutput_idle {c : Channel} (h : c.tone.state = .idle) : c.toneOutput = none := by
  simp only [Channel.toneOutput, h]

theorem Channel.toneOutput_sounding {c : Channel} {p : TonePeriod} (h : c.tone.state ≠ .idle)
    (hp : c.tone.period = some p) :
    c.toneOutput = if c.settings.level = 0 then none else some (p.pitch, c.settings.level) := by
  cases state : c.tone.state with
  | idle => exact absurd state h
  | burst => simp only [Channel.toneOutput, state, hp]
  | held => simp only [Channel.toneOutput, state, hp]

/-- Whatever else a change of settings does, the change of tone mode comes last (04 R65). -/
theorem Channel.changeSettings_tone (env : ChannelEnv) (p : Nat) (new : ChannelSettings) (c : Channel)
    (differs : c.settings.steady ≠ new.steady) : (c.changeSettings env p new).1.1.tone = Tone.idle := by
  obtain ⟨u, last⟩ : ∃ u : Channel, (c.changeSettings env p new).1.1 = u.changeToneMode c.settings := ⟨_, rfl⟩
  have settings := c.changeSettings_settings env p new
  rw [last, Channel.changeToneMode_eq rfl] at settings ⊢
  have mode : c.settings.steady ≠ u.settings.steady := by rwa [show u.settings = new from settings]
  exact if_neg mode

/-! ### The timers' commands (06 R96, R97, R101) -/

section
variable {t : Tone} {set : ChannelSettings} {now : Stamp} {p : TonePeriod}

theorem Tone.expire_over (burst : t.state = .burst) (ended : t.remaining = 0) : t.expire = Tone.idle := by
  simp only [Tone.expire, burst, ended, if_true]

theorem Tone.expire_early (early : t.state ≠ .burst ∨ t.remaining ≠ 0) : t.expire = t := by
  unfold Tone.expire
  split
  case h_1 burst => exact if_neg (early.resolve_left fun no => no burst)
  case h_2 => rfl

theorem Tone.startPeriod_idle (h : t.state = .idle) : t.startPeriod set now = t := by
  simp only [Tone.startPeriod, h]

theorem Tone.startPeriod_sounding (h : t.state ≠ .idle) (hp : t.period = some p) :
    t.startPeriod set now =
      if periodLength p.pitch ≤ elapsed p.start now then
        { t with period := some { pitch := set.pitch, start := now } }
      else t := by
  cases state : t.state with
  | idle => exact absurd state h
  | burst => simp only [Tone.startPeriod, state, hp]
  | held => simp only [Tone.startPeriod, state, hp]

end

section
variable {s : State} {n : Nat} {c : Channel} {f : Channel → Tone}

theorem onChannel_tone (hc : s.channels[n]? = some c) :
    onChannel n (fun c => ({ c with tone := f c }, [])) s =
      { s with channels := s.channels.set n { c with tone := f c } } := by
  simp only [onChannel, hc]
  rfl

theorem onChannel_tone_same (hc : s.channels[n]? = some c) (same : f c = c.tone) :
    onChannel n (fun c => ({ c with tone := f c }, [])) s = s := by
  rw [onChannel_tone hc, same, set_same hc]

end

section
variable {n : Fin 8} {now : Stamp} {s : State} {c : Channel} (hc : (elapseTo now s).channels[n.val]? = some c)
include hc

theorem execBurstExpiry_over (burst : c.tone.state = .burst) (ended : c.tone.remaining = 0) :
    exec (.burstExpiry n now) s =
      .next
        { elapseTo now s with channels := (elapseTo now s).channels.set n.val { c with tone := Tone.idle } } := by
  rw [← Tone.expire_over burst ended]
  exact congrArg Host.Outcome.next (onChannel_tone (f := fun c => c.tone.expire) hc)

theorem execBurstExpiry_early (early : c.tone.state ≠ .burst ∨ c.tone.remaining ≠ 0) :
    exec (.burstExpiry n now) s = .next (elapseTo now s) :=
  congrArg Host.Outcome.next (onChannel_tone_same (f := fun c => c.tone.expire) hc (Tone.expire_early early))

theorem execTonePeriodStart_over {p : TonePeriod} (sounds : c.tone.state ≠ .idle) (hp : c.tone.period = some p)
    (ended : periodLength p.pitch ≤ elapsed p.start now) :
    exec (.tonePeriodStart n now) s =
      .next
        { elapseTo now s with
          channels := (elapseTo now s).channels.set n.val
            { c with tone := { c.tone with period := some { pitch := c.settings.pitch, start := now } } } } := by
  rw [← (Tone.startPeriod_sounding (set := c.settings) sounds hp).trans (if_pos ended)]
  exact congrArg Host.Outcome.next (onChannel_tone (f := fun c => c.tone.startPeriod c.settings now) hc)

theorem execTonePeriodStart_leaves (leaves : c.tone.startPeriod c.settings now = c.tone) :
    exec (.tonePeriodStart n now) s = .next (elapseTo now s) :=
  congrArg Host.Outcome.next (onChannel_tone_same (f := fun c => c.tone.startPeriod c.settings now) hc leaves)

end

/-- Settles O34: the timer of a burst, the events of each tone mode, a changed mode, the output, and the two timers'
commands. -/
theorem toneTimersAct : Obligations.ToneTimersAct := by
  refine ⟨Tone.elapse_elapse, fun set now us _ => Tone.beepBurst_elapse_remaining set now us, ?events, ?mode,
    fun c => ⟨Channel.toneOutput_idle, fun p => Channel.toneOutput_sounding⟩, fun n now s c hc =>
      ⟨execBurstExpiry_over hc, execBurstExpiry_early hc,
        fun p sounds hp => ⟨execTonePeriodStart_over hc sounds hp, fun under => ?_⟩,
        fun idle => execTonePeriodStart_leaves hc (Tone.startPeriod_idle idle)⟩⟩
  case events =>
    rintro set now e t _ rfl
    refine ⟨fun k kind mode => ?_, ?_, ?_, Tone.take_other⟩
    · rw [Tone.take_beep_burst kind mode]
      exact ⟨Tone.beepBurst_idle, Tone.beepBurst_burst⟩
    · rintro k _ kind mode rfl
      rw [Tone.take_beep_steady kind mode]
      exact ⟨Tone.beepSteady_idle e.key, Tone.beepSteady_held e.key⟩
    · rintro _ kind mode rfl
      rw [Tone.take_lineIn_steady kind mode]
      exact ⟨Tone.release_last, Tone.release_shared, Tone.release_absent⟩
  case mode =>
    intro env p new c d es kept changes differs
    have idle : d.tone = Tone.idle := by simpa only [changes] using Channel.changeSettings_tone env p new c differs
    exact ⟨idle, Channel.toneOutput_idle (congrArg Tone.state idle)⟩
  · exact execTonePeriodStart_leaves hc ((Tone.startPeriod_sounding sounds hp).trans (if_neg (Nat.not_le.mpr under)))

end Sys2Proof.Machine
end

section
/-! The streamer bar's place (06 R105, R110, R111). -/

namespace Sys2Proof.Machine

/-! ### The left edge (06 R111) -/

theorem barEdge_mono (start len : Nat) {p q : Nat} (h : p ≤ q) : barEdge p start len ≤ barEdge q start len :=
  Nat.div_le_div_right (Nat.mul_le_mul_left _ (min_le_min_right _ (Nat.sub_le_sub_right h start)))

theorem barEdge_before {p start : Nat} (len : Nat) (h : p ≤ start) : barEdge p start len = 0 := by
  simp [barEdge, Nat.sub_eq_zero_of_le h]

theorem barEdge_after {p start len : Nat} (pos : 0 < len) (h : start + len * 100 ≤ p) :
    barEdge p start len = 1896 := by
  have reached : min (p - start) (len * 100) = len * 100 := Nat.min_eq_right (by omega)
  rw [barEdge, reached]
  exact Nat.mul_div_cancel _ (by omega)

/-- The bar moves one way and ends at 1896. -/
theorem barEdge_le (p start : Nat) {len : Nat} (pos : 0 < len) : barEdge p start len ≤ 1896 :=
  calc barEdge p start len
    _ ≤ barEdge (max p (start + len * 100)) start len := barEdge_mono start len (Nat.le_max_left ..)
    _ = 1896 := barEdge_after pos (Nat.le_max_right ..)

/-! ### The pixels covered and the drawing (06 R105, R110) -/

theorem bar_covers_iff (lane line pixel x : Nat) (colour : Colour) :
    (DrawItem.bar lane colour x).covers line pixel = true ↔
      135 * lane ≤ line ∧ line < 135 * lane + 108 ∧ x ≤ pixel ∧ pixel ≤ x + 23 := by
  simp only [DrawItem.covers, Bool.and_eq_true, decide_eq_true_eq, and_assoc, ← Nat.lt_succ_iff (n := x + 23)]
  rfl

theorem bar_mem_draw (p : Nat) {c : Channel} {x : Streamer} (h : c.overlay.streamer = some x) :
    .bar c.settings.lane (colourOf c.settings.colour) (barEdge p x.start x.length) ∈ c.draw p := by
  simp [Channel.draw_eq, h]

/-- Settles O36: the bar's left edge, the pixels it covers, and its place in the drawing. -/
theorem barSweepsTheLane : Obligations.BarSweepsTheLane :=
  ⟨fun p start _ pos =>
      ⟨rfl, barEdge_le p start pos, barEdge_before _, barEdge_after pos, fun _ => barEdge_mono start _⟩,
    rfl, fun lane colour x line pixel => bar_covers_iff lane line pixel x colour, fun p _ _ => bar_mem_draw p⟩

end Sys2Proof.Machine
end

section
/-! The lamp drivers (06 R102, R103). -/

namespace Sys2Proof.Machine

/-- The ready count after the first of the four steps (06 R103). -/
def Lamps.readyAfterMark (e : FiredEvent) (l : Lamps) : Nat := if e.first then min 48 (l.ready + 1) else l.ready

section
variable {e : FiredEvent} {l : Lamps}

theorem Lamps.take_lineIn (kind : e.kind = .lineIn) :
    l.take e = { ready := l.readyAfterMark e - 1, live := min 48 (l.live + 1) } := by
  cases first : e.first <;> simp [Lamps.take, Lamps.readyAfterMark, kind, first]

theorem Lamps.take_lineOut (kind : e.kind = .lineOut) :
    l.take e = { ready := l.readyAfterMark e, live := l.live - 1 } := by
  cases first : e.first <;> simp [Lamps.take, Lamps.readyAfterMark, kind, first]

theorem Lamps.take_other (notIn : e.kind ≠ .lineIn) (notOut : e.kind ≠ .lineOut) :
    l.take e = { ready := l.readyAfterMark e, live := l.live } := by
  unfold Lamps.take
  dsimp only
  split
  case h_1 kind => exact absurd kind notIn
  case h_2 kind => exact absurd kind notOut
  case h_3 => cases first : e.first <;> simp [Lamps.readyAfterMark, first]

theorem Lamps.readyAfterMark_le (h : l.ready ≤ 48) : l.readyAfterMark e ≤ 48 := by
  unfold Lamps.readyAfterMark
  split
  · exact Nat.min_le_left ..
  · exact h

/-- Neither count passes 48 (06 R102). -/
theorem Lamps.take_le (ready : l.ready ≤ 48) (live : l.live ≤ 48) : (l.take e).ready ≤ 48 ∧ (l.take e).live ≤ 48 := by
  have mark := Lamps.readyAfterMark_le (e := e) ready
  by_cases lineIn : e.kind = .lineIn
  · rw [Lamps.take_lineIn lineIn]
    exact ⟨(Nat.sub_le ..).trans mark, Nat.min_le_left ..⟩
  · by_cases lineOut : e.kind = .lineOut
    · rw [Lamps.take_lineOut lineOut]
      exact ⟨mark, (Nat.sub_le ..).trans live⟩
    · rw [Lamps.take_other lineIn lineOut]
      exact ⟨mark, live⟩

/-- A cue whose first event is its LINE_IN passes its 1 through both counts by its LINE_OUT (06 R103). -/
theorem Lamps.take_wholeCue {f : FiredEvent} (marked : e.first = true) (lineIn : e.kind = .lineIn)
    (unmarked : f.first = false) (lineOut : f.kind = .lineOut) (ready : l.ready < 48) (live : l.live < 48) :
    (l.take e).take f = l := by
  have up : l.take e = { ready := l.ready, live := l.live + 1 } := by
    have readyUp : min 48 (l.ready + 1) = l.ready + 1 := Nat.min_eq_right ready
    have liveUp : min 48 (l.live + 1) = l.live + 1 := Nat.min_eq_right live
    rw [Lamps.take_lineIn lineIn]
    simp only [Lamps.readyAfterMark, marked, if_true, readyUp, liveUp, Nat.add_sub_cancel]
  rw [up, Lamps.take_lineOut lineOut]
  simp only [Lamps.readyAfterMark, unmarked, Bool.false_eq_true, if_false, Nat.add_sub_cancel]

end

/-- Settles O37: the counts after each kind of event, the lines that follow them, and the cue that fires whole. -/
theorem lampCountsFollowEvents : Obligations.LampCountsFollowEvents := by
  refine ⟨?_, fun c => ⟨decide_eq_true_iff, decide_eq_true_iff⟩, fun e f l => Lamps.take_wholeCue,
    fun present now e c => rfl⟩
  rintro e l _ ready live rfl
  exact ⟨Lamps.take_lineIn, Lamps.take_lineOut, Lamps.take_other, Lamps.take_le ready live⟩

end Sys2Proof.Machine
end

section
/-! Arming (07 R118 to R121): what each test of an arm asks, what an arm that passed them finds, the slots it proposes and the
place it reserves (08 R142, R143, R147). -/

namespace Sys2Proof.Machine

/-! ### The lowest free entry (07 R120) -/

theorem lowestFree_eq_none_iff {α : Type} {l : List (Option α)} {k : Nat} : lowestFree k l = none ↔ none ∉ l := by
  induction l generalizing k with
  | nil => simp [lowestFree]
  | cons x l ih =>
    cases x with
    | none => simp [lowestFree]
    | some x => simp [lowestFree, ih]

theorem lowestFree_of_first {α : Type} {l : List (Option α)} {i : Nat} (k : Nat) (free : l[i]? = some none)
    (lower : ∀ j < i, l[j]? ≠ some none) : lowestFree k l = some (k + i) := by
  induction l generalizing k i with
  | nil => cases free
  | cons x l ih =>
    cases i with
    | zero =>
      cases free
      rfl
    | succ i =>
      cases x with
      | none => exact absurd rfl (lower 0 (Nat.succ_pos i))
      | some x =>
        rw [lowestFree, ih (k + 1) free fun j hj => lower (j + 1) (Nat.succ_lt_succ hj)]
        congr 1
        omega

/-- The lowest free place is free, and none below it is. -/
theorem lowestFree_eq_some_iff {α : Type} {l : List (Option α)} {i : Nat} :
    lowestFree 0 l = some i ↔ l[i]? = some none ∧ ∀ j < i, l[j]? ≠ some none := by
  refine ⟨fun h => ⟨(lowestFree_get h).2, fun j hj free => ?_⟩, fun ⟨free, lower⟩ => by
    simpa using lowestFree_of_first 0 free lower⟩
  classical
  have some_free : ∃ n, l[n]? = some none := ⟨j, free⟩
  have least := lowestFree_of_first 0 (Nat.find_spec some_free) fun n hn => Nat.find_min some_free hn
  rw [h, Nat.zero_add, Option.some.injEq] at least
  have := Nat.find_min' some_free free
  omega

/-! ### The tracks of an arm (07 R119) -/

theorem mem_tracksOf {v : Half} {x : Nat} : x ∈ tracksOf v ↔ v.getLsbD x = true := by
  rw [tracksOf, List.mem_filter, List.mem_range]
  exact ⟨And.right, fun on => ⟨BitVec.lt_of_getLsbD on, on⟩⟩

theorem tracksOf_ascending (v : Half) : (tracksOf v).Pairwise fun a b => a < b := List.pairwise_lt_range.filter _

/-- Bits outside a cue's tracks are those of the subset masked by the complement. -/
theorem and_not_ne_zero_iff (v w : Half) :
    v &&& ~~~w ≠ 0 ↔ ∃ x : Nat, v.getLsbD x = true ∧ w.getLsbD x = false := by
  constructor
  · intro some_bit
    by_contra none_out
    refine some_bit (BitVec.eq_of_getLsbD_eq fun x hx => ?_)
    cases on : v.getLsbD x with
    | false => simp [on]
    | true =>
      have : w.getLsbD x = true := by
        rw [← Bool.not_eq_false]
        exact fun off => none_out ⟨x, on, off⟩
      simp [this]
  · rintro ⟨x, on, off⟩ zero
    have bit : (v &&& ~~~w).getLsbD x = true := by
      rw [BitVec.getLsbD_and, BitVec.getLsbD_not, on, off, decide_eq_true (BitVec.lt_of_getLsbD on)]
      rfl
    rw [zero] at bit
    exact absurd bit (by simp)

theorem armTracks_eq_some {cue : Cue} {sub : Option Half} {ts : List Nat} (h : armTracks cue sub = some ts) :
    ts = tracksOf (sub.getD cue.tracks) := by
  cases sub <;>
  · simp only [armTracks] at h
    split at h <;> cases h
    rfl

/-- A track list is none of the cue's with no track in it, or with one outside the cue's. -/
theorem armTracks_eq_none_iff (cue : Cue) (sub : Option Half) :
    armTracks cue sub = none ↔
      sub.getD cue.tracks = 0
        ∨ ∃ x : Nat, (sub.getD cue.tracks).getLsbD x = true ∧ cue.tracks.getLsbD x = false := by
  cases sub with
  | none =>
    have own : ¬ ∃ x : Nat, cue.tracks.getLsbD x = true ∧ cue.tracks.getLsbD x = false := by
      rintro ⟨x, on, off⟩
      exact Bool.noConfusion (on.symm.trans off)
    simp only [armTracks, Option.getD_none, own, or_false, ite_eq_left_iff, reduceCtorEq, imp_false, not_not]
  | some v =>
    rw [Option.getD_some, ← and_not_ne_zero_iff]
    simp only [armTracks, ite_eq_left_iff, reduceCtorEq, imp_false, not_not]

theorem Takes.holds_iff (t : Takes) (x : Nat) : t.holds x = true ↔ x ∈ t.heldTracks := by
  simp [Takes.holds, Takes.heldTracks]

theorem Takes.mem_heldTracks (t : Takes) (x : Nat) :
    x ∈ t.heldTracks ↔ ∃ e ∈ t.inUse, ∃ y ∈ e.items, y.track = x := by
  simp [Takes.heldTracks]

/-! ### The slots of a key (08 R146, R147) -/

theorem Slot.isFor_iff (k : Key) (track : Nat) (y : Slot) : y.isFor k track = true ↔ y.key = k ∧ y.track = track := by
  simp [Slot.isFor]

theorem findSlot_eq_none_iff (slots : List Slot) (k : Key) (track : Nat) :
    findSlot slots k track = none ↔ ∀ y ∈ slots, y.key = k → y.track ≠ track := by
  simp [findSlot, Slot.isFor]

theorem findSlot_eq_some {slots : List Slot} {k : Key} {track : Nat} {y : Slot} (h : findSlot slots k track = some y) :
    y ∈ slots ∧ y.key = k ∧ y.track = track :=
  ⟨List.mem_of_find?_eq_some h, (Slot.isFor_iff k track y).mp (List.find?_some h)⟩

/-- The tracks of a list with no slot of a key. -/
def slotless (slots : List Slot) (k : Key) (tracks : List Nat) : List Nat :=
  tracks.filter fun x => decide (∀ y ∈ slots, y.key = k → y.track ≠ x)

theorem slotless_eq (slots : List Slot) (k : Key) (tracks : List Nat) :
    slotless slots k tracks = tracks.filter fun x => (findSlot slots k x).isNone := by
  refine List.filter_congr fun x _ => Bool.eq_iff_iff.mpr ?_
  rw [decide_eq_true_iff, ← findSlot_eq_none_iff, Option.isNone_iff_eq_none]

theorem slotsNeeded_eq (slots : List Slot) (k : Key) (tracks : List Nat) :
    slotsNeeded slots k tracks = (slotless slots k tracks).length := by
  rw [slotsNeeded, slotless_eq, List.countP_eq_length_filter]

/-- Slots behind the others are not looked at for a track that none of them is for. -/
theorem slotless_append {slots more : List Slot} {k : Key} {tracks : List Nat}
    (other : ∀ y ∈ more, ∀ x ∈ tracks, y.track ≠ x) : slotless (slots ++ more) k tracks = slotless slots k tracks := by
  refine List.filter_congr fun x hx => Bool.eq_iff_iff.mpr ?_
  rw [decide_eq_true_iff, decide_eq_true_iff]
  refine ⟨fun h y hy => h y (List.mem_append_left _ hy), fun h y hy key => ?_⟩
  exact (List.mem_append.mp hy).elim (fun old => h y old key) fun new => other y new x hx

/-- Each track without a slot, once, receives a PROVISIONAL one at the end of the table (08 R147). -/
theorem proposeSlots_eq (k : Key) {tracks : List Nat} (once : tracks.Nodup) (lo hi owner : Nat) (slots : List Slot) :
    proposeSlots k tracks lo hi owner slots =
      slots ++ (slotless slots k tracks).map fun x =>
        { key := k, track := x, base := lo, fin := hi, firmness := .provisional owner } := by
  induction tracks generalizing slots with
  | nil => exact (List.append_nil slots).symm
  | cons x tracks ih =>
    obtain ⟨fresh, once⟩ := List.nodup_cons.mp once
    have rest (slots : List Slot) : proposeSlots k (x :: tracks) lo hi owner slots =
        proposeSlots k tracks lo hi owner
          (match findSlot slots k x with
          | some _ => slots
          | none => slots ++ [{ key := k, track := x, base := lo, fin := hi, firmness := .provisional owner }]) := rfl
    rw [rest]
    cases here : findSlot slots k x with
    | some y =>
      have skipped : slotless slots k (x :: tracks) = slotless slots k tracks := by
        rw [slotless_eq, slotless_eq, List.filter_cons_of_neg (by simp [here])]
      rw [skipped]
      exact ih once slots
    | none =>
      have taken : slotless slots k (x :: tracks) = x :: slotless slots k tracks := by
        rw [slotless_eq, slotless_eq, List.filter_cons_of_pos (by simp [here])]
      dsimp only
      rw [taken, ih once, slotless_append]
      · simp
      · intro y hy z hz
        rw [List.mem_singleton.mp hy]
        rintro rfl
        exact fresh hz

/-- Every track of the arm has a slot of its key once the slots are proposed. -/
theorem findSlot_proposeSlots (k : Key) {tracks : List Nat} (once : tracks.Nodup) (lo hi owner : Nat) (slots : List Slot)
    {x : Nat} (hx : x ∈ tracks) : ∃ y : Slot, findSlot (proposeSlots k tracks lo hi owner slots) k x = some y := by
  rw [← Option.ne_none_iff_exists', ne_eq, findSlot_eq_none_iff, proposeSlots_eq k once]
  intro none_for
  by_cases lacks : ∀ y ∈ slots, y.key = k → y.track ≠ x
  · refine none_for _ (List.mem_append_right _ (List.mem_map_of_mem (a := x) ?_)) rfl rfl
    exact List.mem_filter.mpr ⟨hx, decide_eq_true lacks⟩
  · exact lacks fun y hy => none_for y (List.mem_append_left _ hy)

/-! ### The tests (07 R119) -/

section
variable {k : Key} {sub : Option Half} {s : State} {cue : Cue} {ts : List Nat}

theorem armTest_unknown (h : findCue s.cues k = none) : armTest k sub s = .error .unknownKey := by
  simp only [armTest, h]

theorem armTest_range (h : findCue s.cues k = some cue) (none_in : armTracks cue sub = none) :
    armTest k sub s = .error .range := by
  simp only [armTest, h, none_in]

variable (h : findCue s.cues k = some cue) (listed : armTracks cue sub = some ts)
include h listed

theorem armTest_busy (busy : ∃ x ∈ ts, x ∈ s.takes.heldTracks) : armTest k sub s = .error .trackBusy := by
  have held : ts.any s.takes.holds = true := by
    obtain ⟨x, hx, held⟩ := busy
    exact List.any_eq_true.mpr ⟨x, hx, (s.takes.holds_iff x).mpr held⟩
  simp only [armTest, h, listed, if_pos held]

/-- Once no track is held the free entry, the slot room and the log room are asked for, in this order. -/
theorem armTest_of_idle (idle : ∀ x ∈ ts, x ∉ s.takes.heldTracks) :
    armTest k sub s =
      match lowestFree 0 s.takes.entries with
      | none => .error .full
      | some i =>
        if 512 < s.slots.length + slotsNeeded s.slots k ts then .error .slotFull
        else if s.log.isFull && decide (s.log.collected = 0) then .error .logFull
        else .ok (cue, ts, i) := by
  have free : ts.any s.takes.holds = false := by
    rw [← Bool.not_eq_true, List.any_eq_true]
    rintro ⟨x, hx, held⟩
    exact idle x hx ((s.takes.holds_iff x).mp held)
  simp only [armTest, h, listed, free]
  rfl

theorem armTest_after_idle (idle : ∀ x ∈ ts, x ∉ s.takes.heldTracks) :
    (none ∉ s.takes.entries → armTest k sub s = .error .full)
      ∧ (none ∈ s.takes.entries → 512 < s.slots.length + slotsNeeded s.slots k ts → armTest k sub s = .error .slotFull)
      ∧ (none ∈ s.takes.entries → s.slots.length + slotsNeeded s.slots k ts ≤ 512 → s.log.isFull = true →
          s.log.collected = 0 → armTest k sub s = .error .logFull)
      ∧ ∀ i : Nat, s.takes.entries[i]? = some none → (∀ j < i, s.takes.entries[j]? ≠ some none) →
          s.slots.length + slotsNeeded s.slots k ts ≤ 512 → s.log.isFull = false ∨ s.log.collected ≠ 0 →
          armTest k sub s = .ok (cue, ts, i) := by
  rw [armTest_of_idle h listed idle]
  have first (free : none ∈ s.takes.entries) : ∃ i, lowestFree 0 s.takes.entries = some i :=
    Option.ne_none_iff_exists'.mp fun full => lowestFree_eq_none_iff.mp full free
  refine ⟨fun full => ?_, fun free slots => ?_, fun free slots full kept => ?_, fun i free lower slots room => ?_⟩
  · rw [lowestFree_eq_none_iff.mpr full]
  · obtain ⟨i, hi⟩ := first free
    rw [hi]
    exact if_pos slots
  · obtain ⟨i, hi⟩ := first free
    rw [hi]
    exact (if_neg (Nat.not_lt.mpr slots)).trans (if_pos (by simp [full, kept]))
  · rw [lowestFree_eq_some_iff.mpr ⟨free, lower⟩]
    refine (if_neg (Nat.not_lt.mpr slots)).trans (if_neg ?_)
    simp only [Bool.and_eq_true, decide_eq_true_eq]
    rintro ⟨full, kept⟩
    exact room.elim (fun no => Bool.noConfusion (no.symm.trans full)) fun some_kept => some_kept kept

end

/-- What an arm that passed its tests has found (07 R119, R120). -/
structure ArmPasses (k : Key) (sub : Option Half) (s : State) (cue : Cue) (ts : List Nat) (i : Nat) : Prop where
  found : findCue s.cues k = some cue
  listed : armTracks cue sub = some ts
  idle : ∀ x ∈ ts, x ∉ s.takes.heldTracks
  free : s.takes.entries[i]? = some none
  lowest : ∀ j < i, s.takes.entries[j]? ≠ some none
  slotRoom : s.slots.length + slotsNeeded s.slots k ts ≤ 512
  logRoom : s.log.isFull = true → s.log.collected ≠ 0

theorem armTest_passes {k : Key} {sub : Option Half} {s : State} {cue : Cue} {ts : List Nat} {i : Nat}
    (h : armTest k sub s = .ok (cue, ts, i)) : ArmPasses k sub s cue ts i := by
  unfold armTest at h
  split at h
  · cases h
  · rename_i c found
    split at h
    · cases h
    · rename_i l listed
      split at h
      · cases h
      · rename_i idle
        split at h
        · cases h
        · rename_i n first
          split at h
          · cases h
          · rename_i slots
            split at h
            · cases h
            · rename_i log
              cases h
              obtain ⟨free, lowest⟩ := lowestFree_eq_some_iff.mp first
              refine ⟨found, listed, fun x hx held => idle ?_, free, lowest, Nat.not_lt.mp slots, fun full none_kept => ?_⟩
              · exact List.any_eq_true.mpr ⟨x, hx, (s.takes.holds_iff x).mpr held⟩
              · exact log (by simp [full, none_kept])

section
variable {k : Key} {sub : Option Half} {s : State} {cue : Cue} {ts : List Nat} {i : Nat} (p : ArmPasses k sub s cue ts i)
include p

theorem ArmPasses.key : cue.key = k := by simpa using List.find?_some p.found

theorem ArmPasses.tracks : ts = tracksOf (sub.getD cue.tracks) := armTracks_eq_some p.listed

theorem ArmPasses.ascending : ts.Pairwise fun a b => a < b := p.tracks ▸ tracksOf_ascending _

theorem ArmPasses.once : ts.Nodup := p.ascending.imp Nat.ne_of_lt

end

/-! ### The log's room (08 R142, R143) -/

theorem TakeLog.isFull_iff (l : TakeLog) : l.isFull = true ↔ 256 ≤ l.records.length + l.reservations :=
  decide_eq_true_iff

theorem TakeLog.collected_eq_zero_iff (l : TakeLog) : l.collected = 0 ↔ ∀ r ∈ l.records, r.collected = false := by
  simp [TakeLog.collected]

theorem TakeLog.reserve_room {l : TakeLog} (room : l.isFull = false) :
    l.reserve = { l with reservations := l.reservations + 1 } := by
  simp only [TakeLog.reserve, room]
  rfl

/-- A full log's oldest collected record makes room (08 R143). -/
theorem TakeLog.reserve_full {l : TakeLog} {older newer : List TakeRecord} {r : TakeRecord} (full : l.isFull = true)
    (split : l.records = older ++ r :: newer) (kept : r.collected = true) (oldest : ∀ q ∈ older, q.collected = false) :
    l.reserve = { l with records := older ++ newer, reservations := l.reservations + 1 } := by
  have erased : l.records.eraseP (fun r => r.collected) = older ++ newer := by
    rw [split, List.eraseP_append_right _ fun q hq => by simp [oldest q hq], List.eraseP_cons_of_pos kept]
  simp only [TakeLog.reserve, if_pos full, TakeLog.makeRoom, erased]

end Sys2Proof.Machine
end

section
/-! What a command can do to the armed-take table, the take log and the slot table, said once (07 R120 to R137, 08
R141 to R148). -/

namespace Sys2Proof.Machine

/-! ### Entries revised and evaluated -/

/-- Of a track's items what its gate line and its slot depend on. -/
def TrackItem.standing (x : TrackItem) : Nat × GateState × Option Nat := (x.track, x.gate, x.firstOpen)

/-- Of a slot what an edit of its span leaves (07 R134). -/
def Slot.standing (y : Slot) : Key × Nat × Firmness := (y.key, y.track, y.firmness)

/-- An entry with its key and its tracks' standing kept; an OPEN one stays OPEN. -/
structure TakeEntry.Revised (e e' : TakeEntry) : Prop where
  key : e'.key = e.key
  opened : e.opened = true → e'.opened = true
  items : e'.items.map TrackItem.standing = e.items.map TrackItem.standing

/-- The gates of an OPEN entry evaluated (07 R123, R124; 08 R147). -/
theorem evalEntry_of_open (cls : MotionClass) (p : Nat) {s : State} {i : Nat} {e : TakeEntry} (h : s.takes.openAt i = some e) :
    evalEntry cls p s i =
      { s with
        takes := { s.takes with
          entries := s.takes.entries.set i (some { e with items := e.items.map (s.takes.evalItem cls p) }),
          gateLines := setGateLines (e.items.map (s.takes.evalItem cls p)) s.takes.gateLines },
        slots :=
          ((e.items.filter fun x => s.takes.gateOn cls p x && decide (x.gate ≠ .opened) && x.firstOpen.isNone).map
            TrackItem.track).foldl (fun acc t => makeFirm e.key t acc) s.slots } := by
  simp only [evalEntry, h]
  rfl

theorem evalEntry_of_none (cls : MotionClass) (p : Nat) {s : State} {i : Nat} (h : s.takes.openAt i = none) :
    evalEntry cls p s i = s := by
  simp only [evalEntry, h]

theorem replaceSpans_standing (k : Key) (items : List TrackItem) (lo hi : Nat) (slots : List Slot) :
    (items.foldl (fun acc x => replaceSpan k x.track lo hi acc) slots).map Slot.standing = slots.map Slot.standing := by
  induction items generalizing slots with
  | nil => rfl
  | cons x items ih =>
    rw [List.foldl_cons, ih, replaceSpan, List.map_map]
    refine List.map_congr_left fun y _ => ?_
    rw [Function.comp_apply]
    split
    · rfl
    · rfl

/-! ### Every command -/

/-- The changes of takes, log and slots. -/
inductive TakesMove (s : State) : State → Prop
  | still : TakesMove s s
  | arm (src : ArmSource) {k : Key} {sub : Option Half} {cue : Cue} {ts : List Nat} {i : Nat} (h : ArmPasses k sub s cue ts i) :
      TakesMove s (armEntry src cue ts i s)
  | release {i : Nat} {e : TakeEntry} (h : s.takes.armedAt i = some e) : TakesMove s (releaseEntry i e s)
  | close (st : TakeStatus) (pos : Nat) {i : Nat} {e : TakeEntry} (h : s.takes.openAt i = some e) :
      TakesMove s (writeClose st pos i e s)
  | gates (cls : MotionClass) (p : Nat) {i : Nat} {e : TakeEntry} (h : s.takes.openAt i = some e) :
      TakesMove s (evalEntry cls p s i)
  | revise {i : Nat} {e e' : TakeEntry} {slots : List Slot} (h : s.takes.entryAt i = some e) (kept : e.Revised e')
      (spans : slots.map Slot.standing = s.slots.map Slot.standing) :
      TakesMove s { s with takes := s.takes.setEntry i (some e'), slots }
  | settings {x : Takes} (entries : x.entries = s.takes.entries) (lines : x.gateLines = s.takes.gateLines) :
      TakesMove s { s with takes := x }
  | collect (n : Nat) : TakesMove s { s with log := { s.log with records := collectUpTo n s.log.records } }
  | clear {slots : List Slot} (h : slots.Sublist s.slots) : TakesMove s { s with slots }

theorem TakesMove.openCrossed (old new : Nat) (s : State) (i : Nat) : TakesMove s (openCrossed old new s i) := by
  unfold Machine.openCrossed
  split
  · exact .still
  · rename_i e h
    split
    · exact .revise (Takes.armedAt_eq_some.mp h).1 ⟨rfl, fun _ => rfl, rfl⟩ rfl
    · exact .still

theorem TakesMove.flagEntry (s : State) (i : Nat) : TakesMove s (flagEntry s i) := by
  unfold Machine.flagEntry
  split
  · exact .still
  · rename_i e h
    exact .revise (Takes.openAt_eq_some.mp h).1 ⟨rfl, id, rfl⟩ rfl

theorem TakesMove.editEntry (cue : Cue) (s : State) (i : Nat) : TakesMove s (editEntry cue s i) := by
  unfold Machine.editEntry
  split
  · exact .still
  · rename_i e h
    split
    · exact .revise (Takes.armedAt_eq_some.mp h).1 ⟨rfl, id, by rw [List.map_map]; rfl⟩ (replaceSpans_standing ..)
    · exact .still

theorem TakesMove.evalEntry (cls : MotionClass) (p : Nat) (s : State) (i : Nat) : TakesMove s (evalEntry cls p s i) := by
  cases h : s.takes.openAt i with
  | none =>
    rw [evalEntry_of_none cls p h]
    exact .still
  | some e => exact .gates cls p h

/-- Two states with the same takes, log and slots. -/
structure SameTakes (s t : State) : Prop where
  takes : t.takes = s.takes
  log : t.log = s.log
  slots : t.slots = s.slots

/-- A small move changes takes, log and slots by one of their changes, or not at all. -/
theorem Move.takesMove {b : Bool} {s t : State} (m : Move b s t) : ∃ u : State, TakesMove s u ∧ SameTakes u t := by
  have same {u : State} (m : TakesMove s u) : ∃ v : State, TakesMove s v ∧ SameTakes v u := ⟨u, m, rfl, rfl, rfl⟩
  cases m with
  | notice _ n => exact ⟨s, .still, offer_takes n s, offer_log n s, offer_slots n s⟩
  | fault _ f => exact ⟨s, .still, recordFault_takes f s, recordFault_log f s, recordFault_slots f s⟩
  | arm _ src k sub cue ts i _ h => exact same (.arm src (armTest_passes h))
  | release _ i e _ h => exact same (.release h)
  | close _ st pos i e _ h => exact same (.close st pos h)
  | gates _ cls p i => exact same (.evalEntry cls p s i)
  | opens _ old new i => exact same (.openCrossed old new s i)
  | flags i => exact same (.flagEntry s i)
  | rewindow cue i => exact same (.editEntry cue s i)
  | guards g => exact same (.settings rfl rfl)
  | takeTiming a b c => exact same (.settings rfl rfl)
  | collect n => exact same (.collect n)
  | slots _ x _ h => exact same (.clear h)
  | accept f =>
    obtain ⟨intake, replies, e⟩ := acceptFrame_touches f s
    rw [e]
    exact ⟨s, .still, rfl, rfl, rfl⟩
  | errorReply r =>
    obtain ⟨replies, e⟩ := queueErrorReply_touches r s
    rw [e]
    exact ⟨s, .still, rfl, rfl, rfl⟩
  | _ => exact ⟨s, .still, rfl, rfl, rfl⟩

/-- What each change of takes, log and slots keeps, and reset has, every step keeps. -/
theorem step_keeps_takes {P : State → Prop} (same : ∀ {s t : State}, SameTakes s t → P s → P t)
    (change : ∀ {s t : State}, TakesMove s t → P s → P t) (reset : P State.reset) {s t : State} (h : step s = .next t)
    (hs : P s) : P t := by
  have move {b : Bool} (s t : State) (m : Move b s t) (hs : P s) : P t := by
    obtain ⟨u, changes, kept⟩ := m.takesMove
    exact same kept (change changes hs)
  unfold step at h
  split at h
  · cases h
    exact same (s := s) ⟨rfl, rfl, rfl⟩ hs
  · rename_i command rest _
    have popped : P { s with pending := rest } := same (s := s) ⟨rfl, rfl, rfl⟩ hs
    cases exec_effect command h with
    | event m => exact m.keep move popped
    | @request u r m _ => exact same (s := u) ⟨rfl, rfl, rfl⟩ (m.keep move popped)
    | power => exact same (s := State.reset) ⟨rfl, rfl, rfl⟩ reset

end Sys2Proof.Machine
end

section
/-! What every step keeps of takes, log and slots (07 R115, R123; 08 R141 to R147): each change of them keeps the agreements. -/

namespace Sys2Proof.Machine

/-! ### The entries in use (07 R115) -/

theorem filterMap_id_set_perm {α : Type} {l : List (Option α)} {i : Nat} (inside : i < l.length) (x : α) :
    ((l.set i (some x)).filterMap id).Perm (x :: (l.set i none).filterMap id) := by
  induction l generalizing i with
  | nil => cases inside
  | cons y l ih =>
    cases i with
    | zero => exact .refl _
    | succ i =>
      have rest := ih (Nat.lt_of_succ_lt_succ inside)
      cases y with
      | none => exact rest
      | some y => exact (rest.cons y).trans (.swap x y _)

/-- An entry in use at a number, beside those at the others. -/
theorem Takes.inUse_setEntry {t : Takes} {i : Nat} (inside : i < t.entries.length) (e : TakeEntry) :
    (t.setEntry i (some e)).inUse.Perm (e :: (t.setEntry i none).inUse) := filterMap_id_set_perm inside e

theorem Takes.setEntry_same {t : Takes} {i : Nat} {x : Option TakeEntry} (h : t.entries[i]? = some x) : t.setEntry i x = t := by
  obtain ⟨inside, rfl⟩ := List.getElem?_eq_some_iff.mp h
  simp only [Takes.setEntry, List.set_getElem_self]

theorem Takes.inside_of_entryAt {t : Takes} {i : Nat} {e : TakeEntry} (h : t.entryAt i = some e) : i < t.entries.length :=
  (List.getElem?_eq_some_iff.mp (Takes.entryAt_eq_some h)).1

theorem Takes.inUse_of_entryAt {t : Takes} {i : Nat} {e : TakeEntry} (h : t.entryAt i = some e) :
    t.inUse.Perm (e :: (t.setEntry i none).inUse) := by
  have perm := Takes.inUse_setEntry (Takes.inside_of_entryAt h) e
  rwa [Takes.setEntry_same (Takes.entryAt_eq_some h)] at perm

theorem Takes.entryAt_set (t : Takes) {i : Nat} (inside : i < t.entries.length) (x : Option TakeEntry) (j : Nat) :
    (t.setEntry i x).entryAt j = if j = i then x else t.entryAt j := by
  unfold Takes.entryAt Takes.setEntry
  rw [List.getElem?_set]
  by_cases same : i = j
  · subst same
    simp [inside]
  · rw [if_neg same, if_neg (Ne.symm same)]

/-! ### Reservations and places (08 R142, R143) -/

/-- A reservation takes a free place, or that of the oldest collected record. -/
theorem TakeLog.reserve_cases {l : TakeLog} (room : l.isFull = true → l.collected ≠ 0) :
    (l.isFull = false ∧ l.reserve = { l with reservations := l.reservations + 1 })
      ∨ ∃ (older newer : List TakeRecord) (r : TakeRecord), l.records = older ++ r :: newer ∧ r.collected = true
        ∧ (∀ q ∈ older, q.collected = false)
        ∧ l.reserve = { l with records := older ++ newer, reservations := l.reservations + 1 } := by
  cases full : l.isFull with
  | false => exact .inl ⟨rfl, TakeLog.reserve_room full⟩
  | true =>
    have some_kept : ∃ r ∈ l.records, r.collected = true := by
      by_contra none_kept
      refine room full (l.collected_eq_zero_iff.mpr fun r hr => ?_)
      rw [← Bool.not_eq_true]
      exact fun kept => none_kept ⟨r, hr, kept⟩
    obtain ⟨q, hq, kept⟩ := some_kept
    obtain ⟨r, older, newer, before, kept, split, -⟩ := List.exists_of_eraseP (p := TakeRecord.collected) hq kept
    have oldest : ∀ q ∈ older, q.collected = false := fun q hq => Bool.not_eq_true _ ▸ before q hq
    exact .inr ⟨older, newer, r, split, kept, oldest, TakeLog.reserve_full full split kept oldest⟩

theorem collectUpTo_length (n : Nat) (l : List TakeRecord) : (collectUpTo n l).length = l.length := by
  induction l with
  | nil => rfl
  | cons r l ih =>
    rw [collectUpTo]
    split
    · rfl
    · rw [List.length_cons, ih, List.length_cons]

theorem TakesMove.booked {s t : State} (m : TakesMove s t) (h : s.booked) : t.booked := by
  obtain ⟨count, reserved, places⟩ := h
  have length {i : Nat} {x : Option TakeEntry} : (s.takes.setEntry i x).entries.length = 4 := List.length_set.trans count
  have revised {i : Nat} {e : TakeEntry} (h : s.takes.entryAt i = some e) (e' : TakeEntry) :
      (s.takes.setEntry i (some e')).inUse.length = s.takes.inUse.length :=
    (Takes.inUse_setEntry (Takes.inside_of_entryAt h) e').length_eq.trans (Takes.inUse_of_entryAt h).length_eq.symm
  have retired {i : Nat} {e : TakeEntry} (h : s.takes.entryAt i = some e) :
      s.takes.inUse.length = (s.takes.setEntry i none).inUse.length + 1 := (Takes.inUse_of_entryAt h).length_eq
  cases m with
  | still => exact ⟨count, reserved, places⟩
  | @arm src k sub cue ts i p =>
    have used (e : TakeEntry) : (s.takes.setEntry i (some e)).inUse.length = s.takes.inUse.length + 1 := by
      rw [(Takes.inUse_setEntry (List.getElem?_eq_some_iff.mp p.free).1 e).length_eq, Takes.setEntry_same p.free]
      rfl
    have log : s.log.reserve.reservations = s.log.reservations + 1
        ∧ s.log.reserve.records.length + s.log.reserve.reservations ≤ 256 := by
      rcases TakeLog.reserve_cases p.logRoom with ⟨room, eq⟩ | ⟨older, newer, r, split, -, -, eq⟩
      · rw [← Bool.not_eq_true, TakeLog.isFull_iff] at room
        rw [eq]
        exact ⟨rfl, by dsimp only; omega⟩
      · rw [eq]
        rw [split, List.length_append, List.length_cons] at places
        exact ⟨rfl, by dsimp only; rw [List.length_append]; omega⟩
    refine ⟨length, ?_, log.2⟩
    exact log.1.trans ((congrArg (· + 1) reserved).trans (used _).symm)
  | @release i e h =>
    have := retired (Takes.armedAt_eq_some.mp h).1
    refine ⟨length, ?_, ?_⟩
    · show s.log.reservations - 1 = (s.takes.setEntry i none).inUse.length
      omega
    · show s.log.records.length + (s.log.reservations - 1) ≤ 256
      omega
  | @close st pos i e h =>
    have := retired (Takes.openAt_eq_some.mp h).1
    refine ⟨length, ?_, ?_⟩
    · show s.log.reservations - 1 = (s.takes.setEntry i none).inUse.length
      omega
    · show (s.log.records ++ [_]).length + (s.log.reservations - 1) ≤ 256
      rw [List.length_append, List.length_singleton]
      omega
  | gates cls p h =>
    rw [evalEntry_of_open cls p h]
    exact ⟨length, reserved.trans (revised (Takes.openAt_eq_some.mp h).1 _).symm, places⟩
  | revise h kept spans => exact ⟨length, reserved.trans (revised h _).symm, places⟩
  | settings entries lines =>
    refine ⟨(congrArg List.length entries).trans count, reserved.trans ?_, places⟩
    simp only [Takes.inUse, entries]
  | collect n => exact ⟨count, reserved, by rw [collectUpTo_length]; exact places⟩
  | clear h => exact ⟨count, reserved, places⟩

/-! ### Take numbers (08 R141, R143, R144) -/

/-- Numbers that run on, each the one after the number before it (08 R141). -/
def numbersRun (ns : List Nat) : Prop :=
  (∀ n ∈ ns, 1 ≤ n ∧ n ≤ 65535) ∧ ns.IsChain fun a b => b = takeNumberAfter a

theorem takeNumberAfter_bounds {n : Nat} (h : 1 ≤ n ∧ n ≤ 65535) : 1 ≤ takeNumberAfter n ∧ takeNumberAfter n ≤ 65535 := by
  unfold takeNumberAfter
  split <;> omega

theorem numbersRun.concat {ns : List Nat} {n : Nat} (h : numbersRun (ns ++ [n])) :
    numbersRun (ns ++ [n] ++ [takeNumberAfter n]) := by
  obtain ⟨bounds, chain⟩ := h
  refine ⟨fun m hm => ?_, List.isChain_append.mpr ⟨chain, .singleton _, ?_⟩⟩
  · rcases List.mem_append.mp hm with hm | hm
    · exact bounds m hm
    · rw [List.mem_singleton.mp hm]
      exact takeNumberAfter_bounds (bounds n (List.mem_append_right _ List.mem_cons_self))
  · simp

/-- Fewer than 65,536 numbers that run on hold none twice. -/
theorem numbersRun.nodup {ns : List Nat} (h : numbersRun ns) (few : ns.length ≤ 65535) : ns.Nodup := by
  obtain ⟨bounds, chain⟩ := h
  have place (i d : Nat) (hd : i + d < ns.length) : ns[i + d] = (ns[i] - 1 + d) % 65535 + 1 := by
    have first := bounds ns[i] (List.getElem_mem _)
    induction d with
    | zero =>
      simp only [Nat.add_zero]
      omega
    | succ d ih =>
      have next := List.isChain_iff_getElem.mp chain (i + d) hd
      have before := ih (by omega)
      simp only [takeNumberAfter] at next
      rw [show ns[i + (d + 1)] = ns[i + d + 1] from rfl, next]
      split <;> omega
  rw [List.nodup_iff_pairwise_ne, List.pairwise_iff_getElem]
  intro i j hi hj lower same
  have first := bounds ns[i] (List.getElem_mem _)
  have far := place i (j - i) (by omega)
  simp only [Nat.add_sub_cancel' lower.le] at far
  omega

/-- A log's numbers run on to its next number, none stands twice, and the collected records are the oldest. -/
theorem TakeLog.numbered_iff (l : TakeLog) :
    l.numbered ↔ numbersRun (l.records.map TakeRecord.number ++ [l.nextNumber]) ∧ (l.records.map TakeRecord.number).Nodup
      ∧ l.records.Pairwise fun a b => b.collected = true → a.collected = true := by
  have chain : (l.records.map TakeRecord.number ++ [l.nextNumber]).IsChain (fun a b => b = takeNumberAfter a) ↔
      (∀ (i : Nat) (a b : TakeRecord), l.records[i]? = some a → l.records[i + 1]? = some b →
        b.number = takeNumberAfter a.number)
      ∧ ∀ a : TakeRecord, l.records.getLast? = some a → l.nextNumber = takeNumberAfter a.number := by
    rw [List.isChain_append, List.isChain_iff_getElem]
    refine and_congr ⟨fun run i a b ha hb => ?_, fun run i hi => ?_⟩ ⟨fun ends a ha => ?_, fun ends => ⟨.singleton _, ?_⟩⟩
    · obtain ⟨hi, rfl⟩ := List.getElem?_eq_some_iff.mp hb
      obtain ⟨_, rfl⟩ := List.getElem?_eq_some_iff.mp ha
      have next := run i (by rwa [List.length_map])
      rwa [List.getElem_map, List.getElem_map] at next
    · rw [List.length_map] at hi
      simpa using run i _ _ (List.getElem?_eq_getElem (by omega)) (List.getElem?_eq_getElem hi)
    · exact ends.2 _ (by rw [List.getLast?_map, ha]; rfl) _ rfl
    · simp only [List.getLast?_map, Option.mem_def, Option.map_eq_some_iff, List.head?_cons, Option.some.injEq]
      rintro _ ⟨a, ha, rfl⟩ _ rfl
      exact ends a ha
  have bounds : (∀ n ∈ l.records.map TakeRecord.number ++ [l.nextNumber], 1 ≤ n ∧ n ≤ 65535) ↔
      (∀ r ∈ l.records, 1 ≤ r.number ∧ r.number ≤ 65535) ∧ 1 ≤ l.nextNumber ∧ l.nextNumber ≤ 65535 := by
    rw [List.forall_mem_append, List.forall_mem_map, List.forall_mem_singleton]
  rw [TakeLog.numbered, numbersRun, bounds, chain]
  tauto

/-- The oldest record of a log gone. -/
theorem TakeLog.numbered.tail {l : TakeLog} {r : TakeRecord} {newer : List TakeRecord} (h : l.numbered)
    (split : l.records = r :: newer) (k : Nat) : TakeLog.numbered { l with records := newer, reservations := k } := by
  rw [TakeLog.numbered_iff, split] at h
  obtain ⟨⟨bounds, chain⟩, once, oldest⟩ := h
  exact (TakeLog.numbered_iff _).mpr
    ⟨⟨fun n hn => bounds n (List.mem_cons_of_mem _ hn), chain.tail⟩, once.of_cons, oldest.of_cons⟩

/-- A record written gets the next number, and the one after it comes next (08 R141). -/
theorem TakeLog.numbered.write {l : TakeLog} (h : l.numbered) (places : l.records.length ≤ 255) (r : TakeRecord) :
    (l.write r).numbered := by
  rw [TakeLog.numbered_iff] at h ⊢
  obtain ⟨run, -, oldest⟩ := h
  have numbers : (l.write r).records.map TakeRecord.number = l.records.map TakeRecord.number ++ [l.nextNumber] :=
    List.map_append
  rw [numbers]
  refine ⟨run.concat, run.nodup ?_, List.pairwise_append.mpr ⟨oldest, List.pairwise_singleton .., ?_⟩⟩
  · rw [List.length_append, List.length_map, List.length_singleton]
    omega
  · intro a _ b hb kept
    rw [List.mem_singleton.mp hb] at kept
    cases kept

/-- COLLECT_TAKES marks records from the oldest on, and leaves the others. -/
theorem collectUpTo_split (n : Nat) (l : List TakeRecord) :
    ∃ older newer : List TakeRecord, l = older ++ newer
      ∧ collectUpTo n l = older.map (fun r => { r with collected := true }) ++ newer := by
  induction l with
  | nil => exact ⟨[], [], rfl, rfl⟩
  | cons r l ih =>
    rw [collectUpTo]
    split
    · exact ⟨[r], l, rfl, rfl⟩
    · obtain ⟨older, newer, split, marked⟩ := ih
      exact ⟨r :: older, newer, by rw [split]; rfl, by rw [marked]; rfl⟩

theorem TakeLog.numbered.collect {l : TakeLog} (h : l.numbered) (n : Nat) :
    TakeLog.numbered { l with records := collectUpTo n l.records } := by
  obtain ⟨older, newer, split, marked⟩ := collectUpTo_split n l.records
  rw [TakeLog.numbered_iff] at h ⊢
  obtain ⟨run, once, oldest⟩ := h
  have numbers : (collectUpTo n l.records).map TakeRecord.number = l.records.map TakeRecord.number := by
    rw [marked, split, List.map_append, List.map_append, List.map_map]
    rfl
  rw [split, List.pairwise_append] at oldest
  refine ⟨by rw [numbers]; exact run, by rw [numbers]; exact once, ?_⟩
  dsimp only
  rw [marked, List.pairwise_append]
  have all {r : TakeRecord} (hr : r ∈ older.map fun r => { r with collected := true }) : r.collected = true := by
    obtain ⟨q, -, rfl⟩ := List.mem_map.mp hr
    rfl
  exact ⟨List.pairwise_of_forall_mem_list fun a ha _ _ _ => all ha, oldest.2.1, fun a ha _ _ _ => all ha⟩

/-- The oldest collected record is the oldest of all, so what a reservation leaves runs on as before. -/
theorem TakeLog.numbered.reserve {l : TakeLog} (h : l.numbered) (room : l.isFull = true → l.collected ≠ 0) :
    l.reserve.numbered := by
  rcases TakeLog.reserve_cases room with ⟨-, eq⟩ | ⟨older, newer, r, split, kept, before, eq⟩
  · rw [eq]
    exact h
  · obtain ⟨-, -, oldest⟩ := l.numbered_iff.mp h
    rw [split, List.pairwise_append] at oldest
    have first : older = [] := List.eq_nil_iff_forall_not_mem.mpr fun q hq =>
      Bool.noConfusion ((before q hq).symm.trans (oldest.2.2 q hq r List.mem_cons_self kept))
    subst first
    rw [eq]
    exact h.tail split _

theorem TakesMove.numbered {s t : State} (m : TakesMove s t) (booked : s.booked) (h : s.log.numbered) : t.log.numbered := by
  cases m with
  | arm src p => exact h.reserve p.logRoom
  | @close st pos i e here =>
    obtain ⟨-, reserved, places⟩ := booked
    have := (Takes.inUse_of_entryAt (Takes.openAt_eq_some.mp here).1).length_eq
    rw [List.length_cons] at this
    exact h.write (by omega) _
  | gates cls p here =>
    rw [evalEntry_of_open cls p here]
    exact h
  | collect n => exact h.collect n
  | _ => exact h

end Sys2Proof.Machine
end

section
/-! The condition of a record gate line (07 R123), and what an evaluation does to a track's items (07 R124). -/

namespace Sys2Proof.Machine

/-! ### The record gate line's condition (07 R123) -/

/-- A span in force that covers a track and contains P: its limit is then at or beyond its base. -/
theorem Takes.guardShuts_iff (t : Takes) (track p : Nat) :
    t.guardShuts track p = true ↔
      ∃ g ∈ t.guards, g.enabled = true ∧ g.tracks.getLsbD track = true ∧ g.base ≤ p ∧ p ≤ g.limit := by
  simp only [Takes.guardShuts, List.any_eq_true, Guard.shuts, Guard.inForce, Bool.and_eq_true, decide_eq_true_eq]
  refine exists_congr fun g => and_congr_right fun _ => ?_
  constructor
  · rintro ⟨⟨⟨⟨on, -⟩, covers⟩, low⟩, high⟩
    exact ⟨on, covers, low, high⟩
  · rintro ⟨on, covers, low, high⟩
    exact ⟨⟨⟨⟨on, low.trans high⟩, covers⟩, low⟩, high⟩

theorem TrackItem.inWindow_iff (x : TrackItem) (p : Nat) : x.inWindow p = true ↔ x.winStart ≤ p ∧ p < x.winEnd := by
  simp [TrackItem.inWindow]

theorem Takes.gateOn_iff (t : Takes) (cls : MotionClass) (p : Nat) (x : TrackItem) :
    t.gateOn cls p x = true ↔ cls = .play ∧ x.winStart ≤ p ∧ p < x.winEnd ∧ ¬ t.guardShuts x.track p = true := by
  simp only [Takes.gateOn, Bool.and_eq_true, decide_eq_true_eq, TrackItem.inWindow_iff, Bool.not_eq_true', Bool.not_eq_true,
    and_assoc]

/-! ### A track evaluated (07 R124) -/

section
variable {t : Takes} {cls : MotionClass} {p : Nat} {x : TrackItem}

theorem Takes.evalItem_turnsOn (on : t.gateOn cls p x = true) (shut : x.gate ≠ .opened) :
    t.evalItem cls p x = { x with gate := .opened, firstOpen := some (x.firstOpen.getD p) } := by
  have clear : t.guardShuts x.track p = false := Bool.not_eq_true _ ▸ ((t.gateOn_iff cls p x).mp on).2.2.2
  simp only [Takes.evalItem, if_pos on, clear, Bool.and_false, Bool.or_false]

theorem Takes.evalItem_turnsOff (off : ¬ t.gateOn cls p x = true) (opened : x.gate = .opened) :
    t.evalItem cls p x =
      { x with gate := .shut, lastClose := some p, guarded := x.guarded || (x.inWindow p && t.guardShuts x.track p) } := by
  simp only [Takes.evalItem, if_neg off, opened]

theorem Takes.evalItem_stays (same : t.gateOn cls p x = true ↔ x.gate = .opened) :
    t.evalItem cls p x = { x with guarded := x.guarded || (x.inWindow p && t.guardShuts x.track p) } := by
  by_cases opened : x.gate = .opened
  · simp only [Takes.evalItem, if_pos (same.mpr opened), opened]
  · simp only [Takes.evalItem, if_neg (mt same.mp opened)]

/-- A track's gate turns on, turns off, or stays as it is. -/
theorem Takes.evalItem_cases (t : Takes) (cls : MotionClass) (p : Nat) (x : TrackItem) :
    (t.gateOn cls p x = true ∧ x.gate ≠ .opened ∧ t.guardShuts x.track p = false
        ∧ t.evalItem cls p x = { x with gate := .opened, firstOpen := some (x.firstOpen.getD p) })
      ∨ (¬ t.gateOn cls p x = true ∧ x.gate = .opened
          ∧ t.evalItem cls p x =
            { x with gate := .shut, lastClose := some p, guarded := x.guarded || (x.inWindow p && t.guardShuts x.track p) })
      ∨ (t.gateOn cls p x = true ↔ x.gate = .opened)
          ∧ t.evalItem cls p x = { x with guarded := x.guarded || (x.inWindow p && t.guardShuts x.track p) } := by
  by_cases on : t.gateOn cls p x = true
  · by_cases opened : x.gate = .opened
    · exact .inr (.inr ⟨iff_of_true on opened, evalItem_stays (iff_of_true on opened)⟩)
    · exact .inl ⟨on, opened, Bool.not_eq_true _ ▸ ((t.gateOn_iff cls p x).mp on).2.2.2, evalItem_turnsOn on opened⟩
  · by_cases opened : x.gate = .opened
    · exact .inr (.inl ⟨on, opened, evalItem_turnsOff on opened⟩)
    · exact .inr (.inr ⟨iff_of_false on opened, evalItem_stays (iff_of_false on opened)⟩)

/-- GUARDED is set, and never cleared, while P lies in the window under a span (07 R124). -/
theorem Takes.evalItem_guarded :
    (t.evalItem cls p x).guarded = true ↔
      x.guarded = true ∨ x.winStart ≤ p ∧ p < x.winEnd ∧ t.guardShuts x.track p = true := by
  have eq : (t.evalItem cls p x).guarded = (x.guarded || (x.inWindow p && t.guardShuts x.track p)) := by
    rcases t.evalItem_cases cls p x with ⟨-, -, clear, eq⟩ | ⟨-, -, eq⟩ | ⟨-, eq⟩
    · rw [eq, clear, Bool.and_false, Bool.or_false]
    · rw [eq]
    · rw [eq]
  rw [eq, Bool.or_eq_true, Bool.and_eq_true, TrackItem.inWindow_iff, and_assoc]

theorem Takes.evalItem_gate : (t.evalItem cls p x).gate = .opened ↔ t.gateOn cls p x = true := by
  rcases t.evalItem_cases cls p x with ⟨on, -, -, eq⟩ | ⟨off, -, eq⟩ | ⟨same, eq⟩
  · rw [eq]
    exact iff_of_true rfl on
  · rw [eq]
    exact iff_of_false (by simp) off
  · rw [eq]
    exact same.symm

/-- An evaluation leaves a track and its window. -/
theorem Takes.evalItem_leaves :
    (t.evalItem cls p x).track = x.track ∧ (t.evalItem cls p x).winStart = x.winStart
      ∧ (t.evalItem cls p x).winEnd = x.winEnd := by
  rcases t.evalItem_cases cls p x with ⟨-, -, -, eq⟩ | ⟨-, -, eq⟩ | ⟨-, eq⟩
  · rw [eq]
    exact ⟨rfl, rfl, rfl⟩
  · rw [eq]
    exact ⟨rfl, rfl, rfl⟩
  · rw [eq]
    exact ⟨rfl, rfl, rfl⟩

/-- A track not yet opened stays so at an evaluation, but for one whose gate turns on (07 R124). -/
theorem Takes.evalItem_firstOpen (stays : ¬ (t.gateOn cls p x = true ∧ x.gate ≠ .opened)) :
    (t.evalItem cls p x).firstOpen = x.firstOpen := by
  rcases t.evalItem_cases cls p x with ⟨on, shut, -, -⟩ | ⟨-, -, eq⟩ | ⟨-, eq⟩
  · exact absurd ⟨on, shut⟩ stays
  · rw [eq]
  · rw [eq]

end

@[simp] theorem Takes.evalItem_track (t : Takes) (cls : MotionClass) (p : Nat) (x : TrackItem) :
    (t.evalItem cls p x).track = x.track := t.evalItem_leaves.1

theorem evalItems_tracks (t : Takes) (cls : MotionClass) (p : Nat) (items : List TrackItem) :
    (items.map (t.evalItem cls p)).map TrackItem.track = items.map TrackItem.track := by
  rw [List.map_map]
  exact List.map_congr_left fun x _ => t.evalItem_track cls p x

end Sys2Proof.Machine
end

section
/-! Held tracks, gate lines and the owners of slots under every step (07 R115, R123; 08 R146, R147). -/

namespace Sys2Proof.Machine

/-! ### Gate lines (07 R123) -/

theorem setLine_getLsbD {v : Half} {n k : Nat} {on : Bool} (inside : k < 16) :
    (setLine v n on).getLsbD k = if n = k then on else v.getLsbD k := by
  have one : (1#16 <<< n).getLsbD k = decide (n = k) := by
    rw [Bool.eq_iff_iff]
    simp [inside]
    omega
  cases on with
  | true =>
    simp only [setLine, if_true, BitVec.getLsbD_or, one]
    by_cases same : n = k <;> simp [same]
  | false =>
    simp only [setLine, Bool.false_eq_true, if_false, BitVec.getLsbD_and, BitVec.getLsbD_not, one, inside]
    by_cases same : n = k <;> simp [same]

theorem setLine_other {v : Half} {n k : Nat} (on : Bool) (other : n ≠ k) : (setLine v n on).getLsbD k = v.getLsbD k := by
  by_cases inside : k < 16
  · rw [setLine_getLsbD inside, if_neg other]
  · rw [BitVec.getLsbD_of_ge _ _ (by omega), BitVec.getLsbD_of_ge _ _ (by omega)]

/-- The lines of other tracks stay. -/
theorem setGateLines_other {items : List TrackItem} {k : Nat} (other : ∀ x ∈ items, x.track ≠ k) (v : Half) :
    (setGateLines items v).getLsbD k = v.getLsbD k := by
  unfold setGateLines
  induction items generalizing v with
  | nil => rfl
  | cons x items ih =>
    rw [List.foldl_cons, ih fun y hy => other y (List.mem_cons_of_mem x hy)]
    exact setLine_other _ (other x List.mem_cons_self)

/-- A track's line follows its gate, when every item of the track has its gate alike. -/
theorem setGateLines_held {items : List TrackItem} {k : Nat} {on : Bool} (inside : k < 16)
    (alike : ∀ x ∈ items, x.track = k → decide (x.gate = .opened) = on) {v : Half}
    (held : (∃ x ∈ items, x.track = k) ∨ v.getLsbD k = on) : (setGateLines items v).getLsbD k = on := by
  unfold setGateLines
  induction items generalizing v with
  | nil => exact held.resolve_left (by simp)
  | cons x items ih =>
    refine ih (fun y hy => alike y (List.mem_cons_of_mem x hy)) ?_
    rw [setLine_getLsbD inside]
    by_cases same : x.track = k
    · exact .inr ((if_pos same).trans (alike x List.mem_cons_self same))
    · rw [if_neg same]
      refine held.imp_left fun ⟨y, hy, track⟩ => ⟨y, ?_, track⟩
      exact (List.mem_cons.mp hy).resolve_left fun first => same (first ▸ track)

/-! ### Held tracks and their lines (07 R115, R123) -/

/-- The tracks of an entry. -/
def TakeEntry.tracks (e : TakeEntry) : List Nat := e.items.map TrackItem.track

/-- The gate lines follow the gates of some entries: no track is held twice, no line is on for a track that none of them
holds, and only an OPEN one has a gate open. -/
structure LinesFollow (lines : Half) (used : List TakeEntry) : Prop where
  once : (used.flatMap TakeEntry.tracks).Nodup
  inside : ∀ k ∈ used.flatMap TakeEntry.tracks, k < 16
  held : ∀ k : Nat, lines.getLsbD k = true → k ∈ used.flatMap TakeEntry.tracks
  gate : ∀ e ∈ used, ∀ x ∈ e.items, (lines.getLsbD x.track = true ↔ x.gate = .opened) ∧ (x.gate = .opened → e.opened = true)

theorem mem_flatMap_tracks {used : List TakeEntry} {k : Nat} :
    k ∈ used.flatMap TakeEntry.tracks ↔ ∃ e ∈ used, ∃ x ∈ e.items, x.track = k := by
  simp [TakeEntry.tracks]

/-- Of entries with no track held twice, a track has one item. -/
theorem item_unique {used : List TakeEntry} (once : (used.flatMap TakeEntry.tracks).Nodup) {e f : TakeEntry} (he : e ∈ used)
    (hf : f ∈ used) {x y : TrackItem} (hx : x ∈ e.items) (hy : y ∈ f.items) (same : x.track = y.track) : x = y := by
  have flat : used.flatMap TakeEntry.tracks = (used.flatMap TakeEntry.items).map TrackItem.track := List.map_flatMap.symm
  rw [flat] at once
  exact List.inj_on_of_nodup_map once (List.mem_flatMap_of_mem he hx) (List.mem_flatMap_of_mem hf hy) same

theorem Takes.coherent_iff (t : Takes) : t.coherent ↔ t.entries.length = 4 ∧ LinesFollow t.gateLines t.inUse := by
  refine ⟨fun ⟨count, once, inside, held, gate⟩ => ⟨count, once, inside, fun k on => ?_, fun e he x hx => ⟨⟨fun on => ?_,
      fun opened => (gate e he x hx opened).2⟩, fun opened => (gate e he x hx opened).1⟩⟩,
    fun ⟨count, once, inside, held, gate⟩ => ⟨count, once, inside, fun k on => ?_, fun e he x hx opened =>
      ⟨(gate e he x hx).2 opened, (gate e he x hx).1.mpr opened⟩⟩⟩
  · obtain ⟨e, he, -, x, hx, track, -⟩ := held k on
    exact mem_flatMap_tracks.mpr ⟨e, he, x, hx, track⟩
  · obtain ⟨f, hf, -, y, hy, track, opened⟩ := held x.track on
    rwa [item_unique once he hf hx hy track.symm]
  · obtain ⟨e, he, x, hx, rfl⟩ := mem_flatMap_tracks.mp (held k on)
    obtain ⟨line, opened⟩ := gate e he x hx
    exact ⟨e, he, opened (line.mp on), x, hx, rfl, line.mp on⟩

section
variable {lines lines' : Half} {used rest : List TakeEntry} {e e' : TakeEntry}

theorem LinesFollow.perm (h : LinesFollow lines used) (p : used.Perm rest) : LinesFollow lines rest where
  once := (p.flatMap_right _).nodup_iff.mp h.once
  inside k hk := h.inside k ((p.flatMap_right _).mem_iff.mpr hk)
  held k on := (p.flatMap_right _).mem_iff.mp (h.held k on)
  gate f hf := h.gate f (p.mem_iff.mpr hf)

/-- An entry is added whose tracks no other holds, with no gate open. -/
theorem LinesFollow.add (h : LinesFollow lines rest) (once : e.tracks.Nodup) (inside : ∀ k ∈ e.tracks, k < 16)
    (fresh : ∀ k ∈ e.tracks, k ∉ rest.flatMap TakeEntry.tracks) (shut : ∀ x ∈ e.items, x.gate ≠ .opened) :
    LinesFollow lines (e :: rest) where
  once := List.nodup_append'.mpr ⟨once, h.once, fresh⟩
  inside k hk := (List.mem_append.mp hk).elim (inside k) (h.inside k)
  held k on := List.mem_append_right _ (h.held k on)
  gate f hf x hx := by
    rcases List.mem_cons.mp hf with rfl | hf
    · have off : lines.getLsbD x.track ≠ true := fun on => fresh _ (List.mem_map_of_mem hx) (h.held _ on)
      exact ⟨⟨fun on => absurd on off, fun opened => absurd opened (shut x hx)⟩, fun opened => absurd opened (shut x hx)⟩
    · exact h.gate f hf x hx

/-- An entry goes, and with it the lines of its tracks. -/
theorem LinesFollow.retire (h : LinesFollow lines (e :: rest))
    (off : ∀ k : Nat, lines'.getLsbD k = true → lines.getLsbD k = true ∧ k ∉ e.tracks)
    (others : ∀ k ∉ e.tracks, lines'.getLsbD k = lines.getLsbD k) : LinesFollow lines' rest where
  once := (List.nodup_append'.mp h.once).2.1
  inside k hk := h.inside k (List.mem_append_right _ hk)
  held k on := (List.mem_append.mp (h.held k (off k on).1)).resolve_left (off k on).2
  gate f hf x hx := by
    have other : x.track ∉ e.tracks := fun own =>
      (List.nodup_append'.mp h.once).2.2 own (mem_flatMap_tracks.mpr ⟨f, hf, x, hx, rfl⟩)
    rw [others _ other]
    exact h.gate f (List.mem_cons_of_mem e hf) x hx

/-- An entry changes its gates, and the lines of its tracks with them. -/
theorem LinesFollow.change (h : LinesFollow lines (e :: rest)) (same : e'.tracks = e.tracks)
    (others : ∀ k ∉ e.tracks, lines'.getLsbD k = lines.getLsbD k)
    (gate : ∀ x ∈ e'.items, (lines'.getLsbD x.track = true ↔ x.gate = .opened) ∧ (x.gate = .opened → e'.opened = true)) :
    LinesFollow lines' (e' :: rest) where
  once := by
    rw [List.flatMap_cons, same]
    exact h.once
  inside k hk := h.inside k (by rwa [List.flatMap_cons, same] at hk)
  held k on := by
    rw [List.flatMap_cons, same]
    by_cases own : k ∈ e.tracks
    · exact List.mem_append_left _ own
    · exact h.held k (others k own ▸ on)
  gate f hf x hx := by
    rcases List.mem_cons.mp hf with rfl | hf
    · exact gate x hx
    · have other : x.track ∉ e.tracks := fun own =>
        (List.nodup_append'.mp h.once).2.2 own (mem_flatMap_tracks.mpr ⟨f, hf, x, hx, rfl⟩)
      rw [others _ other]
      exact h.gate f (List.mem_cons_of_mem e hf) x hx

end

theorem TakeEntry.shutAt_tracks (pos : Nat) (e : TakeEntry) : (e.shutAt pos).tracks = e.tracks := by
  rw [TakeEntry.tracks, TakeEntry.shutAt, List.map_map]
  exact List.map_congr_left fun x _ => x.shutAt_track pos

theorem TakeEntry.not_mem_tracks {e : TakeEntry} {k : Nat} (h : k ∉ e.tracks) : ∀ x ∈ e.items, x.track ≠ k :=
  fun _ hx track => h (track ▸ List.mem_map_of_mem hx)

theorem Takes.inUse_congr {t u : Takes} (h : t.entries = u.entries) : t.inUse = u.inUse := by
  simp only [Takes.inUse, h]

theorem TakesMove.coherent {s t : State} (m : TakesMove s t) (h : s.takes.coherent) : t.takes.coherent := by
  rw [Takes.coherent_iff] at h ⊢
  obtain ⟨count, follow⟩ := h
  have length {i : Nat} {x : Option TakeEntry} : (s.takes.setEntry i x).entries.length = 4 := List.length_set.trans count
  have among {i : Nat} {e : TakeEntry} (h : s.takes.entryAt i = some e) := follow.perm (Takes.inUse_of_entryAt h)
  have back {i : Nat} {e : TakeEntry} (h : s.takes.entryAt i = some e) (e' : TakeEntry) :=
    (Takes.inUse_setEntry (Takes.inside_of_entryAt h) e').symm
  cases m with
  | @arm src k sub cue ts i p =>
    refine ⟨length, ?_⟩
    have free := Takes.setEntry_same p.free
    refine LinesFollow.perm ?_ (Takes.inUse_setEntry (List.getElem?_eq_some_iff.mp p.free).1 _).symm
    rw [free]
    have own (e : TakeEntry) (lo hi : Nat) (slots : List Slot)
        (he : e.items = ts.map (freshItem slots cue.key lo hi)) : LinesFollow s.takes.gateLines (e :: s.takes.inUse) := by
      have tracks : e.tracks = ts := by
        rw [TakeEntry.tracks, he, List.map_map]
        exact List.map_id ts
      refine follow.add (tracks ▸ p.once) (fun k hk => ?_) (fun k hk => p.idle k (tracks ▸ hk)) fun x hx => ?_
      · rw [tracks, p.tracks, mem_tracksOf] at hk
        exact BitVec.lt_of_getLsbD hk
      · rw [he] at hx
        obtain ⟨_, -, rfl⟩ := List.mem_map.mp hx
        simp [freshItem]
    exact own _ _ _ _ rfl
  | @release i e h =>
    obtain ⟨here, armed⟩ := Takes.armedAt_eq_some.mp h
    refine ⟨length, (among here).retire (fun k on => ⟨on, fun own => ?_⟩) fun _ _ => rfl⟩
    obtain ⟨x, hx, rfl⟩ := List.mem_map.mp own
    obtain ⟨line, opened⟩ := (among here).gate e List.mem_cons_self x hx
    exact Bool.noConfusion (armed.symm.trans (opened (line.mp on)))
  | @close st pos i e h =>
    obtain ⟨here, -⟩ := Takes.openAt_eq_some.mp h
    refine ⟨length, (among here).retire (fun k on => ?_) fun k other => ?_⟩
    · obtain ⟨on, other⟩ := setGateLines_off (fun x hx => by
        obtain ⟨x, -, rfl⟩ := List.mem_map.mp hx
        exact x.shutAt_gate pos) on
      refine ⟨on, fun own => ?_⟩
      rw [← e.shutAt_tracks pos] at own
      obtain ⟨x, hx, track⟩ := List.mem_map.mp own
      exact other x hx track
    · rw [← e.shutAt_tracks pos] at other
      exact setGateLines_other (TakeEntry.not_mem_tracks other) _
  | @gates cls p i e h =>
    obtain ⟨here, opened⟩ := Takes.openAt_eq_some.mp h
    rw [evalEntry_of_open cls p h]
    have tracks := evalItems_tracks s.takes cls p e.items
    refine ⟨length, LinesFollow.perm
      ((among here).change (e' := { e with items := e.items.map (s.takes.evalItem cls p) }) tracks (fun k other => ?_)
        fun x hx => ⟨?_, fun _ => opened⟩) (back here _)⟩
    · refine setGateLines_other (fun x hx track => other ?_) _
      rw [TakeEntry.tracks, ← tracks]
      exact track ▸ List.mem_map_of_mem hx
    · have once : ((e.items.map (s.takes.evalItem cls p)).map TrackItem.track).Nodup := by
        rw [tracks]
        exact (List.nodup_append'.mp (among here).once).1
      have own : x.track ∈ e.tracks := by
        rw [TakeEntry.tracks, ← tracks]
        exact List.mem_map_of_mem hx
      rw [setGateLines_held (on := decide (x.gate = .opened)) ((among here).inside _ (List.mem_append_left _ own))
        (fun y hy track => by rw [List.inj_on_of_nodup_map once hy hx track]) (.inl ⟨x, hx, rfl⟩), decide_eq_true_iff]
  | @revise i e e' slots h kept spans =>
    have tracks : e'.tracks = e.tracks := by
      have firsts := congrArg (List.map Prod.fst) kept.items
      rw [List.map_map, List.map_map] at firsts
      exact firsts
    refine ⟨length, LinesFollow.perm ((among h).change tracks (fun _ _ => rfl) fun x hx => ?_) (back h _)⟩
    have was : x.standing ∈ e.items.map TrackItem.standing := kept.items ▸ List.mem_map_of_mem hx
    obtain ⟨y, hy, same⟩ := List.mem_map.mp was
    simp only [TrackItem.standing, Prod.mk.injEq] at same
    obtain ⟨track, gate, -⟩ := same
    rw [← track, ← gate]
    obtain ⟨line, opened⟩ := (among h).gate e List.mem_cons_self y hy
    exact ⟨line, fun on => kept.opened (opened on)⟩
  | settings entries lines =>
    rw [entries, lines, Takes.inUse_congr entries]
    exact ⟨count, follow⟩
  | _ => exact ⟨count, follow⟩

/-! ### Slots and their owners (08 R146, R147) -/

/-- The owner of a provisional slot is an entry in use of its key that holds its track and has not opened it (08 R147). -/
def Slot.owned (t : Takes) (y : Slot) : Prop :=
  ∀ i : Nat, y.firmness = .provisional i →
    ∃ e : TakeEntry, t.entryAt i = some e ∧ e.key = y.key ∧ ∃ x ∈ e.items, x.track = y.track ∧ x.firstOpen = none

/-- The key and the track that a slot is for. -/
def Slot.place (y : Slot) : Key × Nat := (y.key, y.track)

theorem State.slotsAgree_iff (s : State) :
    s.slotsAgree ↔ s.slots.length ≤ 512 ∧ (s.slots.map Slot.place).Nodup ∧ ∀ y ∈ s.slots, y.owned s.takes := by
  have once : (s.slots.Pairwise fun a b => a.key ≠ b.key ∨ a.track ≠ b.track) ↔ (s.slots.map Slot.place).Nodup := by
    rw [List.nodup_iff_pairwise_ne, List.pairwise_map]
    refine Iff.of_eq (congrArg (List.Pairwise · s.slots) ?_)
    funext a b
    simp only [Slot.place, ne_eq, Prod.mk.injEq, not_and_or]
  rw [State.slotsAgree, once]
  exact Iff.rfl

/-- A slot that is firm has no owner to agree with. -/
theorem Slot.owned_of_firm {t : Takes} {y : Slot} (h : y.firmness = .firm) : y.owned t := by
  intro i prov
  cases h.symm.trans prov

theorem makeFirms_eq (k : Key) (tracks : List Nat) (slots : List Slot) :
    tracks.foldl (fun acc n => makeFirm k n acc) slots =
      slots.map fun y => if y.key = k ∧ y.track ∈ tracks then { y with firmness := .firm } else y := by
  induction tracks generalizing slots with
  | nil => simp
  | cons n tracks ih =>
    rw [List.foldl_cons, ih, makeFirm, List.map_map]
    refine List.map_congr_left fun y _ => ?_
    simp only [Function.comp_apply, Slot.isFor_iff, List.mem_cons]
    by_cases first : y.key = k ∧ y.track = n
    · simp only [if_pos first]
      exact (ite_self _).trans (if_pos ⟨first.1, .inl first.2⟩).symm
    · rw [if_neg first]
      exact if_congr (and_congr_right fun key => (or_iff_right fun track => first ⟨key, track⟩).symm) rfl rfl

theorem releaseEntry_slots (i : Nat) (e : TakeEntry) (s : State) :
    (releaseEntry i e s).slots = e.tracks.foldl (fun acc n => dropProvisional e.key n acc) s.slots := by
  rw [TakeEntry.tracks, List.foldl_map]
  rfl

theorem mem_releaseEntry_slots (i : Nat) (e : TakeEntry) (s : State) (y : Slot) :
    y ∈ (releaseEntry i e s).slots ↔ y ∈ s.slots ∧ (y.firmness = .firm ∨ y.key ≠ e.key ∨ ∀ x ∈ e.items, x.track ≠ y.track) := by
  rw [releaseEntry_slots, mem_dropProvisionals]
  simp [TakeEntry.tracks]

theorem mem_writeClose_slots (st : TakeStatus) (pos i : Nat) (e : TakeEntry) (s : State) (y : Slot) :
    y ∈ (writeClose st pos i e s).slots ↔
      y ∈ s.slots ∧ (y.firmness = .firm ∨ y.key ≠ e.key ∨ ∀ x ∈ e.items, x.track = y.track → x.firstOpen.isSome = true) := by
  have unopened : y.track ∉ ((e.shutAt pos).items.filter fun x => x.firstOpen.isNone).map TrackItem.track ↔
      ∀ x ∈ e.items, x.track = y.track → x.firstOpen.isSome = true := by
    simp only [TakeEntry.shutAt, List.filter_map, List.map_map, List.mem_map, List.mem_filter, Function.comp_apply,
      TrackItem.shutAt_firstOpen, TrackItem.shutAt_track, Option.isNone_iff_eq_none, Option.isSome_iff_ne_none]
    exact ⟨fun h x hx track fresh => h ⟨x, ⟨hx, fresh⟩, track⟩, fun h ⟨x, ⟨hx, fresh⟩, track⟩ => h x hx track fresh⟩
  exact (mem_dropProvisionals ..).trans (and_congr_right fun _ => or_congr_right (or_congr_right unopened))

theorem releaseEntry_slots_sublist (i : Nat) (e : TakeEntry) (s : State) : (releaseEntry i e s).slots.Sublist s.slots := by
  rw [releaseEntry_slots]
  exact dropProvisionals_sublist ..

/-- A slot's owner goes only with the slot, when an entry is retired with the provisional slots of its tracks not yet
opened. -/
theorem Slot.owned.retire {t : Takes} {i : Nat} {e : TakeEntry} {y : Slot} (here : t.entryAt i = some e) (h : y.owned t)
    (left : y.firmness = .firm ∨ y.key ≠ e.key ∨ ∀ x ∈ e.items, x.track = y.track → x.firstOpen.isSome = true) :
    y.owned (t.setEntry i none) := by
  intro j prov
  obtain ⟨f, at_j, key, x, hx, track, fresh⟩ := h j prov
  rw [Takes.entryAt_set t (Takes.inside_of_entryAt here)]
  by_cases same : j = i
  · subst same
    obtain rfl : f = e := Option.some.inj (at_j.symm.trans here)
    rcases left with firm | other | opened
    · cases firm.symm.trans prov
    · exact absurd key.symm other
    · simpa [fresh] using opened x hx track
  · exact ⟨f, by rw [if_neg same, at_j], key, x, hx, track, fresh⟩

/-- A slot keeps its owner when an entry changes to one of the same key that still has not opened what the slot is for. -/
theorem Slot.owned.change {t : Takes} {i : Nat} {e e' : TakeEntry} {y z : Slot} (here : t.entryAt i = some e) (h : y.owned t)
    (same : z.standing = y.standing) (key : e'.key = e.key)
    (left : y.firmness = .provisional i → y.key = e.key → ∀ x ∈ e.items, x.track = y.track → x.firstOpen = none →
      ∃ x' ∈ e'.items, x'.track = y.track ∧ x'.firstOpen = none) : z.owned (t.setEntry i (some e')) := by
  simp only [Slot.standing, Prod.mk.injEq] at same
  obtain ⟨zkey, ztrack, firmness⟩ := same
  intro j prov
  obtain ⟨f, at_j, fkey, x, hx, track, fresh⟩ := h j (firmness ▸ prov)
  rw [Takes.entryAt_set t (Takes.inside_of_entryAt here), zkey, ztrack]
  by_cases ji : j = i
  · subst ji
    obtain rfl : f = e := Option.some.inj (at_j.symm.trans here)
    exact ⟨e', if_pos rfl, key.trans fkey, left (firmness ▸ prov) fkey.symm x hx track fresh⟩
  · exact ⟨f, by rw [if_neg ji, at_j], fkey, x, hx, track, fresh⟩

/-- The slots proposed at an arm are as many as were needed, and for other keys and tracks than the slots before (08 R147). -/
theorem proposed_once {slots : List Slot} (once : (slots.map Slot.place).Nodup) (k : Key) {tracks : List Nat}
    (uniq : tracks.Nodup) (lo hi owner : Nat) : ((proposeSlots k tracks lo hi owner slots).map Slot.place).Nodup := by
  rw [proposeSlots_eq k uniq, List.map_append, List.map_map, List.nodup_append']
  refine ⟨once, (uniq.filter _).map fun a b same => (Prod.mk.inj same).2, ?_⟩
  intro place old new
  obtain ⟨x, hx, rfl⟩ := List.mem_map.mp new
  obtain ⟨y, hy, same⟩ := List.mem_map.mp old
  obtain ⟨key, track⟩ := Prod.mk.inj same
  exact of_decide_eq_true (List.mem_filter.mp hx).2 y hy key track

theorem TakesMove.slotsAgree {s t : State} (m : TakesMove s t) (h : s.slotsAgree) : t.slotsAgree := by
  rw [State.slotsAgree_iff] at h ⊢
  obtain ⟨room, once, owned⟩ := h
  have sub {x : List Slot} (sub : x.Sublist s.slots) : x.length ≤ 512 ∧ (x.map Slot.place).Nodup :=
    ⟨sub.length_le.trans room, once.sublist (sub.map _)⟩
  cases m with
  | @arm src k sub cue ts i p =>
    have inside := (List.getElem?_eq_some_iff.mp p.free).1
    refine ⟨?_, proposed_once once _ p.once .., ?_⟩
    · show (proposeSlots ..).length ≤ 512
      rw [proposeSlots_eq _ p.once, List.length_append, List.length_map, p.key, ← slotsNeeded_eq]
      exact p.slotRoom
    · have own (e : TakeEntry) (lo hi : Nat) (slots : List Slot) (key : e.key = cue.key)
          (he : e.items = ts.map (freshItem slots cue.key lo hi)) :
          ∀ y ∈ proposeSlots cue.key ts lo hi i s.slots, y.owned (s.takes.setEntry i (some e)) := by
        rw [proposeSlots_eq _ p.once]
        intro y hy j prov
        rw [s.takes.entryAt_set inside]
        rcases List.mem_append.mp hy with old | new
        · obtain ⟨f, at_j, rest⟩ := owned y old j prov
          have other : j ≠ i := by
            rintro rfl
            cases (Takes.entryAt_eq_some at_j).symm.trans p.free
          exact ⟨f, by rw [if_neg other, at_j], rest⟩
        · obtain ⟨x, hx, rfl⟩ := List.mem_map.mp new
          cases prov
          refine ⟨e, if_pos rfl, key, freshItem slots cue.key lo hi x, ?_, rfl, rfl⟩
          rw [he]
          exact List.mem_map_of_mem (List.mem_filter.mp hx).1
      exact own _ _ _ _ rfl rfl
  | @release i e h =>
    obtain ⟨here, -⟩ := Takes.armedAt_eq_some.mp h
    obtain ⟨few, uniq⟩ := sub (releaseEntry_slots_sublist i e s)
    refine ⟨few, uniq, fun y hy => ?_⟩
    obtain ⟨old, left⟩ := (mem_releaseEntry_slots i e s y).mp hy
    exact (owned y old).retire here (left.imp_right (Or.imp_right fun none x hx track => absurd track (none x hx)))
  | @close st pos i e h =>
    obtain ⟨here, -⟩ := Takes.openAt_eq_some.mp h
    obtain ⟨few, uniq⟩ := sub (dropProvisionals_sublist ..)
    refine ⟨few, uniq, fun y hy => ?_⟩
    obtain ⟨old, left⟩ := (mem_writeClose_slots st pos i e s y).mp hy
    exact (owned y old).retire here left
  | @gates cls p i e h =>
    obtain ⟨here, -⟩ := Takes.openAt_eq_some.mp h
    rw [evalEntry_of_open cls p h, makeFirms_eq]
    refine ⟨by rwa [List.length_map], ?_, fun z hz => ?_⟩
    · have places (c : Slot → Prop) [DecidablePred c] :
          (s.slots.map fun y => if c y then { y with firmness := .firm } else y).map Slot.place = s.slots.map Slot.place := by
        rw [List.map_map]
        refine List.map_congr_left fun y _ => ?_
        rw [Function.comp_apply]
        split
        · rfl
        · rfl
      rw [places]
      exact once
    · obtain ⟨y, hy, rfl⟩ := List.mem_map.mp hz
      split
      · exact Slot.owned_of_firm rfl
      · rename_i still
        refine (owned y hy).change here rfl rfl fun _ key x hx track fresh =>
          ⟨_, List.mem_map_of_mem hx, (s.takes.evalItem_track cls p x).trans track, ?_⟩
        refine (Takes.evalItem_firstOpen fun turnsOn => still ⟨key, ?_⟩).trans fresh
        refine List.mem_map.mpr ⟨x, List.mem_filter.mpr ⟨hx, ?_⟩, track⟩
        simp [turnsOn.1, turnsOn.2, fresh]
  | @revise i e e' slots h kept spans =>
    have places : slots.map Slot.place = s.slots.map Slot.place := by
      have firsts := congrArg (List.map fun z : Key × Nat × Firmness => (z.1, z.2.1)) spans
      rw [List.map_map, List.map_map] at firsts
      exact firsts
    refine ⟨?_, places ▸ once, fun z hz => ?_⟩
    · have length := congrArg List.length spans
      rw [List.length_map, List.length_map] at length
      exact length ▸ room
    · have was : z.standing ∈ s.slots.map Slot.standing := spans ▸ List.mem_map_of_mem hz
      obtain ⟨y, hy, same⟩ := List.mem_map.mp was
      refine (owned y hy).change h same.symm kept.key fun _ _ x hx track fresh => ?_
      have held : x.standing ∈ e'.items.map TrackItem.standing := kept.items ▸ List.mem_map_of_mem hx
      obtain ⟨x', hx', same⟩ := List.mem_map.mp held
      simp only [TrackItem.standing, Prod.mk.injEq] at same
      exact ⟨x', hx', same.1.trans track, same.2.2.trans fresh⟩
  | @settings x entries lines =>
    refine ⟨room, once, fun y hy i prov => ?_⟩
    simp only [Takes.entryAt, entries]
    exact owned y hy i prov
  | clear h => exact ⟨(sub h).1, (sub h).2, fun y hy => owned y (h.subset hy)⟩
  | _ => exact ⟨room, once, owned⟩

/-! ### Every step -/

/-- Settles O54: each change of takes, log and slots keeps the four agreements, and reset has them. -/
theorem takesAndLogStayCoherent : Obligations.TakesAndLogStayCoherent := by
  have booked {s t : State} (same : SameTakes s t) (h : s.booked) : t.booked := by
    rwa [State.booked, same.takes, same.log]
  refine ⟨fun s t h e => step_keeps_takes booked TakesMove.booked reset_booked e h,
    fun s t h k e => ?_,
    fun s t h e => step_keeps_takes (P := fun s => s.takes.coherent) (fun same h => same.takes ▸ h) TakesMove.coherent
      reset_takes_coherent e h,
    fun s t h e => step_keeps_takes (fun same h => ?_) TakesMove.slotsAgree reset_slotsAgree e h⟩
  · exact (step_keeps_takes (P := fun s => s.booked ∧ s.log.numbered)
      (fun same ⟨h, k⟩ => ⟨booked same h, same.log ▸ k⟩) (fun m ⟨h, k⟩ => ⟨m.booked h, m.numbered h k⟩)
      ⟨reset_booked, reset_numbered⟩ e ⟨h, k⟩).2
  · rwa [State.slotsAgree, same.takes, same.slots]

end Sys2Proof.Machine
end

section
/-! What an arm, a freed entry and a closed one leave of the table, the log and the slots (07 R118 to R121, R129, R133; 08
R140 to R147). -/

namespace Sys2Proof.Machine

/-! ### Freeing and closing (07 R129, R133) -/

theorem TrackItem.shutAt_eq (pos : Nat) (x : TrackItem) :
    x.shutAt pos = if x.gate = .opened then { x with gate := .shut, lastClose := some pos } else x := by
  unfold TrackItem.shutAt
  split
  · rename_i on
    rw [if_pos on]
  · rename_i off
    rw [if_neg off]

theorem Slot.not_isProvisional (y : Slot) : (!y.isProvisional) = decide (y.firmness = .firm) := by
  unfold Slot.isProvisional
  cases y.firmness <;> simp

theorem recordTrack_item (slots : List Slot) (k : Key) (lo hi : Nat) (x : TrackItem) :
    (recordTrack slots k lo hi x).item = x := by
  unfold recordTrack
  split
  · rfl
  · rfl

theorem recordTrack_found {slots : List Slot} {k : Key} {lo hi : Nat} {x : TrackItem} {y : Slot}
    (h : findSlot slots k x.track = some y) :
    recordTrack slots k lo hi x =
      { item := x, slotBase := y.base, slotFin := y.fin, slotFirm := decide (y.firmness = .firm) } := by
  simp only [recordTrack, h, Slot.not_isProvisional]

/-- The record of a close holds every item of the entry as the close leaves it, with each track's slot (08 R140). -/
theorem closeRecord_tracks (r : Rate) (slots : List Slot) (st : TakeStatus) (pos : Nat) (e : TakeEntry) :
    (closeRecord r slots st pos e).tracks.map RecordTrack.item = e.items
      ∧ ∀ x ∈ (closeRecord r slots st pos e).tracks, ∀ y : Slot, findSlot slots e.key x.item.track = some y →
        x.slotBase = y.base ∧ x.slotFin = y.fin ∧ (x.slotFirm = true ↔ y.firmness = .firm) := by
  refine ⟨?_, fun x hx y found => ?_⟩
  · rw [closeRecord, List.map_map, show RecordTrack.item ∘ recordTrack slots e.key e.winStart e.winEnd = id from
      funext (recordTrack_item slots e.key e.winStart e.winEnd), List.map_id]
  · obtain ⟨z, -, rfl⟩ := List.mem_map.mp hx
    rw [recordTrack_item] at found
    rw [recordTrack_found found]
    exact ⟨rfl, rfl, decide_eq_true_iff⟩

/-- A close turns the lines of its tracks off, and no other (07 R129 step 1). -/
theorem writeClose_gateLines (st : TakeStatus) (pos i : Nat) (e : TakeEntry) (s : State) {k : Nat} (inside : k < 16) :
    (writeClose st pos i e s).takes.gateLines.getLsbD k =
      if ∃ y ∈ e.items, y.track = k then false else s.takes.gateLines.getLsbD k := by
  have lines : (writeClose st pos i e s).takes.gateLines = setGateLines (e.shutAt pos).items s.takes.gateLines := rfl
  have own : k ∈ (e.shutAt pos).tracks ↔ ∃ y ∈ e.items, y.track = k := by
    rw [e.shutAt_tracks, TakeEntry.tracks, List.mem_map]
  rw [lines]
  split
  · rename_i held
    refine setGateLines_held inside (fun x hx _ => ?_) (.inl (List.mem_map.mp (own.mpr held)))
    obtain ⟨x, -, rfl⟩ := List.mem_map.mp hx
    exact decide_eq_false (x.shutAt_gate pos)
  · rename_i other
    exact setGateLines_other (TakeEntry.not_mem_tracks (mt own.mp other)) _

/-- Settles O51: the fields of a freed and of a closed entry's state, the gate lines and the slots as sets, and the record. -/
theorem freedAndClosedEntriesLeaveTheTable : Obligations.FreedAndClosedEntriesLeaveTheTable := by
  rintro s i e -
  refine ⟨?_, ?_⟩
  · rintro _ rfl
    exact ⟨rfl, rfl, mem_releaseEntry_slots i e s⟩
  · rintro st pos _ rfl
    obtain ⟨items, slots⟩ := closeRecord_tracks s.rate s.slots st pos (e.shutAt pos)
    refine ⟨rfl, fun k => writeClose_gateLines st pos i e s, rfl,
      ⟨_, rfl, rfl, rfl, rfl, rfl, rfl, rfl, rfl, rfl, rfl, items.trans ?_, rfl, slots⟩, rfl, mem_writeClose_slots st pos i e s⟩
    exact List.map_congr_left fun x _ => x.shutAt_eq pos

/-! ### An entry armed (07 R118 to R121) -/

/-- The entry of an arm (07 R116, R120, R121). -/
def armedEntry (src : ArmSource) (cue : Cue) (ts : List Nat) (i : Nat) (s : State) : TakeEntry :=
  { key := cue.key, opened := false,
    origin := match src with | .host => .host | .pass => .pass,
    passNumber := match src with | .host => 0 | .pass => s.pass.number,
    lead := s.takes.punchLead, tail := s.takes.punchTail, winStart := cue.inPt - s.takes.punchLead * 100,
    winEnd := min (cue.outPt + s.takes.punchTail * 100) s.rate.lastPos,
    items := ts.map (freshItem (armEntry src cue ts i s).slots cue.key (cue.inPt - s.takes.punchLead * 100)
      (min (cue.outPt + s.takes.punchTail * 100) s.rate.lastPos)),
    deadline := match src with | .host => some (deadlineAfter s.counter s.takes.armWindow) | .pass => none,
    disarmAfter := false }

theorem armEntry_eq (src : ArmSource) (cue : Cue) (ts : List Nat) (i : Nat) (s : State) :
    armEntry src cue ts i s =
      { s with
        takes := { s.takes with entries := s.takes.entries.set i (some (armedEntry src cue ts i s)) },
        slots := (armEntry src cue ts i s).slots, log := s.log.reserve } := rfl

theorem armedEntry_tracks (src : ArmSource) (cue : Cue) (ts : List Nat) (i : Nat) (s : State) :
    (armedEntry src cue ts i s).items.map TrackItem.track = ts := by
  show (ts.map _).map TrackItem.track = ts
  rw [List.map_map]
  exact List.map_id ts

/-- A track's items in its slot: the intersection of the two windows, TRUNCATED when it is shorter (07 R118). -/
theorem freshItem_found {slots : List Slot} {k : Key} {lo hi x : Nat} {y : Slot} (h : findSlot slots k x = some y) :
    freshItem slots k lo hi x =
      { track := x, winStart := max lo y.base, winEnd := min hi y.fin, gate := .wait, firstOpen := none, lastClose := none,
        truncated := decide (lo < y.base ∨ y.fin < hi), guarded := false } := by
  simp only [freshItem, trackWindow, h, Bool.decide_or]

section
variable {k : Key} {sub : Option Half} {s : State} {cue : Cue} {ts : List Nat} {i : Nat} (p : ArmPasses k sub s cue ts i)
  (src : ArmSource)
include p

/-- Each track with no slot of the key receives one, and no other slot comes, goes or changes (08 R147). -/
theorem ArmPasses.slots :
    (armEntry src cue ts i s).slots =
      s.slots ++ (ts.filter fun x => decide (∀ y ∈ s.slots, y.key = cue.key → y.track ≠ x)).map fun x =>
        { key := cue.key, track := x, base := (armedEntry src cue ts i s).winStart, fin := (armedEntry src cue ts i s).winEnd,
          firmness := .provisional i } :=
  proposeSlots_eq cue.key p.once _ _ i s.slots

theorem ArmPasses.slot_of_track {x : Nat} (hx : x ∈ ts) :
    ∃ y : Slot, findSlot (armEntry src cue ts i s).slots cue.key x = some y :=
  findSlot_proposeSlots cue.key p.once _ _ i s.slots hx

/-- A track's window is the intersection of the take window and its slot (07 R118). -/
theorem ArmPasses.item (j x : Nat) (hj : ts[j]? = some x) :
    ∃ y : Slot, findSlot (armEntry src cue ts i s).slots cue.key x = some y
      ∧ (armedEntry src cue ts i s).items[j]? =
          some
            { track := x, winStart := max (armedEntry src cue ts i s).winStart y.base,
              winEnd := min (armedEntry src cue ts i s).winEnd y.fin, gate := .wait, firstOpen := none, lastClose := none,
              truncated :=
                decide ((armedEntry src cue ts i s).winStart < y.base ∨ y.fin < (armedEntry src cue ts i s).winEnd),
              guarded := false } := by
  obtain ⟨y, found⟩ := p.slot_of_track src (List.mem_of_getElem? hj)
  refine ⟨y, found, ?_⟩
  show (ts.map _)[j]? = _
  rw [List.getElem?_map, hj]
  exact congrArg some (freshItem_found found)

end

/-! ### ARM_TAKE (07 R119, R120; log 12) -/

theorem armTakePerform_range {key : WireKey} {sub : Option Half} {s : State} (h : keyOf key = none) :
    armTakePerform key sub s = refuse .range s := by
  simp only [armTakePerform, h]

theorem armTakePerform_refused {key : WireKey} {sub : Option Half} {s : State} {k : Key} {c : ResultCode}
    (h : keyOf key = some k) (test : armTest k sub s = .error c) : armTakePerform key sub s = refuse c s := by
  simp only [armTakePerform, h, test]

/-- A track in the reply of an arm, from the slot it then has (07 R120). -/
theorem armedTrackItem_found {r : Rate} {slots : List Slot} {k : Key} {x : TrackItem} {y : Slot}
    (h : findSlot slots k x.track = some y) :
    armedTrackItem r slots k x =
      b1 x.track ++ posItem r x.winStart ++ posItem r x.winEnd
        ++ (findSlot slots k x.track).toList.flatMap fun y =>
            posItem r y.base ++ posItem r y.fin ++ flag (decide (y.firmness = .firm)) ++ flag x.truncated := by
  simp [armedTrackItem, h, Slot.not_isProvisional]

theorem armTakePerform_arms {key : WireKey} {sub : Option Half} {s : State} {k : Key} {cue : Cue} {ts : List Nat} {i : Nat}
    (h : keyOf key = some k) (test : armTest k sub s = .ok (cue, ts, i)) :
    armTakePerform key sub s =
      (armEntry .host cue ts i s,
        b1 0 ++ b1 i ++ keyItem k ++ posItem s.rate (armedEntry .host cue ts i s).winStart
          ++ posItem s.rate (armedEntry .host cue ts i s).winEnd
          ++ listOf
              (fun x : TrackItem =>
                b1 x.track ++ posItem s.rate x.winStart ++ posItem s.rate x.winEnd
                  ++ (findSlot (armEntry .host cue ts i s).slots k x.track).toList.flatMap fun y =>
                      posItem s.rate y.base ++ posItem s.rate y.fin ++ flag (decide (y.firmness = .firm)) ++ flag x.truncated)
              (armedEntry .host cue ts i s).items
          ++ b2 s.takes.armWindow) := by
  have p := armTest_passes test
  have here : (armEntry .host cue ts i s).takes.entryAt i = some (armedEntry .host cue ts i s) := by
    have placed := s.takes.entryAt_set (List.getElem?_eq_some_iff.mp p.free).1 (some (armedEntry .host cue ts i s)) i
    rwa [if_pos rfl] at placed
  have items : (armedEntry .host cue ts i s).items.flatMap (armedTrackItem s.rate (armEntry .host cue ts i s).slots k) =
      (armedEntry .host cue ts i s).items.flatMap fun x =>
        b1 x.track ++ posItem s.rate x.winStart ++ posItem s.rate x.winEnd
          ++ (findSlot (armEntry .host cue ts i s).slots k x.track).toList.flatMap fun y =>
              posItem s.rate y.base ++ posItem s.rate y.fin ++ flag (decide (y.firmness = .firm)) ++ flag x.truncated := by
    refine List.flatMap_congr fun x hx => ?_
    have listed : x.track ∈ ts := armedEntry_tracks .host cue ts i s ▸ List.mem_map_of_mem hx
    obtain ⟨y, found⟩ := p.slot_of_track .host listed
    rw [p.key] at found
    exact armedTrackItem_found found
  have key : (armedEntry .host cue ts i s).key = k := p.key
  simp only [armTakePerform, h, test, armBody, here, key, listOf]
  rw [← items]
  rfl

theorem execArmTake_answers {tag : Byte} {key : WireKey} {sub : Option Half} {s t : State} {body : List Byte}
    (c : s.canTake (.armTake tag key sub) = true) (p : armTakePerform key sub s.taken = (t, body)) :
    exec (.armTake tag key sub) s = .next (t.answered 0xA0 tag body) :=
  request_answers (f := ⟨0x20, tag, wireKeyItem key ++ opt half sub⟩) rfl c p

/-- Settles O49: the tests of an arm in their order, what passing them finds, and the entry, the slots, the log and the
reply. -/
theorem armTakeArms : Obligations.ArmTakeArms := by
  refine fun tag key sub s c => ⟨fun bad => execArmTake_answers c (armTakePerform_range bad), fun k hk =>
    ⟨fun code test => execArmTake_answers c (armTakePerform_refused (s := s.taken) hk test), armTest_unknown, ?_,
      s.log.isFull_iff, s.log.collected_eq_zero_iff, fun cue found => ⟨armTest_range found, fun ts listed =>
        ⟨armTest_busy found listed, armTest_after_idle found listed⟩⟩, s.takes.mem_heldTracks,
      fun slots ts => ⟨slotsNeeded_eq slots k ts, fun x => ⟨findSlot_eq_none_iff slots k x, fun y => findSlot_eq_some⟩⟩, ?_⟩⟩
  · rintro cue _ rfl
    refine ⟨armTracks_eq_none_iff cue sub, fun ts listed => ?_⟩
    rw [armTracks_eq_some listed]
    exact ⟨tracksOf_ascending _, fun x => mem_tracksOf⟩
  · intro cue ts i test
    have p := armTest_passes test
    obtain rfl := p.key
    have p' : ArmPasses cue.key sub s.taken cue ts i := armTest_passes test
    refine ⟨p.found, p.listed, p.free, p.lowest, p.idle, armEntry .host cue ts i s.taken, armedEntry .host cue ts i s.taken,
      armEntry_eq ..,
      rfl, rfl, rfl, rfl, rfl, rfl, rfl, rfl, rfl, rfl, armedEntry_tracks .., p'.slots .host, p'.item .host,
      TakeLog.reserve_room, fun older newer r => TakeLog.reserve_full, ?_⟩
    exact execArmTake_answers c (armTakePerform_arms (s := s.taken) hk test)

end Sys2Proof.Machine
end

section
/-! SET_GUARD (07 R125, R126) and what an evaluation does to gates, items, gate lines and slots (07 R123, R124; 08 R147). -/

namespace Sys2Proof.Machine

/-! ### The entries evaluated (07 R123, R124; 08 R147) -/

/-- An entry evaluated: an OPEN one's tracks, and nothing of an ARMED one. -/
def Takes.evalTake (t : Takes) (cls : MotionClass) (p : Nat) (e : TakeEntry) : TakeEntry :=
  if e.opened then { e with items := e.items.map (t.evalItem cls p) } else e

/-- An OPEN entry's evaluation makes a slot firm: the first opening of its track (08 R147). -/
def Takes.firms (t : Takes) (cls : MotionClass) (p : Nat) (e : TakeEntry) (z : Slot) : Prop :=
  e.opened = true ∧ e.key = z.key
    ∧ ∃ x ∈ e.items, x.track = z.track ∧ t.gateOn cls p x = true ∧ x.gate ≠ .opened ∧ x.firstOpen = none

/-- What the evaluation of some entries of `s` leaves. -/
structure GatesEvaluated (cls : MotionClass) (p : Nat) (l : List Nat) (s t : State) : Prop where
  frame : t =
    { s with
      takes := { s.takes with entries := t.takes.entries, gateLines := t.takes.gateLines },
      slots := t.slots }
  evaluated : ∀ i ∈ l, t.takes.entries[i]? = s.takes.entries[i]?.map (Option.map (s.takes.evalTake cls p))
  others : ∀ i ∉ l, t.takes.entries[i]? = s.takes.entries[i]?
  count : t.slots.length = s.slots.length
  firm : ∀ (k : Nat) (z : Slot), s.slots[k]? = some z →
    (∃ i ∈ l, ∃ e, s.takes.entryAt i = some e ∧ s.takes.firms cls p e z) → t.slots[k]? = some { z with firmness := .firm }
  same : ∀ (k : Nat) (z : Slot), s.slots[k]? = some z →
    (¬ ∃ i ∈ l, ∃ e, s.takes.entryAt i = some e ∧ s.takes.firms cls p e z) → t.slots[k]? = some z
  lines : ∀ k : Nat, (∀ i ∈ l, ∀ e, s.takes.entryAt i = some e → e.opened = true → k ∉ e.tracks) →
    t.takes.gateLines.getLsbD k = s.takes.gateLines.getLsbD k

theorem GatesEvaluated.refl (cls : MotionClass) (p : Nat) (s : State) : GatesEvaluated cls p [] s s where
  frame := rfl
  evaluated i hi := by cases hi
  others _ _ := rfl
  count := rfl
  firm _ _ _ := by simp
  same _ _ hz _ := hz
  lines _ _ := rfl

theorem GatesEvaluated.one (cls : MotionClass) (p : Nat) (s : State) (i : Nat) :
    GatesEvaluated cls p [i] s (evalEntry cls p s i) := by
  cases h : s.takes.openAt i with
  | none =>
    rw [evalEntry_of_none cls p h]
    have none_open {e : TakeEntry} (here : s.takes.entryAt i = some e) : ¬ e.opened = true := fun opened => by
      cases h.symm.trans (Takes.openAt_eq_some.mpr ⟨here, opened⟩)
    refine ⟨rfl, fun j hj => ?_, fun _ _ => rfl, rfl, ?_, fun _ _ hz _ => hz, fun _ _ => rfl⟩
    · obtain rfl := List.mem_singleton.mp hj
      cases here : s.takes.entries[j]? with
      | none => rfl
      | some x =>
        cases x with
        | none => rfl
        | some e => simp [Takes.evalTake, none_open (Takes.entryAt_of_get here)]
    · rintro k z - ⟨j, hj, e, here, opened, -⟩
      obtain rfl := List.mem_singleton.mp hj
      exact absurd opened (none_open here)
  | some e =>
    obtain ⟨here, opened⟩ := Takes.openAt_eq_some.mp h
    have get := Takes.entryAt_eq_some here
    have only {j : Nat} {f : TakeEntry} (hj : j ∈ [i]) (f_here : s.takes.entryAt j = some f) : f = e := by
      obtain rfl := List.mem_singleton.mp hj
      exact Option.some.inj (f_here.symm.trans here)
    have opening (z : Slot) : (∃ j ∈ [i], ∃ f, s.takes.entryAt j = some f ∧ s.takes.firms cls p f z) ↔
        z.key = e.key ∧ z.track ∈ (e.items.filter fun x => s.takes.gateOn cls p x && decide (x.gate ≠ .opened)
          && x.firstOpen.isNone).map TrackItem.track := by
      simp only [List.mem_map, List.mem_filter, Bool.and_eq_true, decide_eq_true_eq, Option.isNone_iff_eq_none]
      constructor
      · rintro ⟨j, hj, f, f_here, -, key, x, hx, track, on, shut, fresh⟩
        obtain rfl := only hj f_here
        exact ⟨key.symm, x, ⟨hx, ⟨on, shut⟩, fresh⟩, track⟩
      · rintro ⟨key, x, ⟨hx, ⟨on, shut⟩, fresh⟩, track⟩
        exact ⟨i, List.mem_singleton_self i, e, here, opened, key.symm, x, hx, track, on, shut, fresh⟩
    rw [evalEntry_of_open cls p h, makeFirms_eq]
    refine ⟨rfl, fun j hj => ?_, fun j hj => ?_, List.length_map _, fun k z hz firms => ?_, fun k z hz stays => ?_,
      fun k other => ?_⟩
    · obtain rfl := List.mem_singleton.mp hj
      rw [get, List.getElem?_set_self (List.getElem?_eq_some_iff.mp get).1]
      simp [Takes.evalTake, opened]
    · exact List.getElem?_set_ne fun (same : i = j) => hj (same ▸ List.mem_singleton_self i)
    · rw [List.getElem?_map, hz, Option.map_some, if_pos ((opening z).mp firms)]
    · rw [List.getElem?_map, hz, Option.map_some, if_neg (mt (opening z).mpr stays)]
    · refine setGateLines_other (fun x hx track => ?_) _
      obtain ⟨y, hy, rfl⟩ := List.mem_map.mp hx
      rw [Takes.evalItem_track] at track
      exact other i (List.mem_singleton_self i) e here opened (track ▸ List.mem_map_of_mem hy)

/-- Entries evaluated one after the other: each reads the guard spans alone and its own entry. -/
theorem GatesEvaluated.cons {cls : MotionClass} {p i : Nat} {l : List Nat} {s t u : State} (fresh : i ∉ l)
    (h : GatesEvaluated cls p [i] s t) (k : GatesEvaluated cls p l t u) : GatesEvaluated cls p (i :: l) s u := by
  have guards : t.takes.guards = s.takes.guards := by rw [h.frame]
  have on (x : TrackItem) : t.takes.gateOn cls p x = s.takes.gateOn cls p x := by
    simp only [Takes.gateOn, Takes.guardShuts, guards]
  have item : t.takes.evalItem cls p = s.takes.evalItem cls p := by
    funext x
    simp only [Takes.evalItem, on, Takes.guardShuts, guards]
  have take : t.takes.evalTake cls p = s.takes.evalTake cls p := by
    funext e
    simp only [Takes.evalTake, item]
  have apart {j : Nat} (hj : j ∈ l) : j ∉ [i] := fun same => fresh (List.mem_singleton.mp same ▸ hj)
  have entry {j : Nat} (hj : j ∈ l) : t.takes.entryAt j = s.takes.entryAt j := by
    rw [Takes.entryAt, h.others j (apart hj), Takes.entryAt]
  have firms (e : TakeEntry) (z : Slot) : t.takes.firms cls p e z ↔ s.takes.firms cls p e z := by
    simp only [Takes.firms, on]
  have split (z : Slot) : (∃ j ∈ i :: l, ∃ e, s.takes.entryAt j = some e ∧ s.takes.firms cls p e z) ↔
      (∃ j ∈ [i], ∃ e, s.takes.entryAt j = some e ∧ s.takes.firms cls p e z)
        ∨ ∃ j ∈ l, ∃ e, t.takes.entryAt j = some e ∧ t.takes.firms cls p e z := by
    have later : (∃ j ∈ l, ∃ e, s.takes.entryAt j = some e ∧ s.takes.firms cls p e z) ↔
        ∃ j ∈ l, ∃ e, t.takes.entryAt j = some e ∧ t.takes.firms cls p e z :=
      exists_congr fun j => and_congr_right fun hj => exists_congr fun e => by rw [entry hj, firms]
    rw [← later, ← List.singleton_append]
    simp only [List.mem_append, or_and_right, exists_or]
  refine ⟨?_, fun j hj => ?_, fun j hj => ?_, k.count.trans h.count, fun n z hz opens => ?_, fun n z hz stays => ?_,
    fun n other => ?_⟩
  · rw [k.frame, h.frame]
  · rcases List.mem_cons.mp hj with rfl | hj
    · rw [k.others j fresh, h.evaluated j (List.mem_singleton_self j)]
    · rw [k.evaluated j hj, h.others j (apart hj), take]
  · obtain ⟨ne, no⟩ := not_or.mp (mt List.mem_cons.mpr hj)
    rw [k.others j no, h.others j fun same => ne (List.mem_singleton.mp same)]
  · by_cases first : ∃ j ∈ [i], ∃ e, s.takes.entryAt j = some e ∧ s.takes.firms cls p e z
    · have now := h.firm n z hz first
      by_cases later : ∃ j ∈ l, ∃ e, t.takes.entryAt j = some e ∧ t.takes.firms cls p e { z with firmness := .firm }
      · exact k.firm n { z with firmness := .firm } now later
      · exact k.same n { z with firmness := .firm } now later
    · exact k.firm n z (h.same n z hz first) (((split z).mp opens).resolve_left first)
  · obtain ⟨first, later⟩ := not_or.mp (mt (split z).mpr stays)
    exact k.same n z (h.same n z hz first) later
  · refine (k.lines n fun j hj e here => other j (List.mem_cons_of_mem i hj) e (entry hj ▸ here)).trans (h.lines n ?_)
    intro j hj
    obtain rfl := List.mem_singleton.mp hj
    exact other j List.mem_cons_self

theorem GatesEvaluated.foldl (cls : MotionClass) (p : Nat) {l : List Nat} (once : l.Nodup) (s : State) :
    GatesEvaluated cls p l s (l.foldl (evalEntry cls p) s) := by
  induction l generalizing s with
  | nil => exact .refl cls p s
  | cons i l ih =>
    obtain ⟨fresh, once⟩ := List.nodup_cons.mp once
    exact .cons fresh (.one cls p s i) (ih once _)

theorem evalGates_evaluated (cls : MotionClass) (p : Nat) (s : State) :
    GatesEvaluated cls p entryNumbers s (evalGates cls p s) := .foldl cls p List.nodup_range s

/-- The gate lines follow the gates at an evaluation too (07 R123). -/
theorem evalGates_coherent (cls : MotionClass) (p : Nat) {s : State} (h : s.takes.coherent) :
    (evalGates cls p s).takes.coherent :=
  List.foldlRecOn entryNumbers (evalEntry cls p) (motive := fun u => u.takes.coherent) h
    fun u k i _ => (TakesMove.evalEntry cls p u i).coherent k

section
variable (cls : MotionClass) (p : Nat) {s : State} (entries : s.takes.entries.length = 4)
include entries

theorem evalGates_entry (i : Nat) :
    (evalGates cls p s).takes.entries[i]? = s.takes.entries[i]?.map (Option.map (s.takes.evalTake cls p)) := by
  have all := evalGates_evaluated cls p s
  by_cases hi : i < 4
  · exact all.evaluated i (List.mem_range.mpr hi)
  · rw [all.others i (mt List.mem_range.mp hi), List.getElem?_eq_none (by omega)]
    rfl

theorem evalGates_entryAt (i : Nat) :
    (evalGates cls p s).takes.entryAt i = (s.takes.entryAt i).map (s.takes.evalTake cls p) := by
  rw [Takes.entryAt, evalGates_entry cls p entries, Takes.entryAt]
  cases s.takes.entries[i]? <;> rfl

theorem entryAt_numbered {e : TakeEntry} : (∃ i ∈ entryNumbers, s.takes.entryAt i = some e) ↔ e ∈ s.takes.inUse := by
  rw [Takes.mem_inUse_iff]
  refine ⟨fun ⟨i, _, here⟩ => ⟨i, here⟩, fun ⟨i, here⟩ => ⟨i, List.mem_range.mpr ?_, here⟩⟩
  exact entries ▸ Takes.inside_of_entryAt here

/-- The evaluated entries of a coherent table have their lines on exactly for their open gates (07 R123). -/
theorem evalGates_line (coherent : s.takes.coherent) {e : TakeEntry} (he : e ∈ s.takes.inUse) (opened : e.opened = true)
    {x : TrackItem} (hx : x ∈ e.items) :
    (evalGates cls p s).takes.gateLines.getLsbD x.track = true ↔ s.takes.gateOn cls p x = true := by
  obtain ⟨-, follow⟩ := (Takes.coherent_iff _).mp (evalGates_coherent cls p coherent)
  obtain ⟨i, here⟩ := (s.takes.mem_inUse_iff e).mp he
  have used : s.takes.evalTake cls p e ∈ (evalGates cls p s).takes.inUse :=
    (Takes.mem_inUse_iff _ _).mpr ⟨i, by rw [evalGates_entryAt cls p entries, here]; rfl⟩
  rw [Takes.evalTake, if_pos opened] at used
  have line := (follow.gate _ used _ (List.mem_map_of_mem hx)).1
  rwa [Takes.evalItem_track, Takes.evalItem_gate] at line

end

/-! ### SET_GUARD (07 R126) -/

/-- A present field that passes its test holds what the test read. -/
theorem testField_given {α β : Type} {test : α → Option β} {v : α} {u : Option β} (h : testField test (some v) = some u) :
    ∃ y : β, test v = some y ∧ u = some y := by
  obtain ⟨y, hy, rfl⟩ := Option.map_eq_some_iff.mp h
  exact ⟨y, hy, rfl⟩

theorem Guard.update_eq_none_iff (r : Rate) (x : GuardItems) (g : Guard) :
    g.update r x = none ↔
      (∃ b : Byte, x.enabled = some b ∧ 1 < b.toNat)
        ∨ ∃ w : WirePos, (x.base = some w ∨ x.limit = some w) ∧ posField r w = none := by
  have fields : g.update r x = none ↔ testField yesNo x.enabled = none ∨ testField (posField r) x.base = none
      ∨ testField (posField r) x.limit = none := by
    unfold Guard.update
    cases testField yesNo x.enabled with
    | none => simp
    | some enabled =>
      cases testField (posField r) x.base with
      | none => simp
      | some base => cases testField (posField r) x.limit <;> simp
  simp only [fields, testField_eq_none_iff, yesNo_eq_none_iff, or_and_right, exists_or]

/-- A SET_GUARD whose fields pass their tests, made of what each field reads as. -/
theorem Guard.update_eq_some {r : Rate} {x : GuardItems} {g g' : Guard} {moved : Bool} (h : g.update r x = some (g', moved)) :
    ∃ (enabled : Option Bool) (base limit : Option (Nat × Bool)),
      testField yesNo x.enabled = some enabled ∧ testField (posField r) x.base = some base
        ∧ testField (posField r) x.limit = some limit
        ∧ g' = { enabled := enabled.getD g.enabled, tracks := x.tracks.getD g.tracks, base := (base.getD (g.base, false)).1,
                 limit := (limit.getD (g.limit, false)).1 }
        ∧ moved = ((base.getD (g.base, false)).2 || (limit.getD (g.limit, false)).2) := by
  unfold Guard.update at h
  split at h
  · rename_i enabled base limit he hb hl
    cases h
    exact ⟨enabled, base, limit, he, hb, hl, rfl, rfl⟩
  · cases h

/-- A position field moved a skipped label exactly when it is present and reads so (01 R12). -/
theorem testField_moved {r : Rate} {v : Option WirePos} {u : Option (Nat × Bool)}
    (h : testField (posField r) v = some u) (d : Nat) :
    (u.getD (d, false)).2 = true ↔ ∃ (w : WirePos) (a : Nat), v = some w ∧ posField r w = some (a, true) := by
  cases v with
  | none =>
    cases h
    simp
  | some w =>
    obtain ⟨⟨a, m⟩, hw, rfl⟩ := testField_given h
    simp [hw]

/-- A position field that is present holds its position, and an absent one the old (07 R126). -/
theorem testField_position {r : Rate} {v : Option WirePos} {u : Option (Nat × Bool)}
    (h : testField (posField r) v = some u) (d : Nat) :
    (v = none → (u.getD (d, false)).1 = d)
      ∧ ∀ w : WirePos, v = some w → ∃ m : Bool, posField r w = some ((u.getD (d, false)).1, m) := by
  refine ⟨?_, ?_⟩
  · rintro rfl
    cases h
    rfl
  · rintro w rfl
    obtain ⟨⟨a, m⟩, hw, rfl⟩ := testField_given h
    exact ⟨m, hw⟩

theorem Guard.update_reads {r : Rate} {x : GuardItems} {g g' : Guard} {moved : Bool} (h : g.update r x = some (g', moved)) :
    (x.enabled = none → g'.enabled = g.enabled)
      ∧ (∀ b : Byte, x.enabled = some b → (g'.enabled = true ↔ b = 1))
      ∧ (x.tracks = none → g'.tracks = g.tracks) ∧ (∀ v : Half, x.tracks = some v → g'.tracks = v)
      ∧ (x.base = none → g'.base = g.base) ∧ (x.limit = none → g'.limit = g.limit)
      ∧ (∀ w : WirePos, x.base = some w → ∃ m : Bool, posField r w = some (g'.base, m))
      ∧ (∀ w : WirePos, x.limit = some w → ∃ m : Bool, posField r w = some (g'.limit, m))
      ∧ (moved = true ↔
          ∃ (w : WirePos) (a : Nat), (x.base = some w ∨ x.limit = some w) ∧ posField r w = some (a, true)) := by
  obtain ⟨enabled, base, limit, he, hb, hl, rfl, rfl⟩ := Guard.update_eq_some h
  obtain ⟨oldBase, newBase⟩ := testField_position hb g.base
  obtain ⟨oldLimit, newLimit⟩ := testField_position hl g.limit
  refine ⟨fun absent => ?_, fun b given => ?_, fun absent => ?_, fun v given => ?_, oldBase, oldLimit, newBase, newLimit, ?_⟩
  · rw [absent] at he
    cases he
    rfl
  · rw [given] at he
    obtain ⟨y, hy, rfl⟩ := testField_given he
    exact yesNo_eq_some hy
  · exact congrArg (·.getD g.tracks) absent
  · exact congrArg (·.getD g.tracks) given
  · rw [Bool.or_eq_true, testField_moved hb, testField_moved hl]
    simp only [or_and_right, exists_or]

theorem execSetGuard_answers {tag n : Byte} {x : GuardItems} {s t : State} {body : List Byte}
    (c : s.canTake (.setGuard tag n x) = true) (p : setGuardPerform n x s.taken = (t, body)) :
    exec (.setGuard tag n x) s = .next (t.answered 0x8D tag body) :=
  request_answers (f := ⟨0x0D, tag, n :: guardPayload x⟩) rfl c p

theorem setGuardPerform_noSpan {n : Byte} {x : GuardItems} {s : State} (h : s.takes.guards[n.toNat]? = none) :
    setGuardPerform n x s = refuse .range s := by
  simp only [setGuardPerform, h]

section
variable {n : Byte} {x : GuardItems} {s : State} {g : Guard} (h : s.takes.guards[n.toNat]? = some g)
include h

theorem setGuardPerform_range (bad : g.update s.rate x = none) : setGuardPerform n x s = refuse .range s := by
  simp only [setGuardPerform, h, bad]

theorem setGuardPerform_sets {g' : Guard} {moved : Bool} (good : g.update s.rate x = some (g', moved)) :
    setGuardPerform n x s =
      (evalGates s.tracker.cls s.tracker.head { s with takes := { s.takes with guards := s.takes.guards.set n.toNat g' } },
        b1 (if moved then 1 else 0) ++ [n] ++ flag g'.enabled ++ half g'.tracks ++ posItem s.rate g'.base
          ++ posItem s.rate g'.limit ++ flag (g'.enabled && decide (g'.base ≤ g'.limit))) := by
  simp only [setGuardPerform, h, good, okOr_item, Guard.item, Guard.inForce, List.append_assoc]

end

/-- Settles O53: the request and its fields, then an evaluation by what it leaves of each entry, slot and line. -/
theorem guardsShutGates : Obligations.GuardsShutGates := by
  refine ⟨fun tag n x s c => ⟨fun no => execSetGuard_answers c (setGuardPerform_noSpan (s := s.taken) no), fun g hg =>
      ⟨fun bad => execSetGuard_answers c (setGuardPerform_range (s := s.taken) hg bad),
        fun g' moved good => execSetGuard_answers c (setGuardPerform_sets (s := s.taken) hg good)⟩⟩,
    fun r x g => ⟨Guard.update_eq_none_iff r x g, fun g' moved => Guard.update_reads⟩, ?_, ?_⟩
  · rintro cls p s _ shut on rfl shut_iff on_iff entries
    have all := evalGates_evaluated cls p s
    have shuts (x : TrackItem) : s.takes.guardShuts x.track p = true ↔ shut x := by rw [s.takes.guardShuts_iff, shut_iff]
    have gate (x : TrackItem) : s.takes.gateOn cls p x = true ↔ on x := by rw [s.takes.gateOn_iff, shuts, on_iff]
    refine ⟨all.frame, fun i free => ?_, fun i e here => ⟨fun armed => ?_, fun opened => ?_⟩, all.count,
      fun k z opens hz opens_iff => ?_, fun k => ⟨fun none_held => ?_, fun coherent e he opened x hx track => ?_⟩⟩
    · rw [evalGates_entry cls p entries, free]
      rfl
    · rw [evalGates_entry cls p entries, here]
      simp [Takes.evalTake, armed]
    · refine ⟨e.items.map (s.takes.evalItem cls p), ?_, List.length_map _,
        fun j x hx => ⟨s.takes.evalItem cls p x, ?_, ?_, ?_, ?_, ?_⟩⟩
      · rw [evalGates_entry cls p entries, here]
        simp [Takes.evalTake, opened]
      · rw [List.getElem?_map, hx]
        rfl
      · exact fun isOn wasShut => Takes.evalItem_turnsOn ((gate x).mpr isOn) wasShut
      · intro isOff wasOpen
        rw [Takes.evalItem_turnsOff (mt (gate x).mp isOff) wasOpen]
      · intro same
        rw [Takes.evalItem_stays ((gate x).trans same)]
      · rw [Takes.evalItem_guarded, shuts]
    · have opening : opens ↔ ∃ i ∈ entryNumbers, ∃ e, s.takes.entryAt i = some e ∧ s.takes.firms cls p e z := by
        rw [opens_iff]
        simp only [← entryAt_numbered entries, Takes.firms, gate]
        constructor
        · rintro ⟨e, ⟨i, hi, here⟩, firms⟩
          exact ⟨i, hi, e, here, firms⟩
        · rintro ⟨i, hi, e, here, firms⟩
          exact ⟨e, ⟨i, hi, here⟩, firms⟩
      exact ⟨fun first => all.firm k z hz (opening.mp first), fun stays => all.same k z hz (mt opening.mpr stays)⟩
    · refine all.lines k fun i hi e here opened own => ?_
      obtain ⟨x, hx, track⟩ := List.mem_map.mp own
      exact none_held e ((s.takes.mem_inUse_iff e).mpr ⟨i, here⟩) opened x hx track
    · rw [← track, evalGates_line cls p entries coherent he opened hx, gate]
  · intro cls p s i e entries here opened x hx
    rw [evalGates_entryAt cls p entries] at here
    obtain ⟨f, -, rfl⟩ := Option.map_eq_some_iff.mp here
    have was : f.opened = true := by
      rw [Takes.evalTake] at opened
      split at opened
      · assumption
      · exact opened
    rw [Takes.evalTake, if_pos was] at hx
    obtain ⟨y, -, rfl⟩ := List.mem_map.mp hx
    obtain ⟨-, start, fin⟩ := Takes.evalItem_leaves (t := s.takes) (cls := cls) (p := p) (x := y)
    rw [Takes.evalItem_gate, s.takes.gateOn_iff, s.takes.guardShuts_iff, start, fin, Takes.evalItem_track]
    simp only [not_exists, not_and]

end Sys2Proof.Machine
end

section
/-! How a pass starts and moves through its phases (09 R156 to R160): the start of a cycle with its arm, the phase test, and
each report in each phase. -/

namespace Sys2Proof.Machine

/-! ### A pass start (09 R156, R157; 07 R121) -/

/-- The pass in hand as a cycle starts it (09 R156 steps 2 and 3). -/
def PassInHand.started (start : Nat) (stop : Option Nat) (h : PassInHand) : PassInHand :=
  { h with
    playReached := false, arm := none, result := none, startPt := start, endPt := stop, answered := false,
    recordAtStart := h.record }

/-- The state of a cycle's start, before its arm and its LOC (09 R156). -/
def cycleStarts (h : PassInHand) (s : State) : State :=
  { s with pass := { s.pass with number := nextPassNumber s.pass.number, state := .locating, inHand := some h } }

section
variable {h : PassInHand} {s : State} {start : Nat} {stop : Option Nat}
  (points : s.passPoints h.mode h.first h.last h.target = (start, stop))
include points

theorem beginCycle_eq :
    beginCycle h s =
      if h.arms then
        match armForPass (h.started start stop) (cycleStarts (h.started start stop) s) with
        | .error c => abortPass .armRefused (some c) (cycleStarts (h.started start stop) s)
        | .ok (h', s2) => sendOwned .loc h' (enterPhase .locating h' s2)
      else
        sendOwned .loc (h.started start stop)
          (enterPhase .locating (h.started start stop) (cycleStarts (h.started start stop) s)) := by
  unfold beginCycle
  rw [points]
  rfl

theorem beginCycle_unarmed (plain : h.record = false ∨ h.mode = .run ∨ h.mode = .locate) :
    beginCycle h s =
      sendOwned .loc (h.started start stop)
        (enterPhase .locating (h.started start stop) (cycleStarts (h.started start stop) s)) := by
  have no_arm : h.arms = false := by
    rcases plain with off | run | locate
    · simp [PassInHand.arms, off]
    · simp [PassInHand.arms, run]
    · simp [PassInHand.arms, locate]
  rw [beginCycle_eq points, no_arm]
  rfl

section
variable (record : h.record = true) (mode : h.mode = .single ∨ h.mode = .cycle) {k : Key} (first : h.first = some k)
include record mode first

theorem beginCycle_refused {c : ResultCode}
    (test : armTest k none (cycleStarts (h.started start stop) s) = .error c) :
    beginCycle h s = abortPass .armRefused (some c) (cycleStarts (h.started start stop) s) := by
  have arms : h.arms = true := by rcases mode with m | m <;> simp [PassInHand.arms, record, m]
  have first' : (h.started start stop).first = some k := first
  rw [beginCycle_eq points, if_pos arms]
  simp only [armForPass, first', test]

theorem beginCycle_armed {cue : Cue} {ts : List Nat} {i : Nat}
    (test : armTest k none (cycleStarts (h.started start stop) s) = .ok (cue, ts, i)) :
    beginCycle h s =
      sendOwned .loc { h.started start stop with arm := some i }
        (enterPhase .locating { h.started start stop with arm := some i }
          (armEntry .pass cue ts i (cycleStarts (h.started start stop) s))) := by
  have arms : h.arms = true := by rcases mode with m | m <;> simp [PassInHand.arms, record, m]
  have first' : (h.started start stop).first = some k := first
  rw [beginCycle_eq points, if_pos arms]
  simp only [armForPass, first', test]

end

end

/-! ### The phase test (09 R158, R159, R161) -/

section
variable {snap : Snap} {s : State} {h : PassInHand} (held : s.pass.inHand = some h)
include held

theorem phaseTest_unanswered (no : h.answered = false) : phaseTest snap s = s := by
  simp only [phaseTest, held, no, Bool.false_eq_true, if_false]

theorem phaseTest_locating (answered : h.answered = true) (st : s.pass.state = .locating) :
    phaseTest snap s =
      if parkedAtStart snap h.startPt then
        if h.mode = .locate then completeCycle s else sendOwned .play h (enterPhase .rollingUp h s)
      else s := by
  simp only [phaseTest, held, answered, if_true, st]

theorem phaseTest_rollingUp (answered : h.answered = true) (st : s.pass.state = .rollingUp) :
    phaseTest snap s = if snap.cls = .play ∧ snap.settled then enterRolling h snap.head s else s := by
  simp only [phaseTest, held, answered, if_true, st]

theorem phaseTest_ending (answered : h.answered = true) (st : s.pass.state = .ending) :
    phaseTest snap s = if snap.cls = .still then completeCycle s else s := by
  simp only [phaseTest, held, answered, if_true, st]

end

theorem parkedAtStart_iff (snap : Snap) (p : Nat) :
    parkedAtStart snap p = true ↔
      snap.state = .parked ∧ frameOf p ≤ frameOf snap.head + 2 ∧ frameOf snap.head ≤ frameOf p + 2 := by
  simp only [parkedAtStart, Bool.and_eq_true, decide_eq_true_eq, and_assoc]

theorem enterRolling_before {h : PassInHand} {p : Nat} {s : State} (before : h.atEnd p = false) :
    enterRolling h p s = { s with pass := { s.pass with state := .rolling, deadline := none } } := by
  simp only [enterRolling, before, Bool.false_eq_true, if_false]

theorem enterRolling_at {h : PassInHand} {p : Nat} {s : State} (at_end : h.atEnd p = true) :
    enterRolling h p s = enterEnding h s := by
  simp only [enterRolling, if_pos at_end]
  rfl

/-! ### Reports in the phases (09 R158 to R161) -/

section
variable {s : State} {h : PassInHand} (held : s.pass.inHand = some h) (rep : Report)
include held

theorem passReport_locating (st : s.pass.state = .locating) : passReport rep s = phaseTest rep.snap s := by
  simp only [passReport, held, st]

theorem passReport_rollingUp (st : s.pass.state = .rollingUp) : passReport rep s = rollingUpReport rep h s := by
  simp only [passReport, held, st]

theorem passReport_rolling (st : s.pass.state = .rolling) : passReport rep s = rollingReport rep h s := by
  simp only [passReport, held, st]

theorem passReport_ending (st : s.pass.state = .ending) : passReport rep s = endingReport rep s := by
  simp only [passReport, held, st]

end

/-- In ROLLING_UP every report but a class change makes the phase test (09 R159). -/
theorem rollingUpReport_tests {rep : Report} {h : PassInHand} {s : State}
    (other : ∀ old new : MotionClass, rep.kind ≠ .classChange old new) : rollingUpReport rep h s = phaseTest rep.snap s := by
  unfold rollingUpReport
  split
  · rename_i old new kind
    exact absurd kind (other old new)
  · rfl

/-- In ENDING every report but a class change and a relocate makes the phase test (09 R161). -/
theorem endingReport_tests {rep : Report} {s : State} (other : ∀ old new : MotionClass, rep.kind ≠ .classChange old new)
    (stays : ∀ old new : Nat, rep.kind ≠ .relocate old new) : endingReport rep s = phaseTest rep.snap s := by
  unfold endingReport
  split
  · rename_i old new kind
    exact absurd kind (other old new)
  · rename_i old new kind
    exact absurd kind (stays old new)
  · rfl

section
variable {snap : Snap} {h : PassInHand} {s : State} {old new : MotionClass}

theorem rollingUpReport_class :
    rollingUpReport { kind := .classChange old new, snap } h s =
      if new = .none then abortPass .lost none s
      else if h.playReached ∧ old = .play then abortPass .motion none s
      else if new = .play then phaseTest snap (markPlayReached s)
      else phaseTest snap s := rfl

theorem rollingReport_class :
    rollingReport { kind := .classChange old new, snap } h s =
      if new = .none then abortPass .lost none s else if old = .play then abortPass .motion none s else s := rfl

theorem endingReport_class :
    endingReport { kind := .classChange old new, snap } s =
      if new = .none then abortPass .lost none s
      else phaseTest snap (if old = .play then closeAllOpen .broken snap.head s else s) := rfl

end

theorem markPlayReached_eq {s : State} {h : PassInHand} (held : s.pass.inHand = some h) :
    markPlayReached s = { s with pass := { s.pass with inHand := some { h with playReached := true } } } := by
  simp only [markPlayReached, held, Option.map_some]

theorem closeAtRelocate_play {rep : Report} {old : Nat} {s : State} (play : rep.snap.cls = .play) :
    closeAtRelocate rep old s = s := if_pos play

theorem closeAtRelocate_other {rep : Report} {old : Nat} {s : State} (other : rep.snap.cls ≠ .play) :
    closeAtRelocate rep old s = closeAllOpen .broken old s := if_neg other

/-! ### Notices (09 R167) -/

theorem State.passNotice_eq {s : State} (why : PassEnd) (last discarded : Bool) (refusal : Option ResultCode) (h : PassInHand)
    {pos : Option Nat} (no_class : s.tracker.cls = .none → pos = none)
    (some_class : s.tracker.cls ≠ .none → pos = some s.tracker.head) :
    s.passNotice why last refusal discarded h =
      .pass
        { reason := why, number := s.pass.number, mode := h.mode, first := h.first, ordinal := h.ordinal, last,
          recording := h.recordAtStart, result := h.result, refusal, queuedDiscarded := discarded, position := pos } := by
  have position : s.faultPosition = pos := by
    unfold State.faultPosition
    split
    · rename_i none
      exact (no_class none).symm
    · rename_i present
      exact (some_class present).symm
  rw [State.passNotice, position]

/-! ### Completion (09 R161) -/

theorem PassInHand.goesOn_iff (h : PassInHand) :
    h.goesOn = true ↔ h.mode = .cycle ∧ h.lastFlag = false ∧ (h.cycles = 0 ∨ h.ordinal < h.cycles) := by
  simp only [PassInHand.goesOn, Bool.and_eq_true, Bool.or_eq_true, decide_eq_true_eq, Bool.not_eq_true', and_assoc]

theorem freePassArm_none {s : State} {h : PassInHand} (held : s.pass.inHand = some h) (no_arm : h.arm = none) :
    freePassArm s = s := by
  simp only [freePassArm, held, Option.bind_some, no_arm]

theorem freePassArm_some {s : State} {h : PassInHand} (held : s.pass.inHand = some h) {i : Nat} (arm : h.arm = some i) :
    freePassArm s = freeArmed (.lapse .pass) i s := by
  simp only [freePassArm, held, Option.bind_some, arm]

/-- A completion, from the state `u` that its freed arm leaves. -/
theorem completeCycle_of_held {s u : State} {h : PassInHand} (freed : freePassArm s = u) (held : u.pass.inHand = some h) :
    completeCycle s =
      if h.goesOn then
        beginCycle { h with ordinal := (nextOrdinal h.ordinal u.freeDraws).1 }
          { offer (u.passNotice .done (!h.goesOn) none false h) u with freeDraws := (nextOrdinal h.ordinal u.freeDraws).2 }
      else startQueued (enterIdle (offer (u.passNotice .done (!h.goesOn) none false h) u)) := by
  unfold completeCycle
  rw [freed]
  simp only [held, offer_freeDraws]

section
variable {s : State} {h : PassInHand} (held : s.pass.inHand = some h)
include held

theorem passTakeClosed_own {i : Nat} (arm : h.arm = some i) (number : Nat) (st : TakeStatus) (disarm : Bool) :
    passTakeClosed i number st disarm s =
      { s with
        pass := { s.pass with
          inHand := some { h with
            arm := none, result := some (number, st), record := if disarm then false else h.record } } } := by
  simp only [passTakeClosed, held, if_pos arm]

theorem passArmFreed_own {i : Nat} (arm : h.arm = some i) (cause : FreeCause) :
    passArmFreed i cause s =
      { s with
        pass := { s.pass with
          inHand := some { h with arm := none, record := if cause = .disarm then false else h.record } } } := by
  simp only [passArmFreed, held, if_pos arm]

theorem passTakeClosed_other {i : Nat} (other : h.arm ≠ some i) (number : Nat) (st : TakeStatus) (disarm : Bool) :
    passTakeClosed i number st disarm s = s := by
  simp only [passTakeClosed, held, if_neg other]

theorem passArmFreed_other {i : Nat} (other : h.arm ≠ some i) (cause : FreeCause) : passArmFreed i cause s = s := by
  simp only [passArmFreed, held, if_neg other]

/-- A completion with the arm still ARMED is the completion of the state without it (R161 step 1). -/
theorem completeCycle_armed {i : Nat} {e : TakeEntry} (arm : h.arm = some i) (here : s.takes.entries[i]? = some (some e))
    (armed : e.opened = false) (origin : e.origin = .pass) :
    completeCycle s = completeCycle (freeArmed (.lapse .pass) i s) := by
  have told := (freeArmed_armed here (.lapse .pass) armed rfl).2 origin
  have pass : (offer (.armLapsed i e.key e.origin .pass) (releaseEntry i e s)).pass.inHand = some h := by
    rw [offer_pass]
    exact held
  rw [passArmFreed_own pass arm] at told
  have freed : (freeArmed (.lapse .pass) i s).pass.inHand = some { h with arm := none } := by rw [told]; rfl
  rw [completeCycle_of_held (freePassArm_some held arm) freed, completeCycle_of_held (freePassArm_none freed rfl) freed]

section
variable (no_arm : h.arm = none)
include no_arm

theorem completeCycle_next (goes : h.goesOn = true) (below : h.ordinal < 65535) :
    completeCycle s =
      beginCycle { h with ordinal := h.ordinal + 1 } (offer (s.passNotice .done false none false h) s) := by
  have same : ({ offer (s.passNotice .done false none false h) s with freeDraws := s.freeDraws } : State)
      = offer (s.passNotice .done false none false h) s := by
    conv_lhs => rw [← offer_freeDraws (s.passNotice .done false none false h) s]
  rw [completeCycle_of_held (freePassArm_none held no_arm) held, if_pos goes, nextOrdinal, if_pos below, goes]
  exact congrArg (beginCycle _) same

theorem completeCycle_wraps (goes : h.goesOn = true) (top : 65535 ≤ h.ordinal) :
    ∃ n : Nat, 1 ≤ n ∧ n ≤ 65535 ∧ ∀ told : State, told = offer (s.passNotice .done false none false h) s →
      completeCycle s = beginCycle { h with ordinal := n } { told with freeDraws := s.freeDraws + 1 } := by
  refine ⟨1 + (Config.freeOrdinal s.freeDraws).toNat % 65535, by omega, by omega, ?_⟩
  rintro _ rfl
  rw [completeCycle_of_held (freePassArm_none held no_arm) held, if_pos goes, nextOrdinal, if_neg (by omega), goes]
  rfl

theorem completeCycle_last (ends : h.goesOn = false) :
    completeCycle s = startQueued (enterIdle (offer (s.passNotice .done true none false h) s)) := by
  rw [completeCycle_of_held (freePassArm_none held no_arm) held, ends]
  rfl

end

end

/-! ### Aborts (09 R165, R166) -/

/-- An abort from the state `freed` that its closes and its freed arm leave: its notice, IDLE, and a STOP by its reason. -/
theorem abortPass_of_held {s freed : State} {f : PassInHand} (reason : PassEnd) (refusal : Option ResultCode)
    (hu : freePassArm (closeAllOpen reason.closeStatus s.tracker.head s) = freed) (held : freed.pass.inHand = some f) :
    ∃ transport : Transport, abortPass reason refusal s =
      { enterIdle (offer (freed.passNotice reason true refusal freed.pass.queued.isSome f)
          { freed with pass := { freed.pass with queued := none } }) with transport } := by
  unfold abortPass
  rw [hu]
  simp only [held]
  split
  · exact ⟨_, rfl⟩
  · exact ⟨_, rfl⟩

/-- An abort writes the records of the takes that it closes, and no other (09 R166 step 1). -/
theorem abortPass_records {s : State} {h : PassInHand} (reason : PassEnd) (refusal : Option ResultCode)
    (held : s.pass.inHand = some h) (entries : s.takes.entries.length = 4) :
    ∃ records : List TakeRecord, (abortPass reason refusal s).log.records = s.log.records ++ records
      ∧ records.length = s.takes.openCount
      ∧ ∀ r ∈ records, r.status = reason.closeStatus ∧ r.closePos = s.tracker.head := by
  obtain ⟨records, closed, keys, made⟩ := closeAllOpen_records reason.closeStatus s.tracker.head entries
  have ends := (Retires.closeAllOpen reason.closeStatus s.tracker.head s).trans (.freePassArm _)
  obtain ⟨f, hf⟩ := ends.pass
  have left : (freePassArm (closeAllOpen reason.closeStatus s.tracker.head s)).pass.inHand = some (f h) := by
    rw [hf, PassCtl.editHand, held]
    rfl
  obtain ⟨transport, eq⟩ := abortPass_of_held reason refusal rfl left
  have spares_arm (u : State) : SparesOpen u (freePassArm u) := by
    unfold freePassArm
    split
    · exact .refl u
    · exact .freeArmed _ _ u
  have idle (u : State) : SparesOpen u (enterIdle u) :=
    SparesOpen.trans (t := { u with pass := { u.pass with state := .idle, inHand := none, deadline := none } }) (.of rfl rfl)
      (.testSafePoint _)
  refine ⟨records, ?_, ?_, fun r hr => ⟨(made r hr).1, (made r hr).2.1⟩⟩
  · rw [eq, ← closed]
    refine (idle _).records.trans ?_
    rw [offer_log]
    exact (spares_arm _).records
  · have lengths := congrArg List.length keys
    rwa [List.length_map, List.length_map, ← Takes.openCount_eq] at lengths

/-! ### Queued passes (09 R156, R161 step 4) -/

/-- The keys of a queued pass hold when each is in the active bank and they stand in table order. -/
theorem State.keysHold_eq_false_iff (s : State) (q : QueuedPass) :
    s.keysHold q = false ↔
      (∃ k : Key, (q.first = some k ∨ q.last = some k) ∧ findCue s.cues k = none)
        ∨ ∃ a b : Key, q.mode = .run ∧ q.first = some a ∧ q.last = some b ∧ indexOfKey b s.cues < indexOfKey a s.cues := by
  have backward :
      (∃ a b : Key, q.mode = .run ∧ q.first = some a ∧ q.last = some b ∧ indexOfKey b s.cues < indexOfKey a s.cues) ↔
        s.runBackward q.mode q.first q.last = true := by
    rw [State.runBackward_iff]
    simp only [exists_and_left]
  rw [backward]
  simp only [State.keysHold, Bool.and_eq_false_iff, Bool.not_eq_false', State.keyPresent_eq_false_iff, or_and_right, exists_or]

theorem startQueued_starts {s : State} {q : QueuedPass} (queued : s.pass.queued = some q) (hold : s.keysHold q = true) :
    startQueued s = beginCycle q.inHand { s with pass := { s.pass with queued := none } } := by
  simp only [startQueued, queued]
  exact if_pos hold

theorem startQueued_fails {s : State} {q : QueuedPass} (queued : s.pass.queued = some q) (fail : s.keysHold q = false) :
    startQueued s = failKeys q { s with pass := { s.pass with queued := none } } := by
  simp only [startQueued, queued]
  exact if_neg (Bool.not_eq_true _ ▸ fail)

/-! ### Answers (09 R169) -/

theorem State.owns_iff (s : State) (o : Option RequestOwner) :
    s.owns o = true ↔ s.pass.inHand ≠ none ∧ ∃ x : RequestOwner, o = some x ∧ x.number = s.pass.number := by
  cases o with
  | none => simp [State.owns]
  | some x => simp [State.owns, Option.isSome_iff_ne_none]

theorem requestGranted_owned {req : TransportRequest} {s : State} {h : PassInHand} (owned : s.owns req.owner = true)
    (held : s.pass.inHand = some h) :
    requestGranted req s =
      phaseTest s.tracker.snap
        { s with pass := { s.pass with inHand := some { h with answered := true } }, transport := s.transport.finish } := by
  simp only [requestGranted, if_pos owned, held, Option.map_some]

end Sys2Proof.Machine
end

section
/-! The pass controller's phases, completions and aborts put together (09 R156 to R169): what a recording cycle's arm leaves,
and what each report does in each phase. -/

namespace Sys2Proof.Machine

/-! ### The phases with their motions (09 R158 to R161) -/

section
variable {snap : Snap} {s : State} {h : PassInHand} (held : s.pass.inHand = some h)
include held

theorem phaseTest_parked (st : s.pass.state = .locating) (answered : h.answered = true) :
    (snap.state = .parked → frameOf h.startPt ≤ frameOf snap.head + 2 → frameOf snap.head ≤ frameOf h.startPt + 2 →
        (h.mode = .locate → phaseTest snap s = completeCycle s)
          ∧ (h.mode ≠ .locate → phaseTest snap s = sendOwned .play h (enterPhase .rollingUp h s)))
      ∧ (snap.state ≠ .parked ∨ frameOf snap.head + 2 < frameOf h.startPt ∨ frameOf h.startPt + 2 < frameOf snap.head →
          phaseTest snap s = s) := by
  rw [phaseTest_locating held answered st]
  refine ⟨fun parked low high => ?_, fun away => if_neg fun at_start => ?_⟩
  · rw [if_pos ((parkedAtStart_iff snap h.startPt).mpr ⟨parked, low, high⟩)]
    exact ⟨fun locate => if_pos locate, fun other => if_neg other⟩
  · obtain ⟨parked, low, high⟩ := (parkedAtStart_iff snap h.startPt).mp at_start
    rcases away with moving | before | beyond
    · exact moving parked
    · omega
    · omega

theorem phaseTest_settled (st : s.pass.state = .rollingUp) (answered : h.answered = true) :
    (snap.cls = .play → snap.settled = true → h.atEnd snap.head = false →
        phaseTest snap s = { s with pass := { s.pass with state := .rolling, deadline := none } })
      ∧ (snap.cls = .play → snap.settled = true → h.atEnd snap.head = true → phaseTest snap s = enterEnding h s)
      ∧ (snap.cls ≠ .play ∨ snap.settled = false → phaseTest snap s = s) := by
  rw [phaseTest_rollingUp held answered st]
  refine ⟨fun play settled before => (if_pos ⟨play, settled⟩).trans (enterRolling_before before),
    fun play settled beyond => (if_pos ⟨play, settled⟩).trans (enterRolling_at beyond), fun waits => if_neg ?_⟩
  rintro ⟨play, settled⟩
  exact waits.elim (fun other => other play) fun no => Bool.noConfusion (no.symm.trans settled)

theorem passReport_rolling_moves (st : s.pass.state = .rolling) (old new : Nat) (step0 : Bool) :
    (h.atEnd new = false →
        passReport { kind := .advance old new step0, snap } s = s ∧ passReport { kind := .relocate old new, snap } s = s)
      ∧ (h.atEnd new = true →
          passReport { kind := .advance old new step0, snap } s = enterEnding h s
            ∧ (snap.cls = .play → passReport { kind := .relocate old new, snap } s = enterEnding h s)
            ∧ (snap.cls ≠ .play →
                passReport { kind := .relocate old new, snap } s = closeAllOpen .broken old (enterEnding h s))) := by
  simp only [passReport_rolling held _ st, rollingReport]
  refine ⟨fun before => ?_, fun beyond => ?_⟩
  · simp only [before, Bool.false_eq_true, if_false, and_self]
  · simp only [beyond, if_true, true_and]
    exact ⟨fun play => closeAtRelocate_play (rep := { kind := .relocate old new, snap }) play,
      fun other => closeAtRelocate_other (rep := { kind := .relocate old new, snap }) other⟩

/-- A class change in and after ROLLING_UP (09 R159 to R161, R163, R165). -/
theorem passReport_class (old new : MotionClass) :
    (s.pass.state = .rollingUp ∨ s.pass.state = .rolling ∨ s.pass.state = .ending → new = .none →
        passReport { kind := .classChange old new, snap } s = abortPass .lost none s)
      ∧ (s.pass.state = .rollingUp ∧ h.playReached = true ∨ s.pass.state = .rolling → old = .play → new ≠ .none →
          passReport { kind := .classChange old new, snap } s = abortPass .motion none s)
      ∧ (s.pass.state = .rollingUp → h.playReached = false ∨ old ≠ .play → new = .play →
          passReport { kind := .classChange old new, snap } s =
            phaseTest snap { s with pass := { s.pass with inHand := some { h with playReached := true } } })
      ∧ (s.pass.state = .rollingUp → h.playReached = false ∨ old ≠ .play → new ≠ .play → new ≠ .none →
          passReport { kind := .classChange old new, snap } s = phaseTest snap s)
      ∧ (s.pass.state = .rolling → old ≠ .play → new ≠ .none → passReport { kind := .classChange old new, snap } s = s)
      ∧ (s.pass.state = .ending → new ≠ .none →
          (old = .play →
              passReport { kind := .classChange old new, snap } s = phaseTest snap (closeAllOpen .broken snap.head s))
            ∧ (old ≠ .play → passReport { kind := .classChange old new, snap } s = phaseTest snap s)) := by
  have not_both (stays : h.playReached = false ∨ old ≠ .play) : ¬ (h.playReached = true ∧ old = .play) := by
    rintro ⟨reached, left⟩
    exact stays.elim (fun no => Bool.noConfusion (no.symm.trans reached)) fun ne => ne left
  refine ⟨fun st lost => ?_, fun st left present => ?_, fun st stays play => ?_, fun st stays other present => ?_,
    fun st stays present => ?_, fun st present => ⟨fun left => ?_, fun stays => ?_⟩⟩
  · rcases st with st | st | st
    · rw [passReport_rollingUp held _ st, rollingUpReport_class, if_pos lost]
    · rw [passReport_rolling held _ st, rollingReport_class, if_pos lost]
    · rw [passReport_ending held _ st, endingReport_class, if_pos lost]
  · rcases st with ⟨st, reached⟩ | st
    · rw [passReport_rollingUp held _ st, rollingUpReport_class, if_neg present, if_pos ⟨reached, left⟩]
    · rw [passReport_rolling held _ st, rollingReport_class, if_neg present, if_pos left]
  · rw [passReport_rollingUp held _ st, rollingUpReport_class, if_neg (by simp [play]), if_neg (not_both stays), if_pos play,
      markPlayReached_eq held]
  · rw [passReport_rollingUp held _ st, rollingUpReport_class, if_neg present, if_neg (not_both stays), if_neg other]
  · rw [passReport_rolling held _ st, rollingReport_class, if_neg present, if_neg stays]
  · rw [passReport_ending held _ st, endingReport_class, if_neg present, if_pos left]
  · rw [passReport_ending held _ st, endingReport_class, if_neg present, if_neg stays]

end

/-! ### What an abort leaves (09 R165, R166) -/

/-- The reasons of an abort that send a STOP, and those that send none (09 R166 step 6). -/
theorem PassEnd.stops_iff (reason : PassEnd) :
    (reason = .motion ∨ reason = .lost ∨ reason = .locateTimeout ∨ reason = .abandoned → reason.stops = true)
      ∧ (reason = .armRefused ∨ reason = .transportRefused ∨ reason = .transportSilent → reason.stops = false) := by
  constructor
  · rintro (rfl | rfl | rfl | rfl) <;> rfl
  · rintro (rfl | rfl | rfl) <;> rfl

/-- The last steps of an abort, from what its closes and its freed arm leave (09 R166 steps 3 to 6). -/
theorem abortPass_tells {s closed freed told : State} {g f : PassInHand} (reason : PassEnd) (refusal : Option ResultCode)
    (hc : closed = closeAllOpen reason.closeStatus s.tracker.head s) (held : closed.pass.inHand = some g)
    (no_arm : g.arm = none → freed = closed)
    (arm : ∀ i : Nat, g.arm = some i → freed = freeArmed (.lapse .pass) i closed) (left : freed.pass.inHand = some f)
    (ht : told =
      offer (freed.passNotice reason true refusal s.pass.queued.isSome f)
        { freed with pass := { freed.pass with queued := none } }) :
    ∃ u : State,
      u = testSafePoint { told with pass := { told.pass with state := .idle, inHand := none, deadline := none } }
        ∧ abortPass reason refusal s = { u with transport := (abortPass reason refusal s).transport } := by
  have frees : freePassArm closed = freed := by
    cases h : g.arm with
    | none => rw [freePassArm_none held h, no_arm h]
    | some i => rw [freePassArm_some held h, arm i h]
  subst hc
  have queued : freed.pass.queued = s.pass.queued := by
    obtain ⟨k, hk⟩ := ((Retires.closeAllOpen reason.closeStatus s.tracker.head s).trans (.freePassArm _)).pass
    rw [← frees, hk]
    rfl
  obtain ⟨transport, eq⟩ := abortPass_of_held reason refusal frees left
  rw [queued, ← ht] at eq
  exact ⟨_, rfl, by rw [eq]; rfl⟩

/-! ### The whole controller -/

/-- Settles O56: starts, phases, notices, completions, aborts, queued passes and answers, each from its own lemmas. -/
theorem passPhasesFollowAnswersAndMotion : Obligations.PassPhasesFollowAnswersAndMotion := by
  refine ⟨?_, ?_,
    fun s why last discarded refusal h pos no_class some_class =>
      s.passNotice_eq why last discarded refusal h no_class some_class,
    ?_, ?_, ?_⟩
  · rintro h _ s _ start stop _ located points rfl rfl rfl located_eq
    refine ⟨fun plain => (beginCycle_unarmed points plain).trans (located_eq _).symm, fun record mode k first =>
      ⟨fun c test => beginCycle_refused points record mode first test, fun cue ts i test => ?_⟩⟩
    have p := armTest_passes test
    refine ⟨_, _, _, ?_, rfl, rfl, rfl, rfl, rfl, rfl, rfl, rfl, rfl, rfl, armedEntry_tracks .pass cue ts i _, p.slots .pass,
      p.item .pass, TakeLog.reserve_room, fun older newer r => TakeLog.reserve_full⟩
    rw [located_eq]
    exact beginCycle_armed points record mode first test
  · rintro snap h s _ held rfl
    refine ⟨phaseTest_unanswered held, fun st answered => phaseTest_parked held st answered,
      fun st answered => phaseTest_settled held st answered, fun st answered => ?_,
      fun kind st => passReport_locating held _ st, fun kind st other stays => ?_, fun st => ?_,
      fun old new step0 st => passReport_rolling_moves held st old new step0, passReport_class held, fun old new st => ?_⟩
    · rw [phaseTest_ending held answered st]
      exact ⟨fun still => if_pos still, fun moves => if_neg moves⟩
    · rcases st with st | st
      · exact (passReport_rollingUp held _ st).trans (rollingUpReport_tests other)
      · exact (passReport_ending held _ st).trans (endingReport_tests other (stays st))
    · exact ⟨passReport_rolling held _ st, passReport_rolling held _ st⟩
    · rw [passReport_ending held _ st]
      exact ⟨fun other => congrArg (phaseTest snap) (closeAtRelocate_other other),
        fun play => congrArg (phaseTest snap) (closeAtRelocate_play play)⟩
  · intro h s next held next_iff
    have goes : h.goesOn = next := Bool.eq_iff_iff.mpr (h.goesOn_iff.trans next_iff.symm)
    refine ⟨fun i e arm here armed origin => completeCycle_armed held arm here armed origin,
      fun no_arm yes => completeCycle_next held no_arm (goes.trans yes),
      fun no_arm yes => completeCycle_wraps held no_arm (goes.trans yes), ?_,
      fun i number st disarm cause =>
        ⟨fun arm => ⟨passTakeClosed_own held arm number st disarm, passArmFreed_own held arm cause⟩,
        fun other => ⟨passTakeClosed_other held other number st disarm, passArmFreed_other held other cause⟩⟩, ?_⟩
    · rintro no_arm no _ rfl
      exact completeCycle_last held no_arm (goes.trans no)
    · rintro reason refusal _ entries rfl
      obtain ⟨pass, opened, transport⟩ := abortPass_leaves reason refusal held entries
      obtain ⟨stops, silent⟩ := reason.stops_iff
      refine ⟨by rw [pass], by rw [pass], by rw [pass], by rw [pass], by rw [pass], opened,
        abortPass_records reason refusal held entries, fun sends => ?_, fun sends_none => ?_,
        fun closed freed told g f hc hg no_arm arm hf ht => abortPass_tells reason refusal hc hg no_arm arm hf ht⟩
      · rw [transport, if_pos (stops sends)]
        rfl
      · rw [transport, silent sends_none]
        rfl
  · rintro s _ q rfl
    refine ⟨fun empty => by simp only [startQueued, empty],
      fun queued => ⟨fun present ordered => startQueued_starts queued ?_, ?_⟩⟩
    · rw [← Bool.not_eq_false, State.keysHold_eq_false_iff]
      rintro (⟨k, asked, absent⟩ | ⟨a, b, run, first, last, backward⟩)
      · exact present k asked absent
      · exact absurd (ordered a b run first last) (Nat.not_le.mpr backward)
    · rintro fails _ rfl
      exact startQueued_fails queued ((State.keysHold_eq_false_iff s q).mpr fails)
  · rintro req s _ kind reason owned rfl owned_iff
    rw [← State.owns_iff] at owned_iff
    exact ⟨fun other => ⟨if_neg (mt owned_iff.mpr other), if_neg (mt owned_iff.mpr other)⟩,
      fun own => ⟨fun h held => requestGranted_owned (owned_iff.mp own) held, if_pos (owned_iff.mp own)⟩⟩

end Sys2Proof.Machine
end

section
/-! The pass in hand and the pass state agree under every step (09 R152, R162): each change of the pass controller
carries its own proof of that, and every other change leaves the controller alone. -/

namespace Sys2Proof.Machine

/-- The flag of a DISARM touches the table's entries alone (07 R131). -/
theorem flagEntry_pass (s : State) (i : Nat) : (flagEntry s i).pass = s.pass := by
  unfold flagEntry
  split <;> rfl

/-- The new window of an edited cue touches the table's entries alone (07 R134). -/
theorem editEntry_pass (cue : Cue) (s : State) (i : Nat) : (editEntry cue s i).pass = s.pass := by
  unfold editEntry
  split
  · rfl
  · split <;> rfl

/-- Every small move of the state keeps the pass controller coherent. -/
theorem Move.pass_coherent {b : Bool} {s t : State} (m : Move b s t) (h : s.pass.coherent) : t.pass.coherent := by
  cases m with
  | pass _ p _ keeps => exact keeps h
  | passTiming => exact h
  | notice => rwa [offer_pass]
  | fault => rwa [recordFault_pass]
  | gates _ cls p i =>
    obtain ⟨entries, lines, slots, e⟩ := evalEntry_touches cls p s i
    rwa [e]
  | opens _ old new i =>
    obtain ⟨entries, e⟩ := openCrossed_touches old new s i
    rwa [e]
  | flags i => rwa [flagEntry_pass]
  | rewindow cue i => rwa [editEntry_pass]
  | accept f =>
    obtain ⟨intake, replies, e⟩ := acceptFrame_touches f s
    rwa [e]
  | errorReply r =>
    obtain ⟨replies, e⟩ := queueErrorReply_touches r s
    rwa [e]
  | _ => exact h

theorem Moves.pass_coherent {b : Bool} {s t : State} (m : Moves b s t) (h : s.pass.coherent) : t.pass.coherent :=
  m.keep (P := fun u => u.pass.coherent) (fun _ _ k => k.pass_coherent) h

/-- A command keeps the pass controller coherent. -/
theorem Effect.pass_coherent {s t : State} (e : Effect s t) (h : s.pass.coherent) : t.pass.coherent := by
  cases e with
  | event m => exact m.pass_coherent h
  | request r m _ => exact m.pass_coherent h
  | power => exact reset_pass_coherent

/-- Settles O58: an empty queue leaves the pass controller, and every command moves it by coherent changes. -/
theorem passStaysCoherent : Obligations.PassStaysCoherent := by
  intro s t h e
  unfold step at e
  split at e
  · cases e
    exact h
  · exact (exec_effect _ e).pass_coherent h

end Sys2Proof.Machine
end

section
/-! The transport link (09 R168, R169): requests wanted, sent and finished, the texts and answers on its lines, what a
failed request records, and the answer and phase deadlines (09 R162). -/

namespace Sys2Proof.Machine

/-! ### Requests on the link (09 R169) -/

section
variable (req : TransportRequest) {t : Transport}

theorem Transport.send_idle (idle : t.outstanding = none) : t.send req = t.launch req := by
  simp only [Transport.send, idle]

theorem Transport.send_busy (busy : t.outstanding ≠ none) : t.send req = { t with waiting := some req } := by
  unfold Transport.send
  split
  · rename_i idle
    exact absurd idle busy
  · rfl

theorem Transport.finish_idle (empty : t.waiting = none) : t.finish = { t with outstanding := none } := by
  simp only [Transport.finish, empty]

theorem Transport.finish_sends (waits : t.waiting = some req) :
    t.finish =
      { t with
        outstanding := some { request := req, deadline := none }, waiting := none,
        line := t.line ++ [req.text ++ [0x0D]] } := by
  simp only [Transport.finish, waits, Transport.launch]

end

/-! ### Characters that leave the line (09 R169) -/

section
variable (now : Stamp) {t : Transport} {x : List Byte}

theorem Transport.lineSent_empty (line : t.line = []) : t.lineSent now = t := by
  simp only [Transport.lineSent, line]

/-- The carriage return of the outstanding request starts its answer deadline. -/
theorem Transport.lineSent_starts {req : TransportRequest} (line : t.line = [x])
    (out : t.outstanding = some { request := req, deadline := none }) :
    t.lineSent now =
      { t with line := [], outstanding := some { request := req, deadline := some (now + 250000) } } := by
  simp only [Transport.lineSent, line, out, if_true]

/-- The carriage return of a text whose request is outstanding no more starts no deadline. -/
theorem Transport.lineSent_orphan (line : t.line = [x])
    (out : ∀ req : TransportRequest, t.outstanding ≠ some { request := req, deadline := none }) :
    t.lineSent now = { t with line := [] } := by
  rw [Transport.lineSent, line]
  dsimp only
  split
  · rename_i req due
    exact absurd due (out req)
  · rfl

/-- With a text still on the line, no deadline starts. -/
theorem Transport.lineSent_more {y : List Byte} {rest : List (List Byte)} (line : t.line = x :: y :: rest) :
    t.lineSent now = { t with line := y :: rest } := by
  simp only [Transport.lineSent, line, if_neg (List.cons_ne_nil y rest)]
  split
  · rename_i req due
    rw [due]
  · rfl

end

/-! ### Characters that come in (09 R168) -/

theorem Transport.gather_drops {c : Byte} {t : Transport} (h : c = 0x0A ∨ 9 ≤ t.gathered.length) :
    t.gather c = t := by
  unfold Transport.gather
  rcases h with h | h
  · exact if_pos h
  · rw [if_neg (c := t.gathered.length ≤ 8) (by omega), ite_self]

theorem Transport.gather_keeps {c : Byte} {t : Transport} (text : c ≠ 0x0A) (room : t.gathered.length ≤ 8) :
    t.gather c = { t with gathered := t.gathered ++ [c] } := by
  rw [Transport.gather, if_neg text, if_pos room]

theorem exec_requestSent (now : Stamp) (s : State) :
    exec (.transportRequestSent now) s =
      .next { elapseTo now s with transport := s.transport.lineSent now } := rfl

theorem exec_character {c : Byte} (text : c ≠ 0x0D) (now : Stamp) (s : State) :
    exec (.transportCharacterReceived c now) s =
      .next { elapseTo now s with transport := s.transport.gather c } :=
  congrArg Host.Outcome.next (if_neg text)

/-! ### Answers (09 R168, R169) -/

theorem Transport.awaiting_of_deadline {t : Transport} {req : TransportRequest} {d : Stamp}
    (out : t.outstanding = some { request := req, deadline := some d }) : t.awaiting = some req := by
  simp only [Transport.awaiting, out]

/-- No request awaits its answer before its carriage return has left. -/
theorem Transport.awaiting_eq_none {t : Transport}
    (h : ∀ (req : TransportRequest) (d : Stamp), t.outstanding ≠ some { request := req, deadline := some d }) :
    t.awaiting = none := by
  unfold Transport.awaiting
  split
  · rename_i req d out
    exact absurd out (h req d)
  · rfl

@[simp] theorem Transport.awaiting_gathered (t : Transport) (line : List Byte) :
    { t with gathered := line }.awaiting = t.awaiting := rfl

section
variable {req : TransportRequest} {s : State}

theorem completeAnswer_unasked (idle : s.transport.awaiting = none) :
    completeAnswer s = { s with transport := { s.transport with gathered := [] } } := by
  simp only [completeAnswer, Transport.awaiting_gathered, idle]

section
variable (awaits : s.transport.awaiting = some req)
include awaits

theorem completeAnswer_ok (ok : answerOf s.transport.gathered = some .ok) :
    completeAnswer s = requestGranted req { s with transport := { s.transport with gathered := [] } } := by
  simp only [completeAnswer, Transport.awaiting_gathered, awaits, ok]

theorem completeAnswer_no (no : answerOf s.transport.gathered = some .no) :
    completeAnswer s =
      requestFailed .transportRefused .transportRefused req
        { s with transport := { s.transport with gathered := [] } } := by
  simp only [completeAnswer, Transport.awaiting_gathered, awaits, no]

theorem completeAnswer_noise (noise : answerOf s.transport.gathered = none) :
    completeAnswer s = { s with transport := { s.transport with gathered := [] } } := by
  simp only [completeAnswer, Transport.awaiting_gathered, awaits, noise]

end

theorem answerOf_eq_none {line : List Byte} (ok : line ≠ [0x4F, 0x4B]) (no : line ≠ [0x4E, 0x4F]) :
    answerOf line = none := by
  rw [answerOf, if_neg ok, if_neg no]

/-! ### The deadlines (09 R162, R169) -/

theorem expireAnswer_unasked
    (h : ∀ (req : TransportRequest) (d : Stamp), s.transport.outstanding ≠ some { request := req, deadline := some d }) :
    expireAnswer s = s := by
  unfold expireAnswer
  split
  · rename_i req d out
    exact absurd out (h req d)
  · rfl

section
variable {d : Stamp} (out : s.transport.outstanding = some { request := req, deadline := some d })
include out

theorem expireAnswer_due (due : elapsed d s.counter < 2147483648) :
    expireAnswer s = requestFailed .transportSilent .transportSilent req s := by
  simp only [expireAnswer, out, reached, due, decide_true, if_true]

theorem expireAnswer_early (early : 2147483648 ≤ elapsed d s.counter) : expireAnswer s = s := by
  simp only [expireAnswer, out]
  exact if_neg (by simpa [reached] using early)

end

theorem expirePhase_unset (h : s.pass.deadline = none) : expirePhase s = s := by
  simp only [expirePhase, h]

section
variable {d : Stamp} (limit : s.pass.deadline = some d)
include limit

theorem expirePhase_due (due : elapsed d s.counter < 2147483648) :
    expirePhase s =
      abortPass .locateTimeout none
        (recordFault
          { kind := .locateTimeout, position := s.faultPosition, channel := none,
            key := s.pass.inHand.bind PassInHand.first, detail := s.pass.state.phaseCode } s) := by
  simp only [expirePhase, limit, reached, due, decide_true, if_true]

theorem expirePhase_early (early : 2147483648 ≤ elapsed d s.counter) : expirePhase s = s := by
  simp only [expirePhase, limit]
  exact if_neg (by simpa [reached] using early)

end

end

/-! ### What a failed request records (09 R169) -/

theorem State.faultPosition_eq {s : State} {pos : Option Nat} (none_class : s.tracker.cls = .none → pos = none)
    (some_class : s.tracker.cls ≠ .none → pos = some s.tracker.head) : s.faultPosition = pos := by
  unfold State.faultPosition
  split
  · rename_i none
    exact (none_class none).symm
  · rename_i some
    exact (some_class some).symm

theorem RequestOwner.first_eq {owner : Option RequestOwner} {key : Option Key} (nobody : owner = none → key = none)
    (owned : ∀ o : RequestOwner, owner = some o → key = o.first) : owner.bind RequestOwner.first = key := by
  cases owner with
  | none => exact (nobody rfl).symm
  | some o => exact (owned o rfl).symm

theorem RequestKind.code_eq {kind : RequestKind} {detail : Nat}
    (h : (kind = .loc ∧ detail = 1) ∨ (kind = .play ∧ detail = 2) ∨ (kind = .stop ∧ detail = 3)) :
    kind.code = detail := by
  rcases h with ⟨rfl, rfl⟩ | ⟨rfl, rfl⟩ | ⟨rfl, rfl⟩ <;> rfl

/-! ### The label of a LOC (09 R168; 01 R2, R9, R13) -/

theorem clampFrame_eq {r : Rate} {a : Int} {n : Nat} (h : (n : Int) = max 0 (min a (r.dayLen - 1))) :
    clampFrame r a = n := by
  have := r.dayLen_pos
  unfold clampFrame
  omega

theorem Label.chars_eq {r : Rate} {two : Nat → List Byte} {sep : Byte} (l : Label)
    (digits : ∀ v : Nat, two v = [BitVec.ofNat 8 (0x30 + v / 10 % 10), BitVec.ofNat 8 (0x30 + v % 10)])
    (drop : r = .drop2997 → sep = 0x3B) (plain : r ≠ .drop2997 → sep = 0x3A) :
    l.chars r = two l.h ++ [0x3A] ++ two l.m ++ [0x3A] ++ two l.s ++ [sep] ++ two l.f := by
  obtain rfl : two = twoDigits := funext digits
  have mark : (if r.isDrop then 0x3B else 0x3A) = sep := by
    split
    · rename_i h
      exact (drop (r.isDrop_iff.mp h)).symm
    · rename_i h
      exact (plain (mt r.isDrop_iff.mpr h)).symm
  rw [Label.chars, mark]

/-! ### The events -/

/-- Settles O57: the link's operations, the fault and the label, then each event by its cases. -/
theorem transportAndPhaseEventsAct : Obligations.TransportAndPhaseEventsAct := by
  refine ⟨fun t req =>
      ⟨Transport.send_idle req, Transport.send_busy req, Transport.finish_idle, Transport.finish_sends req⟩,
    fun s kind req pos key detail no_class some_class nobody owned code => ?_, rfl, ?_, fun now s =>
    ⟨fun line => ?_, fun x req line out => ?_, fun x line out => ?_, fun x y rest line => ?_, fun c text =>
      ⟨fun dropped => ?_, fun feed room => ?_⟩, ?_, fun unasked => ⟨?_, ?_⟩, fun no_limit => ?_, fun d limit =>
      ⟨fun early => ?_, fun due => ?_⟩⟩⟩
  · rw [State.transportFault, State.faultPosition_eq no_class some_class, RequestOwner.first_eq nobody owned,
      RequestKind.code_eq code]
  · rintro r offset p n _ two sep clamp rfl digits drop plain
    rw [locLabel, frameOf, clampFrame_eq clamp]
    exact Label.chars_eq _ digits drop plain
  · rw [exec_requestSent, Transport.lineSent_empty now line]
    rfl
  · rw [exec_requestSent, Transport.lineSent_starts now line out]
  · rw [exec_requestSent, Transport.lineSent_orphan now line out]
  · rw [exec_requestSent, Transport.lineSent_more now line]
  · rw [exec_character text, Transport.gather_drops dropped]
    rfl
  · rw [exec_character text, Transport.gather_keeps feed room]
  · rintro req d _ out rfl
    have asked : (elapseTo now s).transport.outstanding = some { request := req, deadline := some d } := out
    have awaits : (elapseTo now s).transport.awaiting = some req := Transport.awaiting_of_deadline asked
    refine ⟨fun ok => congrArg _ (completeAnswer_ok awaits ?_), fun no => congrArg _ (completeAnswer_no awaits ?_),
      fun ok no => congrArg _ (completeAnswer_noise awaits (answerOf_eq_none ok no)),
      fun due => congrArg _ (expireAnswer_due asked due), fun early => congrArg _ (expireAnswer_early asked early)⟩
    · exact congrArg answerOf ok
    · exact congrArg answerOf no
  · exact congrArg Host.Outcome.next (completeAnswer_unasked (s := elapseTo now s) (Transport.awaiting_eq_none unasked))
  · exact congrArg Host.Outcome.next (expireAnswer_unasked (s := elapseTo now s) unasked)
  · exact congrArg Host.Outcome.next (expirePhase_unset (s := elapseTo now s) no_limit)
  · exact congrArg Host.Outcome.next (expirePhase_early (s := elapseTo now s) limit early)
  · exact congrArg Host.Outcome.next (expirePhase_due (s := elapseTo now s) limit due)

end Sys2Proof.Machine
end

section
/-! The fault log and the notice queue, operation by operation (10 R174 to R178): how a handed record is kept or lost, how a
notice is dropped, queued or lost, and when a FAULT notice that became due is offered. -/

namespace Sys2Proof.Machine

/-! ### A handed record (10 R174) -/

section
variable {f : FaultRecord} {l : FaultLog}

theorem FaultLog.record_flagged (flagged : l.overflow = true) : l.record f = (l, none) := if_pos flagged

theorem FaultLog.record_free {i : Nat} (room : l.overflow = false) (free : lowestFree 0 l.slots = some i) :
    l.record f =
      ({ l with
          slots := l.slots.set i (some f), order := l.order ++ [i],
          firstPending := if l.order = [] then some i else l.firstPending },
        if l.order = [] then some .first else none) := by
  rw [FaultLog.record, room, free]
  rfl

theorem FaultLog.record_first {i : Nat} (room : l.overflow = false) (free : lowestFree 0 l.slots = some i)
    (empty : l.order = []) :
    l.record f =
      ({ l with slots := l.slots.set i (some f), order := [i], firstPending := some i }, some .first) := by
  rw [record_free room free, if_pos empty, if_pos empty, empty]
  rfl

theorem FaultLog.record_later {i : Nat} (room : l.overflow = false) (free : lowestFree 0 l.slots = some i)
    (filled : l.order ≠ []) :
    l.record f = ({ l with slots := l.slots.set i (some f), order := l.order ++ [i] }, none) := by
  rw [record_free room free, if_neg filled, if_neg filled]

theorem FaultLog.record_full (room : l.overflow = false) (full : none ∉ l.slots) :
    l.record f = ({ l with overflow := true }, some .overflow) := by
  rw [FaultLog.record, room, lowestFree_eq_none_iff.mpr full]
  rfl

/-- What a record handed to a log can do to it. -/
theorem FaultLog.record_cases (f : FaultRecord) (l : FaultLog) :
    (∃ flagged, (l.record f).1 = { l with overflow := flagged })
      ∨ ∃ i, l.slots[i]? = some none
          ∧ (l.record f).1 =
              { l with
                slots := l.slots.set i (some f), order := l.order ++ [i],
                firstPending := if l.order = [] then some i else l.firstPending } := by
  cases room : l.overflow with
  | true => exact .inl ⟨l.overflow, by rw [record_flagged room]⟩
  | false =>
    cases free : lowestFree 0 l.slots with
    | none => exact .inl ⟨true, by rw [record_full room (lowestFree_eq_none_iff.mp free)]⟩
    | some i => exact .inr ⟨i, (lowestFree_eq_some_iff.mp free).1, by rw [record_free room free, room]⟩

@[simp] theorem FaultLog.record_owed (f : FaultRecord) (l : FaultLog) : (l.record f).1.owed = l.owed := by
  rcases l.record_cases f with ⟨flagged, e⟩ | ⟨i, -, e⟩ <;> rw [e]

end

/-! ### Notices and FAULT notices (10 R176, R178) -/

section
variable {n : Notice} {s : State}

theorem recordLostNotice_eq {l : FaultLog} {due : Option FaultCause}
    (h : s.faults.record
        { kind := .noticeOverflow, position := s.faultPosition, channel := n.lostChannel, key := n.lostKey,
          detail := n.kind.code } = (l, due)) :
    recordLostNotice n s = { s with faults := { l with owed := l.owed || (due.isSome && !s.link.mask.fault) } } := by
  unfold recordLostNotice
  rw [h]
  cases due with
  | none => simp
  | some cause => simp

theorem offer_masked (masked : s.link.mask.allows n.kind = false) : offer n s = s := by
  rw [offer, masked]
  rfl

theorem offer_queued (allowed : s.link.mask.allows n.kind = true) (room : s.link.notices.length < 32) :
    offer n s = { s with link := { s.link with notices := s.link.notices ++ [n.build s.rate] } } := by
  rw [offer, if_pos allowed, if_pos room]

theorem offer_lost (allowed : s.link.mask.allows n.kind = true) (full : 32 ≤ s.link.notices.length) :
    offer n s = recordLostNotice n s := by
  rw [offer, if_pos allowed, if_neg (by omega)]

variable {f : FaultRecord} {l : FaultLog}

theorem recordFault_quiet (h : s.faults.record f = (l, none)) : recordFault f s = { s with faults := l } := by
  rw [recordFault, h]

theorem recordFault_owes {c : FaultCause} (h : s.faults.record f = (l, some c)) (masked : s.link.mask.fault = false) :
    recordFault f s = { s with faults := { l with owed := true } } := by
  rw [recordFault, h]
  exact if_neg (by rw [masked]; decide)

theorem recordFault_offers {c : FaultCause} (h : s.faults.record f = (l, some c)) (allowed : s.link.mask.fault = true) :
    recordFault f s = offer (l.notice c) { s with faults := l } := by
  rw [recordFault, h]
  exact if_pos allowed

/-- While FAULT is enabled an offer makes no notice owed (10 R176). -/
theorem offer_owed (allowed : s.link.mask.fault = true) : (offer n s).faults.owed = s.faults.owed := by
  cases kind : s.link.mask.allows n.kind with
  | false => rw [offer_masked kind]
  | true =>
    by_cases room : s.link.notices.length < 32
    · rw [offer_queued kind room]
    · rw [offer_lost kind (by omega), recordLostNotice_eq Prod.mk.eta.symm, allowed]
      simp only [FaultLog.record_owed, Bool.not_true, Bool.and_false, Bool.or_false]

end

/-! ### The whole log (10 R172, R175) -/

theorem FaultLog.at_eq_some_iff {l : FaultLog} {i : Nat} {f : FaultRecord} :
    l.at i = some f ↔ l.slots[i]? = some (some f) := by
  unfold FaultLog.at
  cases l.slots[i]? <;> simp

/-- Writing a slot writes what is in it, and leaves the others. -/
theorem FaultLog.at_set {l m : FaultLog} {i : Nat} {x : Option FaultRecord} (slots : m.slots = l.slots.set i x)
    (inside : i < l.slots.length) (j : Nat) : m.at j = if i = j then x else l.at j := by
  unfold FaultLog.at
  rw [slots, List.getElem?_set, if_pos inside]
  split
  · rfl
  · rfl

/-- The flags are no part of the order's agreement with the slots. -/
theorem FaultLog.coherent.setFlags {l : FaultLog} (h : l.coherent) (overflow owed : Bool) :
    { l with overflow, owed }.coherent := h

/-- A record kept in a free slot stands last in the order, and first only in an empty log (10 R174, R175). -/
theorem FaultLog.coherent.keep {l : FaultLog} (h : l.coherent) {i : Nat} (free : l.slots[i]? = some none)
    (f : FaultRecord) :
    { l with
      slots := l.slots.set i (some f), order := l.order ++ [i],
      firstPending := if l.order = [] then some i else l.firstPending }.coherent := by
  obtain ⟨count, once, occupied, first⟩ := h
  have inside : i < l.slots.length := (List.getElem?_eq_some_iff.mp free).1
  have fresh : i ∉ l.order := by
    rw [occupied, FaultLog.at, free]
    exact Bool.false_ne_true
  refine ⟨List.length_set.trans count, List.nodup_append.mpr ⟨once, List.nodup_singleton i, ?_⟩, fun j => ?_, ?_⟩
  · rintro j hj k hk rfl
    exact fresh (List.mem_singleton.mp hk ▸ hj)
  · rw [FaultLog.at_set rfl inside, List.mem_append, List.mem_singleton, occupied]
    by_cases same : i = j
    · simp [same]
    · simp [same, Ne.symm same]
  · cases order : l.order with
    | nil => rfl
    | cons k rest => simp [first, order]

theorem FaultLog.coherent.record {l : FaultLog} (h : l.coherent) (f : FaultRecord) : (l.record f).1.coherent := by
  rcases l.record_cases f with ⟨flagged, e⟩ | ⟨i, free, e⟩ <;> rw [e]
  · exact h.setFlags flagged l.owed
  · exact h.keep free f

/-- With its slot freed, the order's new first slot is first pending (10 R175, R181). -/
theorem FaultLog.coherent.clear_firstPending {l : FaultLog} (h : l.coherent) (i : Nat) :
    (l.clear i).firstPending = (l.order.filter fun j => decide (j ≠ i)).head? := by
  obtain ⟨-, -, -, first⟩ := h
  unfold FaultLog.clear
  dsimp only
  split
  · rename_i empty
    rw [empty]
    rfl
  · split
    · rfl
    · rename_i other
      rw [first] at other ⊢
      cases order : l.order with
      | nil => rfl
      | cons k rest =>
        have other : k ≠ i := fun same => other (by rw [order, same]; rfl)
        rw [List.filter_cons_of_pos (p := fun j => decide (j ≠ i)) (decide_eq_true other)]
        rfl

theorem FaultLog.coherent.clear {l : FaultLog} (h : l.coherent) {i : Nat} (occupied : (l.at i).isSome = true) :
    (l.clear i).coherent := by
  have first := h.clear_firstPending i
  obtain ⟨count, once, listed, -⟩ := h
  have inside : i < l.slots.length := by
    obtain ⟨f, hf⟩ := Option.isSome_iff_exists.mp occupied
    exact (List.getElem?_eq_some_iff.mp (FaultLog.at_eq_some_iff.mp hf)).1
  refine ⟨List.length_set.trans count, once.filter _, fun j => ?_, first⟩
  rw [FaultLog.at_set (l := l) rfl inside]
  simp only [FaultLog.clear, List.mem_filter, listed]
  by_cases same : i = j
  · simp [same]
  · simp [same, Ne.symm same]

theorem offer_faults_coherent (n : Notice) {s : State} (h : s.faults.coherent) : (offer n s).faults.coherent := by
  cases allowed : s.link.mask.allows n.kind with
  | false => rwa [offer_masked allowed]
  | true =>
    by_cases room : s.link.notices.length < 32
    · rwa [offer_queued allowed room]
    · rw [offer_lost allowed (by omega), recordLostNotice_eq Prod.mk.eta.symm]
      exact (h.record _).setFlags _ _

theorem recordFault_faults_coherent (f : FaultRecord) {s : State} (h : s.faults.coherent) :
    (recordFault f s).faults.coherent := by
  have kept := h.record f
  rcases e : s.faults.record f with ⟨l, due⟩
  rw [e] at kept
  cases due with
  | none => rwa [recordFault_quiet e]
  | some cause =>
    cases allowed : s.link.mask.fault with
    | false =>
      rw [recordFault_owes e allowed]
      exact kept.setFlags _ _
    | true =>
      rw [recordFault_offers e allowed]
      exact offer_faults_coherent _ kept

/-! ### Every step -/

/-- Every small move of the state keeps the fault log coherent. -/
theorem Move.faults_coherent {b : Bool} {s t : State} (m : Move b s t) (h : s.faults.coherent) : t.faults.coherent := by
  cases m with
  | notice _ n => exact offer_faults_coherent n h
  | fault _ f => exact recordFault_faults_coherent f h
  | clearFault i _ occupied => exact h.clear occupied
  | faultFlags overflow owed => exact h.setFlags overflow owed
  | gates _ cls p i =>
    obtain ⟨entries, lines, slots, e⟩ := evalEntry_touches cls p s i
    rwa [e]
  | opens _ old new i =>
    obtain ⟨entries, e⟩ := openCrossed_touches old new s i
    rwa [e]
  | flags i =>
    obtain ⟨entries, e⟩ := flagEntry_touches s i
    rwa [e]
  | rewindow cue i =>
    obtain ⟨entries, slots, e⟩ := editEntry_touches cue s i
    rwa [e]
  | accept f =>
    obtain ⟨intake, replies, e⟩ := acceptFrame_touches f s
    rwa [e]
  | errorReply r =>
    obtain ⟨replies, e⟩ := queueErrorReply_touches r s
    rwa [e]
  | _ => exact h

theorem Moves.faults_coherent {b : Bool} {s t : State} (m : Moves b s t) (h : s.faults.coherent) : t.faults.coherent :=
  m.keep (P := fun u => u.faults.coherent) (fun _ _ k => k.faults_coherent) h

/-- A command keeps the fault log coherent. -/
theorem Effect.faults_coherent {s t : State} (e : Effect s t) (h : s.faults.coherent) : t.faults.coherent := by
  cases e with
  | event m => exact m.faults_coherent h
  | request r m _ => exact m.faults_coherent h
  | power => exact reset_faults_coherent

/-- Settles O26: an empty queue leaves the log, and every command changes it by records, freed slots and flags. -/
theorem faultLogStaysCoherent : Obligations.FaultLogStaysCoherent := by
  intro s t h e
  unfold step at e
  split at e
  · cases e
    exact h
  · exact (exec_effect _ e).faults_coherent h

end Sys2Proof.Machine
end

section
/-! The queues of the link port within their bounds (11 R187, R189; 10 R178): what joins a queue asks for room first, and a
request, which asks before it is taken, is answered once. -/

namespace Sys2Proof.Machine

/-! ### Each queue -/

/-- From `l` to `m` no queue passes its bound, and a request's moves (`b = true`) leave the reply queue to its own reply. -/
structure Link.KeepsBounds (b : Bool) (l m : Link) : Prop where
  intake : l.intake.length ≤ 4 → m.intake.length ≤ 4
  replies : l.replies.length ≤ 8 → m.replies.length ≤ 8
  notices : l.notices.length ≤ 32 → m.notices.length ≤ 32
  unanswered : b = true → m.replies = l.replies

theorem Link.KeepsBounds.refl (b : Bool) (l : Link) : l.KeepsBounds b l := ⟨id, id, id, fun _ => rfl⟩

theorem Link.KeepsBounds.trans {b : Bool} {l m n : Link} (h : l.KeepsBounds b m) (k : m.KeepsBounds b n) :
    l.KeepsBounds b n where
  intake := k.intake ∘ h.intake
  replies := k.replies ∘ h.replies
  notices := k.notices ∘ h.notices
  unanswered asked := (k.unanswered asked).trans (h.unanswered asked)

theorem Link.KeepsBounds.bounded {b : Bool} {l m : Link} (h : l.KeepsBounds b m) (k : l.bounded) : m.bounded := by
  obtain ⟨intake, replies, notices⟩ := k
  exact ⟨h.intake intake, h.replies replies, h.notices notices⟩

/-- A change of the notice queue alone. -/
theorem Link.KeepsBounds.of_sameLink {b : Bool} {s t : State} (same : s.sameLink t)
    (notices : s.link.notices.length ≤ 32 → t.link.notices.length ≤ 32) : s.link.KeepsBounds b t.link where
  intake h := by rwa [same]
  replies h := by rwa [same]
  notices := notices
  unanswered _ := by rw [same]

theorem offer_notices_le (n : Notice) {s : State} (h : s.link.notices.length ≤ 32) :
    (offer n s).link.notices.length ≤ 32 := by
  cases allowed : s.link.mask.allows n.kind with
  | false => rwa [offer_masked allowed]
  | true =>
    by_cases room : s.link.notices.length < 32
    · rw [offer_queued allowed room]
      simpa using room
    · rwa [offer_lost allowed (by omega), recordLostNotice_link]

theorem recordFault_notices_le (f : FaultRecord) {s : State} (h : s.link.notices.length ≤ 32) :
    (recordFault f s).link.notices.length ≤ 32 := by
  rcases e : s.faults.record f with ⟨l, due⟩
  cases due with
  | none => rwa [recordFault_quiet e]
  | some cause =>
    cases allowed : s.link.mask.fault with
    | false => rwa [recordFault_owes e allowed]
    | true =>
      rw [recordFault_offers e allowed]
      exact offer_notices_le _ h

theorem keepsBounds_queueErrorReply (r : Reply) (s : State) : s.link.KeepsBounds false (queueErrorReply r s).link := by
  unfold queueErrorReply
  split
  · rename_i room
    exact ⟨id, fun _ => by simpa using room, id, Bool.noConfusion⟩
  · exact .refl false s.link

theorem keepsBounds_acceptFrame (f : Frame) (s : State) : s.link.KeepsBounds false (acceptFrame f s).link := by
  unfold acceptFrame
  split
  · rename_i room
    exact ⟨fun _ => by simpa using room, id, id, Bool.noConfusion⟩
  · exact keepsBounds_queueErrorReply _ s

/-! ### Every step -/

theorem Move.keepsBounds {b : Bool} {s t : State} (m : Move b s t) : s.link.KeepsBounds b t.link := by
  have same (b : Bool) : s.link.KeepsBounds b s.link := .refl b s.link
  cases m with
  | notice _ n => exact .of_sameLink (offer_sameLink n s) (offer_notices_le n)
  | fault _ f => exact .of_sameLink (recordFault_sameLink f s) (recordFault_notices_le f)
  | accept f => exact keepsBounds_acceptFrame f s
  | errorReply r => exact keepsBounds_queueErrorReply r s
  | intake l _ fewer => exact ⟨fewer.trans, id, id, fun _ => rfl⟩
  | mask => exact ⟨id, id, id, fun _ => rfl⟩
  | receiver => exact ⟨id, id, id, fun _ => rfl⟩
  | sender => exact ⟨id, id, id, fun _ => rfl⟩
  | popReply => exact ⟨id, (List.tail_sublist _).length_le.trans, id, Bool.noConfusion⟩
  | popNotice => exact ⟨id, id, (List.tail_sublist _).length_le.trans, Bool.noConfusion⟩
  | gates _ cls p i =>
    obtain ⟨entries, lines, slots, e⟩ := evalEntry_touches cls p s i
    rw [e]
    exact same b
  | opens _ old new i =>
    obtain ⟨entries, e⟩ := openCrossed_touches old new s i
    rw [e]
    exact same b
  | flags i =>
    obtain ⟨entries, e⟩ := flagEntry_touches s i
    rw [e]
    exact same true
  | rewindow cue i =>
    obtain ⟨entries, slots, e⟩ := editEntry_touches cue s i
    rw [e]
    exact same true
  | _ => exact same _

theorem Moves.keepsBounds {b : Bool} {s t : State} (m : Moves b s t) : s.link.KeepsBounds b t.link :=
  m.keep (P := fun u => s.link.KeepsBounds b u.link) (fun _ _ k h => h.trans k.keepsBounds) (.refl b s.link)

/-- A command keeps every queue within its bound: a request is taken with room for its reply (11 R189). -/
theorem Effect.bounded {s t : State} (e : Effect s t) (h : s.link.bounded) : t.link.bounded := by
  cases e with
  | event m => exact m.keepsBounds.bounded h
  | request r m room =>
    obtain ⟨intake, -, notices⟩ := m.keepsBounds.bounded h
    refine ⟨intake, ?_, notices⟩
    rw [queueReply_link_replies, m.keepsBounds.unanswered rfl, List.length_append]
    exact room
  | power => exact reset_bounded

/-- Settles O21: an empty queue leaves the link port, and every command keeps the bounds. -/
theorem linkQueuesStayBounded : Obligations.LinkQueuesStayBounded := by
  intro s t h e
  unfold step at e
  split at e
  · cases e
    exact h
  · exact (exec_effect _ e).bounded h

end Sys2Proof.Machine
end

section
/-! What the host reads of faults and notices: the bytes of a queued notice (10 R179), the FAULT notice of a log (R176), and the
requests of the log and of the mask (R177, R180 to R182). -/

namespace Sys2Proof.Machine

/-! ### What a notice carries (10 R176, R178, R179) -/

/-- A MOTION notice of any class but NONE carries its position as present (10 R179). -/
theorem Notice.build_motion_placed {r : Rate} {cls : MotionClass} (placed : cls ≠ .none) (p speed : Nat) :
    (Notice.motion cls p speed).build r = ⟨0x41, b1 cls.code ++ 1 :: posItem r p ++ b2 speed⟩ := by
  simp only [Notice.build, Notice.payload, if_neg placed]
  rfl

/-- A lost notice is recorded with the channel and the key of its kind (10 R178). -/
theorem Notice.lost_eq {n : Notice} {ch : Option Nat} {k : Option Key}
    (line : ∀ (a x y : Nat) (q : Key) (out : Bool), n = .line a q out x y → ch = some a ∧ k = some q)
    (passed : ∀ (a x : Nat) (q : Key) (why : PassReason), n = .cuePassed a q why x → ch = some a ∧ k = some q)
    (take : ∀ (a x y : Nat) (q : Key) (st : TakeStatus) (o : Origin) (b : Bool), n = .take a q st x o y b →
      ch = none ∧ k = some q)
    (lapsed : ∀ (a : Nat) (q : Key) (o : Origin) (why : LapseReason), n = .armLapsed a q o why → ch = none ∧ k = some q)
    (pass : ∀ x : PassNotice, n = .pass x → ch = none ∧ k = x.first)
    (other : n.kind = .lock ∨ n.kind = .motion ∨ n.kind = .relocate ∨ n.kind = .bank ∨ n.kind = .fault →
      ch = none ∧ k = none) :
    n.lostChannel = ch ∧ n.lostKey = k := by
  have named {c : Option Nat} {q : Option Key} (h : ch = c ∧ k = q) : c = ch ∧ q = k := ⟨h.1.symm, h.2.symm⟩
  cases n with
  | line a q out x y => exact named (line a x y q out rfl)
  | cuePassed a q why x => exact named (passed a x q why rfl)
  | take a q st x o y b => exact named (take a x y q st o b rfl)
  | armLapsed a q o why => exact named (lapsed a q o why rfl)
  | pass x => exact named (pass x rfl)
  | lock | motion | relocate | bankDone | bankCancelled | fault => exact named (other (by simp [Notice.kind]))

theorem FaultLog.notice_empty {l : FaultLog} (empty : l.firstPending = none) (cause : FaultCause) :
    l.notice cause =
      .fault { cause, count := l.order.length, firstPending := none, overflow := l.overflow, record := none } := by
  rw [FaultLog.notice, empty]
  rfl

theorem FaultLog.notice_pending {l : FaultLog} {i : Nat} (pending : l.firstPending = some i) (cause : FaultCause) :
    l.notice cause =
      .fault
        { cause, count := l.order.length, firstPending := some i, overflow := l.overflow,
          record := (l.at i).map fun f => (i, f) } := by
  rw [FaultLog.notice, pending]
  rfl

/-- Settles O22: the three steps for a record, the three ends of an offered notice, each kind's items and codes, what a lost
notice is recorded with, and the FAULT notice that a recording makes due. -/
theorem faultsAndNoticesAreKeptOrLost : Obligations.FaultsAndNoticesAreKeptOrLost := by
  refine ⟨fun f l => ⟨FaultLog.record_flagged, fun i room free lower => ?_, FaultLog.record_full⟩,
    fun n s => ⟨offer_masked, offer_queued, fun allowed full l due h =>
      (offer_lost allowed full).trans (recordLostNotice_eq h)⟩,
    fun r pos written => ?_, by decide, fun n ch k => Notice.lost_eq,
    fun cause l => ⟨fun empty => FaultLog.notice_empty empty cause,
      fun i pending => ⟨fun f kept => ?_, fun vacant => ?_⟩⟩,
    fun f s l => ⟨recordFault_quiet, fun c h => ⟨recordFault_owes h, recordFault_offers h⟩⟩⟩
  · have lowest : lowestFree 0 l.slots = some i := lowestFree_eq_some_iff.mpr ⟨free, lower⟩
    exact ⟨FaultLog.record_first room lowest, FaultLog.record_later room lowest⟩
  · obtain rfl : pos = posItem r := funext written
    exact ⟨fun cls p old speed => ⟨rfl, fun placed => Notice.build_motion_placed placed p speed, rfl, rfl⟩,
      fun _ _ _ _ _ _ => ⟨rfl, rfl⟩, fun _ _ _ _ _ _ _ _ _ => ⟨rfl, rfl⟩, fun _ => rfl, fun _ _ _ _ => ⟨rfl, rfl⟩,
      fun _ => rfl⟩
  · rw [FaultLog.notice_pending pending, FaultLog.at_eq_some_iff.mpr kept]
    rfl
  · have none_kept : l.at i = none :=
      Option.eq_none_iff_forall_ne_some.mpr fun f kept => vacant f (FaultLog.at_eq_some_iff.mp kept)
    rw [FaultLog.notice_pending pending, none_kept]
    rfl

/-! ### READ_FAULTS, CLEAR_FAULT and CLEAR_OVERFLOW (10 R180 to R182) -/

section
variable {tag n : Byte} {s t : State} {body : List Byte}

theorem clearFaultPerform_range (beyond : 7 < n.toNat) : clearFaultPerform n s = refuse .range s := if_pos beyond

theorem clearFaultPerform_free (slot : n.toNat ≤ 7) (free : s.faults.at n.toNat = none) :
    clearFaultPerform n s = refuse .state s := by
  rw [clearFaultPerform, if_neg (by omega), free]

theorem clearFaultPerform_clears (slot : n.toNat ≤ 7) (occupied : (s.faults.at n.toNat).isSome = true) :
    clearFaultPerform n s =
      ({ s with faults := s.faults.clear n.toNat },
        b1 0 ++ b1 (s.faults.clear n.toNat).order.length ++ opt b1 (s.faults.clear n.toNat).firstPending) := by
  obtain ⟨f, kept⟩ := Option.isSome_iff_exists.mp occupied
  rw [clearFaultPerform, if_neg (by omega), kept]
  rfl

/-- Only slots 0 to 7 of a coherent log are occupied (10 R172). -/
theorem FaultLog.coherent.slot_le {l : FaultLog} (h : l.coherent) {i : Nat} (occupied : (l.at i).isSome = true) : i ≤ 7 := by
  obtain ⟨count, -⟩ := h
  obtain ⟨f, kept⟩ := Option.isSome_iff_exists.mp occupied
  have := (List.getElem?_eq_some_iff.mp (FaultLog.at_eq_some_iff.mp kept)).1
  omega

theorem FaultLog.coherent.clear_eq {l : FaultLog} (h : l.coherent) (i : Nat) {order : List Nat}
    (left : order = l.order.filter fun j => decide (j ≠ i)) :
    l.clear i = { l with slots := l.slots.set i none, order, firstPending := order.head? } := by
  have first := h.clear_firstPending i
  rw [← left] at first
  rw [← first, left]
  rfl

theorem execClearFault_answers (c : s.canTake (.clearFault tag n) = true) (p : clearFaultPerform n s.taken = (t, body)) :
    exec (.clearFault tag n) s = .next (t.answered 0xB9 tag body) :=
  request_answers (f := ⟨0x39, tag, [n]⟩) rfl c p

theorem clearOverflowPerform_clears (flagged : s.faults.overflow = true) :
    clearOverflowPerform s =
      ({ s with faults := { s.faults with overflow := false } }, b1 0 ++ b1 s.faults.order.length) := if_pos flagged

theorem clearOverflowPerform_state (unset : s.faults.overflow = false) : clearOverflowPerform s = refuse .state s :=
  if_neg (by rw [unset]; decide)

theorem execClearOverflow_answers (c : s.canTake (.clearOverflow tag) = true)
    (p : clearOverflowPerform s.taken = (t, body)) : exec (.clearOverflow tag) s = .next (t.answered 0xBA tag body) :=
  request_answers (f := ⟨0x3A, tag, []⟩) rfl c p

end

/-- Settles O23: the reading changes nothing, and a freed slot leaves the order its other slots, the first of them pending. -/
theorem faultSlotsAreReadAndCleared : Obligations.FaultSlotsAreReadAndCleared := by
  refine fun tag n s => ⟨fun c => request_reads (f := ⟨0x38, tag, []⟩) faultsBody rfl c, fun c beyond => ?_,
    fun c slot free => ?_, fun c coherent occupied order left => ?_⟩
  · exact execClearFault_answers c (clearFaultPerform_range beyond)
  · exact execClearFault_answers c (clearFaultPerform_free (s := s.taken) slot free)
  · have cleared := clearFaultPerform_clears (s := s.taken) (coherent.slot_le occupied) occupied
    rw [taken_faults, coherent.clear_eq n.toNat left] at cleared
    exact execClearFault_answers c cleared

/-- Settles O24: the flag alone is cleared, and a log whose slots are all occupied sets it again. -/
theorem overflowIsClearedAndReturns : Obligations.OverflowIsClearedAndReturns := by
  refine ⟨fun tag s c => ⟨fun flagged => ?_, fun unset => ?_⟩, fun l f _ full flagged => ?_⟩
  · exact execClearOverflow_answers c (clearOverflowPerform_clears (s := s.taken) flagged)
  · exact execClearOverflow_answers c (clearOverflowPerform_state (s := s.taken) unset)
  · rw [FaultLog.record_full (l := { l with overflow := false }) rfl full, ← flagged]

/-! ### SET_NOTICES (10 R177) -/

/-- A field that reads as a flag is that flag as a reply carries it (11 R188). -/
theorem flag_yesNo {b : Byte} {v : Bool} (h : yesNo b = some v) : flag v = [b] := by
  unfold yesNo at h
  split at h
  · cases h
    simp [flag, *]
  · split at h <;> cases h
    simp [flag, *]

/-- Items that make a mask are each 0 or 1, and come back as they were sent. -/
theorem maskOf_eq_some {x : MaskItems} {m : NoticeMask} (h : maskOf x = some m) :
    m.item = maskPayload x ∧ ∀ b ∈ maskPayload x, b.toNat ≤ 1 := by
  simp only [maskOf, Option.bind_eq_bind, Option.bind_eq_some_iff, Option.pure_def, Option.some.injEq] at h
  obtain ⟨lock, h1, motion, h2, relocate, h3, line, h4, passed, h5, take, h6, lapsed, h7, pass, h8, bank, h9, fault, h10,
    rfl⟩ := h
  have read {b : Byte} {v : Bool} (h : yesNo b = some v) : b.toNat ≤ 1 := by
    have := mt (yesNo_eq_none_iff b).mpr (by rw [h]; exact Option.some_ne_none v)
    omega
  constructor
  · simp only [NoticeMask.item, flag_yesNo h1, flag_yesNo h2, flag_yesNo h3, flag_yesNo h4, flag_yesNo h5, flag_yesNo h6,
      flag_yesNo h7, flag_yesNo h8, flag_yesNo h9, flag_yesNo h10]
    rfl
  · simp [maskPayload, read h1, read h2, read h3, read h4, read h5, read h6, read h7, read h8, read h9, read h10]

theorem maskOf_isSome {x : MaskItems} (h : ∀ b ∈ maskPayload x, b.toNat ≤ 1) : ∃ m, maskOf x = some m := by
  simp only [maskPayload, List.forall_mem_cons] at h
  obtain ⟨h1, h2, h3, h4, h5, h6, h7, h8, h9, h10, -⟩ := h
  simp only [maskOf, yesNo_of_le_one h1, yesNo_of_le_one h2, yesNo_of_le_one h3, yesNo_of_le_one h4, yesNo_of_le_one h5,
    yesNo_of_le_one h6, yesNo_of_le_one h7, yesNo_of_le_one h8, yesNo_of_le_one h9, yesNo_of_le_one h10]
  exact ⟨_, rfl⟩

theorem maskOf_eq_none {x : MaskItems} (h : ∃ b ∈ maskPayload x, 1 < b.toNat) : maskOf x = none := by
  obtain ⟨b, hb, beyond⟩ := h
  refine Option.eq_none_iff_forall_ne_some.mpr fun m hm => ?_
  have := (maskOf_eq_some hm).2 b hb
  omega

section
variable {s : State}

theorem deliverOwed_none (none_owed : s.faults.owed = false) : deliverOwed s = s := if_neg (by rw [none_owed]; decide)

/-- With nothing in the log the owed notice is forgotten (10 R177). -/
theorem deliverOwed_empty (owed : s.faults.owed = true) (empty : s.faults.order = []) (room : s.faults.overflow = false) :
    deliverOwed s = { s with faults := { s.faults with owed := false } } := by
  rw [deliverOwed, if_pos owed]
  exact if_neg (by simp [empty, room])

/-- With a record or the overflow flag in the log the owed notice is offered (10 R177). -/
theorem deliverOwed_offers (owed : s.faults.owed = true) (filled : s.faults.order ≠ [] ∨ s.faults.overflow = true) :
    deliverOwed s = offer (s.faults.notice .owed) { s with faults := { s.faults with owed := false } } := by
  rw [deliverOwed, if_pos owed]
  exact if_pos filled

variable {items : MaskItems} {m : NoticeMask}

theorem setNoticesPerform_range (h : maskOf items = none) : setNoticesPerform items s = refuse .range s := by
  rw [setNoticesPerform, h]

/-- A mask that does not enable FAULT anew, or finds no notice owed, is replaced and no more (10 R177). -/
theorem setNoticesPerform_replaces (h : maskOf items = some m)
    (still : m.fault = false ∨ s.link.mask.fault = true ∨ s.faults.owed = false) :
    setNoticesPerform items s =
      ({ s with link := { s.link with mask := m } }, b1 0 ++ maskPayload items ++ flag s.faults.owed) := by
  have kept : (if m.fault && !s.link.mask.fault then deliverOwed { s with link := { s.link with mask := m } }
      else { s with link := { s.link with mask := m } }) = { s with link := { s.link with mask := m } } := by
    rcases still with off | on | none_owed
    · simp [off]
    · simp [on]
    · rw [deliverOwed_none (s := { s with link := { s.link with mask := m } }) none_owed, ite_self]
  simp only [setNoticesPerform, h, kept, (maskOf_eq_some h).1]
  rfl

/-- A mask that enables FAULT anew delivers what is owed (10 R177). -/
theorem setNoticesPerform_delivers (h : maskOf items = some m) (on : m.fault = true) (off : s.link.mask.fault = false)
    {t : State} (delivered : deliverOwed { s with link := { s.link with mask := m } } = t)
    (settled : t.faults.owed = false) :
    setNoticesPerform items s = (t, b1 0 ++ maskPayload items ++ flag false) := by
  simp only [setNoticesPerform, h, on, off, Bool.not_false, Bool.and_self, if_true, delivered, settled, (maskOf_eq_some h).1]
  rfl

theorem execSetNotices_answers {tag : Byte} {t : State} {body : List Byte} (c : s.canTake (.setNotices tag items) = true)
    (p : setNoticesPerform items s.taken = (t, body)) :
    exec (.setNotices tag items) s = .next (t.answered 0x83 tag body) :=
  request_answers (f := ⟨0x03, tag, maskPayload items⟩) rfl c p

end

/-- Settles O25: a byte above 1 makes no mask; any other items make the mask that stands afterwards, and what was owed is
delivered under it, which leaves nothing owed. -/
theorem setNoticesReplacesTheMask : Obligations.SetNoticesReplacesTheMask := by
  intro tag items s c
  refine ⟨fun bad => execSetNotices_answers c (setNoticesPerform_range (maskOf_eq_none bad)), fun good => ?_⟩
  obtain ⟨m, hm⟩ := maskOf_isSome good
  refine ⟨m, (maskOf_eq_some hm).1, fun still => ?_, fun on off owed => ⟨fun ⟨empty, room⟩ => ?_, fun filled => ?_⟩⟩
  · exact execSetNotices_answers c (setNoticesPerform_replaces (s := s.taken) hm still)
  · exact execSetNotices_answers c
      (setNoticesPerform_delivers (s := s.taken) hm on off (deliverOwed_empty owed empty room) rfl)
  · exact execSetNotices_answers c
      (setNoticesPerform_delivers (s := s.taken) hm on off (deliverOwed_offers owed filled) (offer_owed on))

end Sys2Proof.Machine
end

section
/-! Frames of the control link (11 R185), the parts of a reply (R191) and IDENTIFY (R195). -/

namespace Sys2Proof.Machine

/-! ### The check of a frame (11 R185) -/

theorem sumBytes_append (l : List Byte) (b : Byte) : sumBytes (l ++ [b]) = sumBytes l + b := by
  simp [sumBytes]

/-- The sum of bytes is the sum of their numbers modulo 256. -/
theorem sumBytes_toNat (l : List Byte) : (sumBytes l).toNat = (l.map BitVec.toNat).sum % 256 := by
  induction l using List.reverseRecOn with
  | nil => rfl
  | append_singleton l b ih =>
    rw [sumBytes_append, BitVec.toNat_add, ih]
    simp only [List.map_append, List.map_cons, List.map_nil, List.sum_append, List.sum_cons, List.sum_nil]
    omega

/-- The check makes the bytes behind the lead sum to 0. -/
theorem sumBytes_check (l : List Byte) : sumBytes (l ++ [-sumBytes l]) = 0 := by
  rw [sumBytes_append, ← BitVec.sub_eq_add_neg, BitVec.sub_self]
  rfl

/-- The bytes of a frame, with its count and its check (11 R185). -/
theorem frameBytes_layout (kind tag : Byte) {payload : List Byte} (fits : payload.length ≤ 240) :
    ∃ n check : Byte, frameBytes kind tag payload = 0xB7 :: n :: kind :: tag :: (payload ++ [check])
      ∧ n.toNat = payload.length + 2 ∧ sumBytes (n :: kind :: tag :: (payload ++ [check])) = 0 := by
  refine ⟨_, _, rfl, ?_, sumBytes_check (_ :: kind :: tag :: payload)⟩
  rw [BitVec.toNat_ofNat]
  omega

/-- Settles O6: the count and the check of the frame's own layout. -/
theorem framesCarryTheirCheck : Obligations.FramesCarryTheirCheck := by
  intro kind tag payload fits
  obtain ⟨n, check, layout, count, sum⟩ := frameBytes_layout kind tag fits
  refine ⟨n, check, layout, count, ?_⟩
  rw [← sumBytes_toNat, sum]
  rfl

/-! ### The parts of a reply (11 R191) -/

theorem pieces_short {fuel : Nat} {body : List Byte} (short : body.length ≤ 238) : pieces fuel body = [body] := by
  cases fuel with
  | zero => rfl
  | succ fuel => exact if_pos short

theorem pieces_long {fuel : Nat} {body : List Byte} (long : 238 < body.length) :
    pieces (fuel + 1) body = body.take 238 :: pieces fuel (body.drop 238) :=
  if_neg (Nat.not_le_of_gt long)

theorem pieces_ne_nil (fuel : Nat) (body : List Byte) : pieces fuel body ≠ [] := by
  cases fuel with
  | zero => exact List.cons_ne_nil _ _
  | succ fuel =>
    unfold pieces
    split
    · exact List.cons_ne_nil _ _
    · exact List.cons_ne_nil _ _

theorem pieces_flatten (fuel : Nat) (body : List Byte) : (pieces fuel body).flatten = body := by
  induction fuel generalizing body with
  | zero => simp [pieces]
  | succ fuel ih =>
    rcases Nat.lt_or_ge 238 body.length with long | short
    · rw [pieces_long long, List.flatten_cons, ih, List.take_append_drop]
    · simp [pieces_short short]

/-- As many cuts as the body has bytes leave no piece above 238 bytes. -/
theorem pieces_length_le {fuel : Nat} {body : List Byte} (enough : body.length ≤ fuel) :
    ∀ p ∈ pieces fuel body, p.length ≤ 238 := by
  induction fuel generalizing body with
  | zero => simpa [pieces] using by omega
  | succ fuel ih =>
    rcases Nat.lt_or_ge 238 body.length with long | short
    · rw [pieces_long long, List.forall_mem_cons]
      exact ⟨List.length_take_le _ _, ih (by rw [List.length_drop]; omega)⟩
    · rw [pieces_short short]
      simpa using short

/-- Every piece but the last is a full one. -/
theorem pieces_full (fuel : Nat) (body : List Byte) : ∀ p ∈ (pieces fuel body).dropLast, p.length = 238 := by
  induction fuel generalizing body with
  | zero => simp [pieces]
  | succ fuel ih =>
    rcases Nat.lt_or_ge 238 body.length with long | short
    · rw [pieces_long long, List.dropLast_cons_of_ne_nil (pieces_ne_nil _ _), List.forall_mem_cons]
      exact ⟨by rw [List.length_take]; omega, ih _⟩
    · simp [pieces_short short]

/-- No piece of a body with bytes is empty. -/
theorem nil_notMem_pieces (fuel : Nat) {body : List Byte} (bytes : body ≠ []) : [] ∉ pieces fuel body := by
  induction fuel generalizing body with
  | zero => simpa [pieces] using bytes
  | succ fuel ih =>
    rcases Nat.lt_or_ge 238 body.length with long | short
    · have rest : body.drop 238 ≠ [] := by
        rw [Ne, List.drop_eq_nil_iff]
        omega
      rw [pieces_long long, List.mem_cons]
      rintro (head | tail)
      · simp [bytes] at head
      · exact ih rest tail
    · simpa [pieces_short short] using bytes

theorem Reply.frames_length (r : Reply) : r.frames.length = (pieces r.body.length r.body).length := by
  simp [Reply.frames]

theorem Reply.frames_getElem? (r : Reply) {k : Nat} {p : List Byte}
    (h : (pieces r.body.length r.body)[k]? = some p) :
    r.frames[k]? =
      some (frameBytes r.kind r.tag
        (BitVec.ofNat 8 k :: (if k + 1 < (pieces r.body.length r.body).length then 1 else 0) :: p)) := by
  simp [Reply.frames, h, b1, flag]

/-- Settles O13: the pieces that the reply's frames are made of. -/
theorem replyPartsRejoin : Obligations.ReplyPartsRejoin := by
  intro r
  refine ⟨pieces r.body.length r.body, pieces_ne_nil _ _, pieces_flatten _ _, pieces_length_le le_rfl, pieces_full _ _,
    fun several last => ?_, r.frames_length, fun k p => r.frames_getElem?⟩
  have bytes : r.body ≠ [] := by
    intro empty
    rw [pieces_short (by simp [empty])] at several
    exact absurd several (by simp)
  exact nil_notMem_pieces _ bytes (List.mem_of_getLast? last)

/-! ### IDENTIFY (11 R195) -/

/-- Settles O19: the request only reads, and the frame of its reply is computed. -/
theorem identifyNamesThePart : Obligations.IdentifyNamesThePart :=
  ⟨fun tag _ taken => request_reads (f := ⟨0x01, tag, []⟩) (fun _ => identifyBody) rfl taken, by decide⟩

end Sys2Proof.Machine
end

section
/-! The receiver of the control link (11 R185 to R187, R193): what it does with a byte in each of its states, and how the bytes of
a whole frame reach the intake. -/

namespace Sys2Proof.Machine

/-! ### A byte in each state of the receiver (11 R186) -/

section
variable {b : Byte} {s : State}

theorem receiveByte_between (between : s.link.receiver = .between) : receiveByte b s = byteBetween b s := by
  rw [receiveByte, between]

/-- A byte within the gap goes on with its frame (11 R186; log 17). -/
theorem receiveByte_inTime {g : List Byte} {last : Stamp} (gathering : s.link.receiver = .inFrame g last)
    (inTime : elapsed last s.counter ≤ 20000) : receiveByte b s = byteInFrame g b s := by
  rw [receiveByte, gathering]
  exact if_neg (by omega)

/-- A byte beyond the gap finds its frame discarded (11 R186; log 17). -/
theorem receiveByte_late {g : List Byte} {last : Stamp} (gathering : s.link.receiver = .inFrame g last)
    (late : 20000 < elapsed last s.counter) : receiveByte b s = byteBetween b (gapExpires s) := by
  rw [receiveByte, gathering]
  exact if_pos late

theorem byteBetween_lead (s : State) : byteBetween 0xB7 s = setReceiver (.inFrame [] s.counter) s := rfl

theorem byteBetween_hold (s : State) : byteBetween 0xC3 s = holdLink s := rfl

theorem byteBetween_goOn (s : State) : byteBetween 0xC5 s = goOnLink s := rfl

theorem byteBetween_other (lead : b ≠ 0xB7) (hold : b ≠ 0xC3) (goOn : b ≠ 0xC5) : byteBetween b s = s := by
  rw [byteBetween, if_neg lead, if_neg hold, if_neg goOn]

theorem badLengthByte_iff (b : Byte) : badLengthByte b = true ↔ b.toNat < 2 ∨ 242 < b.toNat := by
  simp [badLengthByte]

theorem byteInFrame_length (good : 2 ≤ b.toNat ∧ b.toNat ≤ 242) :
    byteInFrame [] b s = setReceiver (.inFrame [b] s.counter) s :=
  if_neg (by rw [badLengthByte_iff]; omega)

theorem byteInFrame_badLength (bad : b.toNat < 2 ∨ 242 < b.toNat) :
    byteInFrame [] b s = linkError 2 (setReceiver .between s) :=
  if_pos ((badLengthByte_iff b).mpr bad)

theorem byteInFrame_gathers {n : Byte} {g : List Byte} (more : g.length + 2 ≠ n.toNat + 2) :
    byteInFrame (n :: g) b s = setReceiver (.inFrame (n :: (g ++ [b])) s.counter) s :=
  if_neg (by simpa using more)

theorem byteInFrame_ends {n : Byte} {g : List Byte} (last : g.length = n.toNat) :
    byteInFrame (n :: g) b s = endFrame (n :: (g ++ [b])) s :=
  if_pos (by simpa using last)

end

/-! ### Frames handed on and errors answered (11 R186, R187) -/

section
variable {s : State}

theorem queueErrorReply_room (r : Reply) (room : s.link.replies.length < 8) :
    queueErrorReply r s = queueReply r s := if_pos room

theorem queueErrorReply_full (r : Reply) (full : 8 ≤ s.link.replies.length) : queueErrorReply r s = s :=
  if_neg (by omega)

theorem acceptFrame_room (f : Frame) (room : s.link.intake.length < 4) :
    acceptFrame f s = { s with link := { s.link with intake := s.link.intake ++ [f] } } := if_pos room

theorem acceptFrame_full (f : Frame) (full : 4 ≤ s.link.intake.length) :
    acceptFrame f s = queueErrorReply ⟨replyKind f.kind, f.tag, [15]⟩ s := if_neg (by omega)

/-- A frame is read back from its bytes (11 R185). -/
theorem frameOfBytes_eq (n k tag b : Byte) (p : List Byte) :
    frameOfBytes (n :: k :: tag :: (p ++ [b])) = ⟨k, tag, p⟩ := by
  simp [frameOfBytes]

theorem endFrame_good {n k tag b : Byte} {p : List Byte} (sum : sumBytes (n :: k :: tag :: (p ++ [b])) = 0) :
    endFrame (n :: k :: tag :: (p ++ [b])) s = acceptFrame ⟨k, tag, p⟩ (setReceiver .between s) := by
  rw [← frameOfBytes_eq n k tag b p]
  exact if_pos sum

theorem endFrame_bad {g : List Byte} (sum : sumBytes g ≠ 0) :
    endFrame g s = linkError 3 (setReceiver .between s) := if_neg sum

/-- What a frame discarded with a cause leaves: the receiver in BETWEEN, and LINK_ERROR if the reply queue has room (11 R186). -/
theorem linkError_between (cause : Nat) (s : State) :
    linkError cause (setReceiver .between s) =
      { s with
        link := { s.link with
          receiver := .between,
          replies :=
            if s.link.replies.length < 8 then s.link.replies ++ [⟨0xFF, 0, [14, BitVec.ofNat 8 cause]⟩]
            else s.link.replies } } := by
  rw [linkError]
  split
  · rename_i room
    exact queueErrorReply_room _ room
  · rename_i full
    exact queueErrorReply_full _ (Nat.le_of_not_lt full)

end

/-! ### The events of the receiver -/

section
variable {s : State} {now : Stamp}

theorem expireGap_between (between : s.link.receiver = .between) : expireGap s = s := by
  rw [expireGap, between]

theorem expireGap_due {g : List Byte} {last : Stamp} (gathering : s.link.receiver = .inFrame g last)
    (due : 20000 ≤ elapsed last s.counter) : expireGap s = gapExpires s := by
  rw [expireGap, gathering]
  exact if_pos due

theorem expireGap_early {g : List Byte} {last : Stamp} (gathering : s.link.receiver = .inFrame g last)
    (early : elapsed last s.counter < 20000) : expireGap s = s := by
  rw [expireGap, gathering]
  exact if_neg (by omega)

/-- A part that waited for the go on is sent (11 R193; log 32). -/
theorem goOnLink_waiting {p : List Byte} {ps : List (List Byte)} (waits : s.link.tx = .sending none (p :: ps)) :
    goOnLink s = { s with link := { s.link with held := false, tx := .sending (some p) ps } } := by
  simp only [goOnLink, waits]

theorem goOnLink_runs (none_waits : ∀ (p : List Byte) (ps : List (List Byte)), s.link.tx ≠ .sending none (p :: ps)) :
    goOnLink s = { s with link := { s.link with held := false } } := by
  unfold goOnLink
  split
  · rename_i p ps waits
    exact absurd waits (none_waits p ps)
  · rfl

theorem exec_byte_between {b : Byte} (between : s.link.receiver = .between) :
    exec (.controlByteReceived b now) s = .next (byteBetween b (elapseTo now s)) :=
  congrArg Host.Outcome.next (receiveByte_between between)

theorem exec_byte_inTime {b : Byte} {g : List Byte} {last : Stamp} (gathering : s.link.receiver = .inFrame g last)
    (inTime : elapsed last now ≤ 20000) :
    exec (.controlByteReceived b now) s = .next (byteInFrame g b (elapseTo now s)) :=
  congrArg Host.Outcome.next (receiveByte_inTime gathering inTime)

end

/-- Settles O9: each clause is one case of the receiver. -/
theorem receiverGathersBytes : Obligations.ReceiverGathersBytes := by
  intro b now s
  refine ⟨fun between lead => ?_, fun between lead hold goOn => ?_, fun last gathering inTime low high => ?_,
    fun n g last gathering inTime more => ?_⟩
  · rw [exec_byte_between between, lead, byteBetween_lead]
    rfl
  · rw [exec_byte_between between, byteBetween_other lead hold goOn]
  · rw [exec_byte_inTime gathering inTime, byteInFrame_length ⟨low, high⟩]
    rfl
  · rw [exec_byte_inTime gathering inTime, byteInFrame_gathers more]
    rfl

/-- Settles O10: the last byte ends the frame, and the check, the intake and the reply queue say how. -/
theorem lastByteEndsTheFrame : Obligations.LastByteEndsTheFrame := by
  intro b n k tag p last now s gathering count inTime
  have ends : exec (.frameReceived b now) s = .next (endFrame (n :: k :: tag :: (p ++ [b])) (elapseTo now s)) := by
    have e : receiveByte b (elapseTo now s) = byteInFrame (n :: k :: tag :: p) b (elapseTo now s) :=
      receiveByte_inTime gathering inTime
    rw [byteInFrame_ends (g := k :: tag :: p) count] at e
    exact congrArg Host.Outcome.next e
  rw [ends]
  refine ⟨fun sum room => ?_, fun sum full room => ?_, fun sum room => ?_, fun full dropped => ?_⟩
  · rw [endFrame_good sum]
    exact congrArg _ (acceptFrame_room _ room)
  · rw [endFrame_good sum]
    exact congrArg _ ((acceptFrame_full (s := setReceiver .between (elapseTo now s)) _ full).trans
      (queueErrorReply_room _ room))
  · rw [endFrame_bad sum, linkError_between]
    exact congrArg _ (by rw [if_pos (by exact room)]; rfl)
  · by_cases sum : sumBytes (n :: k :: tag :: (p ++ [b])) = 0
    · rw [endFrame_good sum]
      exact congrArg _ ((acceptFrame_full (s := setReceiver .between (elapseTo now s)) _ (dropped sum)).trans
        (queueErrorReply_full _ full))
    · rw [endFrame_bad sum]
      exact congrArg _ (queueErrorReply_full _ full)

/-- Settles O11: a bad length and an expired gap discard the frame; a late byte then meets a receiver in BETWEEN. -/
theorem brokenFramesAreDiscarded : Obligations.BrokenFramesAreDiscarded := by
  intro now s discarded hd
  have discards (cause : Nat) :
      linkError cause (setReceiver .between (elapseTo now s)) = discarded (BitVec.ofNat 8 cause) := by
    rw [hd, linkError_between]
    rfl
  refine ⟨fun n last gathering inTime bad => ?_, fun g last gathering due => ?_, fun g last gathering early => ?_,
    fun between => ?_, fun g last b t gathering late lead hold goOn other => ?_⟩
  · exact congrArg Host.Outcome.next
      ((receiveByte_inTime (s := elapseTo now s) gathering inTime).trans ((byteInFrame_badLength bad).trans (discards 2)))
  · exact congrArg Host.Outcome.next ((expireGap_due (s := elapseTo now s) gathering due).trans (discards 1))
  · exact congrArg Host.Outcome.next (expireGap_early (s := elapseTo now s) gathering early)
  · exact congrArg Host.Outcome.next (expireGap_between (s := elapseTo now s) between)
  · have taken : receiveByte b (elapseTo now s) = t := by
      rw [receiveByte_late (s := elapseTo now s) gathering late, gapExpires, discards 1]
      have counter : (discarded 1).counter = now := by rw [hd]; rfl
      have tx : (discarded 1).link.tx = s.link.tx := by rw [hd]
      by_cases h1 : b = 0xB7
      · rw [lead h1, h1, byteBetween_lead, ← counter]
        rfl
      by_cases h2 : b = 0xC3
      · rw [hold h2, h2, byteBetween_hold]
        rfl
      by_cases h3 : b = 0xC5
      · rw [h3, byteBetween_goOn]
        by_cases waits : ∃ (p : List Byte) (ps : List (List Byte)), s.link.tx = .sending none (p :: ps)
        · obtain ⟨p, ps, waits⟩ := waits
          rw [goOn h3 (.sending (some p) ps) ⟨fun q qs e => ?_, fun none_waits => absurd waits (none_waits p ps)⟩]
          · exact goOnLink_waiting (tx.trans waits)
          · rw [waits] at e
            cases e
            rfl
        · push Not at waits
          rw [goOn h3 s.link.tx ⟨fun q qs e => absurd e (waits q qs), fun _ => rfl⟩, ← tx]
          exact goOnLink_runs fun p ps e => waits p ps (tx.symm.trans e)
      · rw [other h1 h2 h3]
        exact byteBetween_other h1 h2 h3
    refine ⟨congrArg _ taken, congrArg _ taken, congrArg _ taken, fun h => ?_, fun h => ?_⟩
    · rw [← taken, h]
      rfl
    · rw [← taken, h]
      rfl

/-- Settles O12: HOLD and GO_ON are bytes taken in BETWEEN. -/
theorem holdAndGoOn : Obligations.HoldAndGoOn := by
  intro now s between
  have goes : exec (.goOn now) s = .next (goOnLink (elapseTo now s)) :=
    congrArg Host.Outcome.next (receiveByte_between (s := elapseTo now s) between)
  refine ⟨congrArg Host.Outcome.next (receiveByte_between (s := elapseTo now s) between), fun none_waits => ?_,
    fun p ps waits => ?_⟩
  · exact goes.trans (congrArg _ (goOnLink_runs none_waits))
  · exact goes.trans (congrArg _ (goOnLink_waiting waits))

/-! ### The bytes of a whole frame (11 R185 to R187) -/

/-- A byte arrives at a counter value. -/
def byteAt (base : Stamp) (d : Nat) (s : State) (x : Byte × Nat) : State :=
  receiveByte x.1 (elapseTo (base + BitVec.ofNat 32 (d * x.2)) s)

/-- Two bytes that follow each other are one spacing apart. -/
theorem elapsed_spacing (base : Stamp) {d : Nat} (gap : d ≤ 20000) (k : Nat) :
    elapsed (base + BitVec.ofNat 32 (d * k)) (base + BitVec.ofNat 32 (d * (k + 1))) ≤ 20000 := by
  have spacing : base + BitVec.ofNat 32 (d * (k + 1)) - (base + BitVec.ofNat 32 (d * k)) = BitVec.ofNat 32 d := by
    rw [Nat.mul_succ, BitVec.ofNat_add]
    bv_omega
  rw [elapsed, spacing, BitVec.toNat_ofNat]
  omega

section
variable {base : Stamp} {d : Nat} {L : Link} {s : State}

/-- The next byte of an evenly spaced frame goes on with it. -/
theorem byteAt_gathering (gap : d ≤ 20000) {g : List Byte} {k : Nat}
    (start : s.link = { L with receiver := .inFrame g (base + BitVec.ofNat 32 (d * k)) }) (b : Byte) :
    byteAt base d s (b, k + 1) = byteInFrame g b (elapseTo (base + BitVec.ofNat 32 (d * (k + 1))) s) :=
  receiveByte_inTime (last := base + BitVec.ofNat 32 (d * k)) (by rw [elapseTo_link, start])
    (elapsed_spacing base gap k)

/-- Evenly spaced bytes behind the count are gathered as long as they do not complete the frame. -/
theorem byteAt_foldl_gathers (gap : d ≤ 20000) (l : List Byte) {n : Byte} {g : List Byte} {k : Nat}
    (start : s.link = { L with receiver := .inFrame (n :: g) (base + BitVec.ofNat 32 (d * k)) })
    (more : g.length + l.length < n.toNat + 1) :
    ((l.zipIdx (k + 1)).foldl (byteAt base d) s).link =
      { L with receiver := .inFrame (n :: (g ++ l)) (base + BitVec.ofNat 32 (d * (k + l.length))) } := by
  induction l generalizing s g k with
  | nil => simpa using start
  | cons b l ih =>
    rw [List.length_cons] at more
    have next : (byteAt base d s (b, k + 1)).link =
        { L with receiver := .inFrame (n :: (g ++ [b])) (base + BitVec.ofNat 32 (d * (k + 1))) } := by
      rw [byteAt_gathering gap start, byteInFrame_gathers (by omega)]
      simp [setReceiver, start]
    rw [List.zipIdx_cons, List.foldl_cons, ih next (by rw [List.length_append, List.length_singleton]; omega)]
    simp [Nat.add_assoc, Nat.add_comm 1]

theorem byteAt_counts (gap : d ≤ 20000) {n : Byte} {k : Nat} (good : 2 ≤ n.toNat ∧ n.toNat ≤ 242)
    (start : s.link = { L with receiver := .inFrame [] (base + BitVec.ofNat 32 (d * k)) }) :
    (byteAt base d s (n, k + 1)).link =
      { L with receiver := .inFrame [n] (base + BitVec.ofNat 32 (d * (k + 1))) } := by
  rw [byteAt_gathering gap start, byteInFrame_length good]
  simp [setReceiver, start]

theorem byteAt_ends (gap : d ≤ 20000) {n kind tag check : Byte} {payload : List Byte} {k : Nat}
    (count : n.toNat = payload.length + 2) (sum : sumBytes (n :: kind :: tag :: (payload ++ [check])) = 0)
    (room : L.intake.length < 4)
    (start : s.link =
      { L with receiver := .inFrame (n :: kind :: tag :: payload) (base + BitVec.ofNat 32 (d * k)) }) :
    (byteAt base d s (check, k + 1)).link =
      { L with receiver := .between, intake := L.intake ++ [⟨kind, tag, payload⟩] } := by
  rw [byteAt_gathering gap start, byteInFrame_ends (g := kind :: tag :: payload) count.symm, List.cons_append,
    List.cons_append, endFrame_good sum, acceptFrame_room]
  · simp [setReceiver, start]
  · simpa [setReceiver, start] using room

end

/-- Settles O8: the lead starts the frame, the bytes up to the payload's last are gathered, and the check ends it. -/
theorem frameBytesReachTheIntake : Obligations.FrameBytesReachTheIntake := by
  intro s kind tag payload base d fits gap between room
  obtain ⟨n, check, layout, count, sum⟩ := frameBytes_layout kind tag fits
  have lead : (byteAt base d s (0xB7, 0)).link =
      { s.link with receiver := .inFrame [] (base + BitVec.ofNat 32 (d * 0)) } :=
    congrArg State.link (receiveByte_between (s := elapseTo (base + BitVec.ofNat 32 (d * 0)) s) between)
  have counted := byteAt_counts (n := n) gap (by omega) lead
  have gathered := byteAt_foldl_gathers (g := []) gap (kind :: tag :: payload) counted
    (by simp only [List.length_cons, List.length_nil]; omega)
  have ended := byteAt_ends gap count sum room gathered
  have bytes : (frameBytes kind tag payload).zipIdx =
      (0xB7, 0) :: (n, 1) :: ((kind :: tag :: payload).zipIdx 2 ++ [(check, 1 + (payload.length + 2) + 1)]) := by
    simp only [layout, List.zipIdx_cons, List.zipIdx_append, List.zipIdx_nil, List.cons_append, Nat.zero_add,
      Nat.reduceAdd, show 4 + payload.length = 1 + (payload.length + 2) + 1 by omega]
  rw [← between] at ended
  rw [bytes, List.foldl_cons, List.foldl_cons, List.foldl_append]
  exact ended

end Sys2Proof.Machine
end

section
/-! The transmitter of the control link (11 R192, R193). -/

namespace Sys2Proof.Machine

section
variable {s : State}

theorem chooseFrame_idle (idle : s.link.held = true ∨ s.link.tx ≠ .free ∨ (s.link.replies = [] ∧ s.link.notices = [])) :
    chooseFrame s = s := by
  unfold chooseFrame
  split
  · rename_i free
    split
    · rfl
    · rename_i running
      rcases idle with held | sending | ⟨no_reply, no_notice⟩
      · exact absurd held running
      · exact absurd free sending
      · rw [no_reply, no_notice]
  · rfl

theorem chooseFrame_reply (free : s.link.tx = .free) (running : s.link.held = false) {r : Reply} {rest : List Reply}
    (replies : s.link.replies = r :: rest) :
    chooseFrame s = startFrames r.frames { s with link := { s.link with replies := rest } } := by
  simp only [chooseFrame, free, running, replies, Bool.false_eq_true, if_false]

theorem chooseFrame_notice (free : s.link.tx = .free) (running : s.link.held = false) (no_reply : s.link.replies = [])
    {n : NoticeFrame} {rest : List NoticeFrame} (notices : s.link.notices = n :: rest) :
    chooseFrame s = startFrames [n.bytes] { s with link := { s.link with notices := rest } } := by
  simp only [chooseFrame, free, running, no_reply, notices, Bool.false_eq_true, if_false]

end

/-- Settles O14: the oldest reply, else the oldest notice, else nothing. -/
theorem transmitterChooses : Obligations.TransmitterChooses := by
  intro now s
  refine ⟨fun free running r rest f fs replies frames => ?_, fun free running no_reply n rest notices => ?_,
    fun idle => ?_⟩
  · refine congrArg Host.Outcome.next ((chooseFrame_reply (s := elapseTo now s) free running replies).trans ?_)
    rw [frames]
    rfl
  · exact congrArg Host.Outcome.next (chooseFrame_notice (s := elapseTo now s) free running no_reply notices)
  · exact congrArg Host.Outcome.next (chooseFrame_idle (s := elapseTo now s) idle)

theorem exec_frameEnd (now : Stamp) (s : State) {tx : Transmitter} (after : s.link.tx.afterFrame s.link.held = tx) :
    exec (.transmitFrameEnd now) s = .next { elapseTo now s with link := { s.link with tx } } := by
  rw [← after]
  rfl

/-- Settles O15: the transmitter after its frame, with and without a further part. -/
theorem transmitterEndsFrames : Obligations.TransmitterEndsFrames := by
  intro now f s
  refine ⟨fun last => exec_frameEnd now s ?_, fun p ps parts => exec_frameEnd now s ?_⟩
  · rw [last]
    rfl
  · rw [parts]
    rfl

end Sys2Proof.Machine
end

section
/-! Requests as they are handled (11 R189, R190): every request is performed by its owning block and answered once, with a result
code first, and one that is refused changes nothing. -/

namespace Sys2Proof.Machine

/-- Settles O1: the step of a queue with a command at its front. -/
theorem stepPerformsFrontCommand : Obligations.StepPerformsFrontCommand := fun _ _ _ => rfl

/-! ### What a request's performance answers (11 R190) -/

/-- A performance's body begins with a result code, and its state is the old one when the code is a refusal. -/
def AnswersFrom (s : State) (r : State × List Byte) : Prop :=
  ∃ c : ResultCode, r.2.head? = some (BitVec.ofNat 8 c.code) ∧ (3 ≤ c.code → r.1 = s)

section
variable {s : State}

theorem answersFrom_refuse (c : ResultCode) : AnswersFrom s (refuse c s) := ⟨c, rfl, fun _ => rfl⟩

theorem answersFrom_refuseKey (c : ResultCode) (key : WireKey) : AnswersFrom s (refuseKey c key s) :=
  ⟨c, rfl, fun _ => rfl⟩

/-- A request that only reads changes nothing, whatever its code. -/
theorem answersFrom_read (c : ResultCode) {body : List Byte} (first : body.head? = some (BitVec.ofNat 8 c.code)) :
    AnswersFrom s (s, body) := ⟨c, first, fun _ => rfl⟩

/-- A request that is performed answers OK, ADJUSTED or DEFERRED. -/
theorem answersFrom_performed {t : State} {body : List Byte} (c : ResultCode)
    (first : body.head? = some (BitVec.ofNat 8 c.code)) (accepted : c.code < 3) : AnswersFrom s (t, body) :=
  ⟨c, first, fun refused => absurd accepted (Nat.not_lt_of_le refused)⟩

theorem answersFrom_ok {t : State} {body : List Byte} (first : body.head? = some 0) : AnswersFrom s (t, body) :=
  answersFrom_performed .ok first (by decide)

theorem okOr_code_lt (adjusted : Bool) : (okOr adjusted).code < 3 := by cases adjusted <;> decide

theorem answersFrom_okOr {t : State} {body : List Byte} (adjusted : Bool)
    (first : body.head? = some (BitVec.ofNat 8 (okOr adjusted).code)) : AnswersFrom s (t, body) :=
  answersFrom_performed _ first (okOr_code_lt adjusted)

end

/-! ### Each request's answer -/

section
variable (s : State)

theorem identify_answers : AnswersFrom s (s, identifyBody) := answersFrom_read .ok rfl

theorem statusBody_head? : (statusBody s).head? = some 0 := by
  unfold statusBody
  simp only [List.append_assoc]
  rfl

theorem getStatus_answers : AnswersFrom s (s, statusBody s) := answersFrom_read .ok (statusBody_head? s)

theorem restart_answers : AnswersFrom s (restartPerform s) := by
  unfold restartPerform
  exact answersFrom_ok rfl

theorem setTracking_answers (x : TrackingItems) : AnswersFrom s (setTrackingPerform x s) := by
  unfold setTrackingPerform
  exact answersFrom_okOr _ rfl

theorem setSchedule_answers (w : Option Half) : AnswersFrom s (setSchedulePerform w s) := by
  unfold setSchedulePerform
  exact answersFrom_okOr _ rfl

theorem setTakeTiming_answers (x : TakeTimingItems) : AnswersFrom s (setTakeTimingPerform x s) := by
  unfold setTakeTimingPerform
  exact answersFrom_okOr _ rfl

theorem setPassTiming_answers (x : PassTimingItems) : AnswersFrom s (setPassTimingPerform x s) := by
  unfold setPassTimingPerform
  exact answersFrom_okOr _ rfl

theorem setNotices_answers (m : MaskItems) : AnswersFrom s (setNoticesPerform m s) := by
  unfold setNoticesPerform
  split
  · exact answersFrom_refuse _
  · exact answersFrom_ok rfl

theorem setChannel_answers (ch : Byte) (x : ChannelItems) : AnswersFrom s (setChannelPerform ch x s) := by
  unfold setChannelPerform
  split
  · exact answersFrom_refuse _
  · split
    · exact answersFrom_refuse _
    · refine answersFrom_performed _ rfl ?_
      split
      · decide
      · exact okOr_code_lt _

theorem setGuard_answers (n : Byte) (x : GuardItems) : AnswersFrom s (setGuardPerform n x s) := by
  unfold setGuardPerform
  split
  · exact answersFrom_refuse _
  · split
    · exact answersFrom_refuse _
    · exact answersFrom_okOr _ rfl

theorem bankSetup_answers (r : Byte) : AnswersFrom s (bankSetupPerform r s) := by
  unfold bankSetupPerform
  split
  · exact answersFrom_refuse _
  · split
    · exact answersFrom_refuse _
    · split
      · exact answersFrom_refuse _
      · exact answersFrom_ok rfl

theorem loadCue_answers (key : WireKey) (x : CueItems) : AnswersFrom s (loadCuePerform key x s) := by
  unfold loadCuePerform
  dsimp only
  split
  · exact answersFrom_refuseKey _ _
  · split
    · exact answersFrom_refuseKey _ _
    · split
      · exact answersFrom_refuseKey _ _
      · split
        · exact answersFrom_refuseKey _ _
        · exact answersFrom_okOr _ rfl

theorem dropCue_answers (key : WireKey) : AnswersFrom s (dropCuePerform key s) := by
  unfold dropCuePerform
  split
  · exact answersFrom_refuse _
  · split
    · exact answersFrom_refuse _
    · split
      · exact answersFrom_refuse _
      · exact answersFrom_ok rfl

theorem clearBank_answers : AnswersFrom s (clearBankPerform s) := by
  unfold clearBankPerform
  split
  · exact answersFrom_refuse _
  · exact answersFrom_ok rfl

theorem switchBank_answers : AnswersFrom s (switchBankPerform s) := by
  unfold switchBankPerform
  dsimp only
  split
  · exact answersFrom_refuse _
  · split
    · exact answersFrom_performed .deferred rfl (by decide)
    · exact answersFrom_ok rfl

theorem cancelSwitch_answers : AnswersFrom s (cancelSwitchPerform s) := by
  unfold cancelSwitchPerform
  split
  · exact answersFrom_ok rfl
  · exact answersFrom_refuse _

theorem editRecord_answers (key : WireKey) (f : EditFields) (x : CueEdit) (old : Cue) :
    AnswersFrom s (editRecord key f x old s) := by
  unfold editRecord
  dsimp only
  split
  · exact answersFrom_ok rfl
  · split
    · refine answersFrom_performed _ rfl ?_
      split
      · decide
      · exact okOr_code_lt _
    · exact answersFrom_refuseKey _ _

theorem updateCue_answers (key : WireKey) (x : CueEdit) : AnswersFrom s (updateCuePerform key x s) := by
  unfold updateCuePerform
  split
  · split
    · exact answersFrom_refuseKey _ _
    · exact editRecord_answers ..
  · exact answersFrom_refuseKey _ _

theorem readCue_answers (b : Byte) (key : WireKey) : AnswersFrom s (s, readCueBody b key s) := by
  unfold readCueBody
  split
  · dsimp only
    split
    · exact answersFrom_read .unknownKey rfl
    · exact answersFrom_read .ok rfl
  · exact answersFrom_read .range rfl

theorem listCues_answers (b : Byte) (n : Half) : AnswersFrom s (s, listCuesBody b n s) := by
  unfold listCuesBody
  split
  · exact answersFrom_read .range rfl
  · split
    · exact answersFrom_read .range rfl
    · exact answersFrom_read .ok rfl

theorem cueState_answers (key : WireKey) : AnswersFrom s (s, cueStateBody key s) := by
  unfold cueStateBody
  split
  · exact answersFrom_read .range rfl
  · split
    · exact answersFrom_read .unknownKey rfl
    · exact answersFrom_read .ok rfl

theorem armBody_head? (i : Nat) : (armBody i s).head? = some 0 := by
  unfold armBody
  split
  · rfl
  · rfl

theorem armTake_answers (key : WireKey) (x : Option Half) : AnswersFrom s (armTakePerform key x s) := by
  unfold armTakePerform
  split
  · exact answersFrom_refuse _
  · split
    · exact answersFrom_refuse _
    · exact answersFrom_ok (armBody_head? _ _)

theorem disarm_answers (w : KeyOrAll) : AnswersFrom s (disarmPerform w s) := by
  unfold disarmPerform
  split
  · exact answersFrom_refuse _
  · dsimp only
    split
    · exact answersFrom_refuse _
    · refine answersFrom_performed _ rfl ?_
      split
      · decide
      · decide

theorem abortTake_answers (w : KeyOrAll) : AnswersFrom s (abortTakePerform w s) := by
  unfold abortTakePerform
  split
  · exact answersFrom_refuse _
  · dsimp only
    split
    · exact answersFrom_refuse _
    · exact answersFrom_ok rfl

theorem readTake_answers (w : TakeSelector) : AnswersFrom s (s, readTakeBody w s) := by
  unfold readTakeBody
  cases w with
  | number n =>
    dsimp only
    split
    · exact answersFrom_read .range rfl
    · split
      · exact answersFrom_read .unknownKey rfl
      · exact answersFrom_read .ok rfl
  | oldestUncollected =>
    dsimp only
    split
    · exact answersFrom_read .state rfl
    · exact answersFrom_read .ok rfl

theorem collectTakes_answers (n : Half) : AnswersFrom s (collectTakesPerform n s) := by
  unfold collectTakesPerform
  split
  · exact answersFrom_refuse _
  · split
    · exact answersFrom_refuse _
    · exact answersFrom_ok rfl

theorem clearSlots_answers (w : KeyOrAll) : AnswersFrom s (clearSlotsPerform w s) := by
  unfold clearSlotsPerform
  split
  · exact answersFrom_refuse _
  · dsimp only
    split
    · exact answersFrom_refuse _
    · exact answersFrom_ok rfl

theorem readSlots_answers (key : WireKey) : AnswersFrom s (s, readSlotsBody key s) := by
  unfold readSlotsBody
  split
  · exact answersFrom_read .range rfl
  · exact answersFrom_read .ok rfl

theorem startPass_answers (x : PassItems) : AnswersFrom s (startPassPerform x s) := by
  unfold startPassPerform
  split
  · exact answersFrom_refuse _
  · split
    · exact answersFrom_refuse _
    · split
      · exact answersFrom_okOr _ rfl
      · split
        · exact answersFrom_okOr _ rfl
        · exact answersFrom_refuse _

theorem stopCycle_answers : AnswersFrom s (stopCyclePerform s) := by
  unfold stopCyclePerform
  split
  · exact answersFrom_refuse _
  · exact answersFrom_ok rfl

theorem abandonPass_answers : AnswersFrom s (abandonPassPerform s) := by
  unfold abandonPassPerform
  split
  · exact answersFrom_refuse _
  · exact answersFrom_ok rfl

theorem readFaults_answers : AnswersFrom s (s, faultsBody s) := answersFrom_read .ok rfl

theorem clearFault_answers (n : Byte) : AnswersFrom s (clearFaultPerform n s) := by
  unfold clearFaultPerform
  split
  · exact answersFrom_refuse _
  · split
    · exact answersFrom_refuse _
    · exact answersFrom_ok rfl

theorem clearOverflow_answers : AnswersFrom s (clearOverflowPerform s) := by
  unfold clearOverflowPerform
  split
  · exact answersFrom_ok rfl
  · exact answersFrom_refuse _

end

/-! ### Every request -/

/-- How a request is handled: its frame is taken, it is performed in moves of its own, and its body answers it (11 R189). -/
structure HandledBy (i : Instr) (perform : State → State × List Byte) : Prop where
  exec_eq : ∀ s, exec i s = request i perform s
  moves : Performs perform
  answers : ∀ s, AnswersFrom s (perform s)

/-- Every command with a frame is handled, but for a MALFORMED_REQUEST whose frame spells a request (log 16). -/
theorem exists_handledBy {i : Instr} (h : Instr.isRequest i = true)
    (spoilt : ∀ k t p, i = .malformedRequest k t p → (malformedCause k p).isSome = true) :
    ∃ perform, HandledBy i perform := by
  cases i with
  | malformedRequest k tag p =>
    obtain ⟨c, hc⟩ := Option.isSome_iff_exists.mp (spoilt k tag p rfl)
    refine ⟨fun s => (s, ResultCode.malformed.item ++ b1 c), fun s => ?_, .read _,
      fun s => answersFrom_read .malformed rfl⟩
    simp only [exec, execMalformedRequest, hc]
  | identify tag => exact ⟨_, fun _ => rfl, .read _, identify_answers⟩
  | getStatus tag => exact ⟨_, fun _ => rfl, .read _, getStatus_answers⟩
  | setNotices tag m => exact ⟨_, fun _ => rfl, setNotices_performs m, (setNotices_answers · m)⟩
  | restart tag => exact ⟨_, fun _ => rfl, restart_performs, restart_answers⟩
  | setTracking tag x => exact ⟨_, fun _ => rfl, setTracking_performs x, (setTracking_answers · x)⟩
  | setSchedule tag w => exact ⟨_, fun _ => rfl, setSchedule_performs w, (setSchedule_answers · w)⟩
  | setChannel tag ch x => exact ⟨_, fun _ => rfl, setChannel_performs ch x, (setChannel_answers · ch x)⟩
  | setTakeTiming tag x => exact ⟨_, fun _ => rfl, setTakeTiming_performs x, (setTakeTiming_answers · x)⟩
  | setPassTiming tag x => exact ⟨_, fun _ => rfl, setPassTiming_performs x, (setPassTiming_answers · x)⟩
  | setGuard tag n x => exact ⟨_, fun _ => rfl, setGuard_performs n x, (setGuard_answers · n x)⟩
  | bankSetup tag r => exact ⟨_, fun _ => rfl, bankSetup_performs r, (bankSetup_answers · r)⟩
  | loadCue tag k x => exact ⟨_, fun _ => rfl, loadCue_performs k x, (loadCue_answers · k x)⟩
  | dropCue tag k => exact ⟨_, fun _ => rfl, dropCue_performs k, (dropCue_answers · k)⟩
  | clearBank tag => exact ⟨_, fun _ => rfl, clearBank_performs, clearBank_answers⟩
  | switchBank tag => exact ⟨_, fun _ => rfl, switchBank_performs, switchBank_answers⟩
  | cancelSwitch tag => exact ⟨_, fun _ => rfl, cancelSwitch_performs, cancelSwitch_answers⟩
  | updateCue tag k x => exact ⟨_, fun _ => rfl, updateCue_performs k x, (updateCue_answers · k x)⟩
  | readCue tag b k => exact ⟨_, fun _ => rfl, .read _, (readCue_answers · b k)⟩
  | listCues tag b n => exact ⟨_, fun _ => rfl, .read _, (listCues_answers · b n)⟩
  | cueState tag k => exact ⟨_, fun _ => rfl, .read _, (cueState_answers · k)⟩
  | armTake tag k x => exact ⟨_, fun _ => rfl, armTake_performs k x, (armTake_answers · k x)⟩
  | disarm tag w => exact ⟨_, fun _ => rfl, disarm_performs w, (disarm_answers · w)⟩
  | abortTake tag w => exact ⟨_, fun _ => rfl, abortTake_performs w, (abortTake_answers · w)⟩
  | readTake tag w => exact ⟨_, fun _ => rfl, .read _, (readTake_answers · w)⟩
  | collectTakes tag n => exact ⟨_, fun _ => rfl, collectTakes_performs n, (collectTakes_answers · n)⟩
  | clearSlots tag w => exact ⟨_, fun _ => rfl, clearSlots_performs w, (clearSlots_answers · w)⟩
  | readSlots tag k => exact ⟨_, fun _ => rfl, .read _, (readSlots_answers · k)⟩
  | startPass tag x => exact ⟨_, fun _ => rfl, startPass_performs x, (startPass_answers · x)⟩
  | stopCycle tag => exact ⟨_, fun _ => rfl, stopCycle_performs, stopCycle_answers⟩
  | abandonPass tag => exact ⟨_, fun _ => rfl, abandonPass_performs, abandonPass_answers⟩
  | readFaults tag => exact ⟨_, fun _ => rfl, .read _, readFaults_answers⟩
  | clearFault tag n => exact ⟨_, fun _ => rfl, clearFault_performs n, (clearFault_answers · n)⟩
  | clearOverflow tag => exact ⟨_, fun _ => rfl, clearOverflow_performs, clearOverflow_answers⟩
  | _ => cases h

/-- A MALFORMED_REQUEST whose frame spells a request changes nothing (log 16). -/
theorem exec_malformedRequest_spelt {k tag : Byte} {p : List Byte} (spelt : malformedCause k p = none) (s : State) :
    exec (.malformedRequest k tag p) s = .next s := by
  simp only [exec, execMalformedRequest, spelt]

/-- A command with a frame is handled, or is a MALFORMED_REQUEST that changes nothing. -/
theorem handledBy_or_unchanged {i : Instr} (h : Instr.isRequest i = true) :
    (∃ perform, HandledBy i perform) ∨ ∀ s, exec i s = .next s := by
  by_cases spoilt : ∀ k t p, i = .malformedRequest k t p → (malformedCause k p).isSome = true
  · exact .inl (exists_handledBy h spoilt)
  · push Not at spoilt
    obtain ⟨k, t, p, rfl, spelt⟩ := spoilt
    exact .inr (exec_malformedRequest_spelt (by simpa using spelt))

/-- A request that cannot be taken leaves the state as it is (log 3). -/
theorem request_not_taken {i : Instr} (perform : State → State × List Byte) {s : State} (c : s.canTake i = false) :
    request i perform s = .next s := by
  unfold request
  split
  · rfl
  · rename_i f hf
    have none_taken : takeFrame f s = none := by
      simp only [State.canTake, hf, Bool.and_eq_false_iff, Bool.or_eq_false_iff, decide_eq_false_iff_not] at c
      unfold takeFrame
      split
      · rfl
      · rename_i room
        obtain full | ⟨waiting, other⟩ := c
        · exact absurd (Nat.le_of_not_lt full) room
        · split
          · rename_i empty
            simp [empty] at waiting
          · rename_i g rest frames
            exact if_neg fun same => other (by rw [frames, same]; rfl)
    rw [handleRequest, none_taken]

theorem State.canTake_frame {s : State} {i : Instr} (c : s.canTake i = true) : ∃ f, requestFrame i = some f := by
  cases h : requestFrame i with
  | none => simp [State.canTake, h] at c
  | some f => exact ⟨f, rfl⟩

section
variable {i : Instr} {f : Frame} {perform : State → State × List Byte} {s : State}

/-- A request that is taken leaves what its performance leaves, and its one reply (11 R189). -/
theorem HandledBy.exec_taken (handled : HandledBy i perform) (h : requestFrame i = some f) (c : s.canTake i = true) :
    exec i s = .next ((perform s.taken).1.answered (replyKind f.kind) f.tag (perform s.taken).2) := by
  rw [handled.exec_eq, request_taken perform h c]

theorem HandledBy.replies (handled : HandledBy i perform) : (perform s.taken).1.link.replies = s.link.replies :=
  (handled.moves s.taken).keepsBounds.unanswered rfl

end

/-- Settles O16: a taken request's performance answers with a code and leaves the reply queue to its own reply. -/
theorem handledRequestIsAnsweredOnce : Obligations.HandledRequestIsAnsweredOnce := by
  refine ⟨fun i f s h c spoilt => ?_, fun i s h c => ?_⟩
  · obtain ⟨perform, handled⟩ := exists_handledBy (by rw [Instr.isRequest, h]; rfl) spoilt
    obtain ⟨code, first, -⟩ := handled.answers s.taken
    obtain ⟨items, body⟩ := List.head?_eq_some_iff.mp first
    refine ⟨_, code, items, handled.exec_taken h c, ?_⟩
    rw [State.answered, handled.replies, body]
    rfl
  · obtain ⟨perform, handled⟩ | unchanged := handledBy_or_unchanged h
    · rw [handled.exec_eq, request_not_taken perform c]
    · exact unchanged s

theorem ResultCode.code_toNat (c : ResultCode) : (BitVec.ofNat 8 c.code).toNat = c.code := by cases c <;> rfl

/-- Settles O17: a body that begins with a refusal belongs to a performance that leaves the state as it is. -/
theorem refusedRequestChangesNothing : Obligations.RefusedRequestChangesNothing := by
  intro i s t r c e reply refused
  obtain ⟨f, h⟩ := State.canTake_frame c
  obtain ⟨perform, handled⟩ | unchanged := handledBy_or_unchanged (by rw [Instr.isRequest, h]; rfl)
  · rw [handled.exec_taken h c] at e
    cases e
    have same : r = ⟨replyKind f.kind, f.tag, (perform s.taken).2⟩ := by
      simpa [State.answered, handled.replies] using reply.symm
    obtain ⟨code, first, stays⟩ := handled.answers s.taken
    obtain ⟨items, body⟩ := List.head?_eq_some_iff.mp first
    rw [same, body] at refused
    rw [same, stays (by simpa [isRefusal, code.code_toNat] using refused)]
  · rw [unchanged] at e
    cases e
    simp at reply

end Sys2Proof.Machine
end

section
/-! How a payload is read (11 R188, R189): each reader takes the bytes that its value is written as, and a presence or selector
byte above 1 leaves readings that are not sound (log 16). -/

namespace Sys2Proof.Machine

/-! ### Ways to read -/

theorem Readings.mem_got {α : Type} {x : Reading α} {a : α} {l : List Byte} :
    x ∈ Readings.got a l ↔ x = ⟨a, true, l⟩ := List.mem_singleton

theorem Readings.mem_andThen {α β : Type} {p : Readings α} {f : α → List Byte → Readings β} {z : Reading β} :
    z ∈ p.andThen f ↔ ∃ x ∈ p, ∃ y ∈ f x.value x.rest, { y with sound := x.sound && y.sound } = z := by
  simp only [Readings.andThen, List.mem_flatMap, List.mem_map]

/-! ### What a reading spells -/

/-- A reading of `l` takes as many bytes as its value is written as (`W v u`: the bytes `u` write the value `v`), and those very
bytes when it is sound; and the bytes it takes are read alike whatever follows them. -/
def SpelledBy {α : Type} (read : List Byte → Readings α) (W : α → List Byte → Prop) (l : List Byte) (x : Reading α) :
    Prop :=
  ∃ head u, l = head ++ x.rest ∧ W x.value u ∧ head.length = u.length ∧ (x.sound = true → head = u)
    ∧ ∀ more, { x with rest := more } ∈ read (head ++ more)

/-- A reader whose every reading is spelled by the bytes it takes. -/
def Spells {α : Type} (read : List Byte → Readings α) (W : α → List Byte → Prop) : Prop :=
  ∀ l, ∀ x ∈ read l, SpelledBy read W l x

section
variable {α β : Type} {read : List Byte → Readings α} {W W' : α → List Byte → Prop}

theorem Spells.mono (h : Spells read W) (le : ∀ v u, W v u → W' v u) : Spells read W' := by
  intro l x hx
  obtain ⟨head, u, split, writes, rest⟩ := h l x hx
  exact ⟨head, u, split, le _ _ writes, rest⟩

theorem spells_got (v : α) : Spells (Readings.got v) fun w u => w = v ∧ u = [] := by
  intro l x hx
  cases Readings.mem_got.mp hx
  exact ⟨[], [], rfl, ⟨rfl, rfl⟩, rfl, fun _ => rfl, fun more => List.mem_singleton_self _⟩

theorem Spells.andThen {f : α → List Byte → Readings β} {V : α → β → List Byte → Prop} (h : Spells read W)
    (k : ∀ a, Spells (f a) (V a)) :
    Spells (fun l => (read l).andThen f) fun v u => ∃ a u1 u2, u = u1 ++ u2 ∧ W a u1 ∧ V a v u2 := by
  intro l z hz
  obtain ⟨x, hx, y, hy, rfl⟩ := Readings.mem_andThen.mp hz
  obtain ⟨head1, u1, split1, writes1, length1, sound1, again1⟩ := h l x hx
  obtain ⟨head2, u2, split2, writes2, length2, sound2, again2⟩ := k x.value x.rest y hy
  refine ⟨head1 ++ head2, u1 ++ u2, ?_, ⟨x.value, u1, u2, rfl, writes1, writes2⟩, ?_, fun s => ?_, fun more => ?_⟩
  · rw [split1, split2, List.append_assoc]
  · simp [length1, length2]
  · obtain ⟨s1, s2⟩ := Bool.and_eq_true_iff.mp s
    rw [sound1 s1, sound2 s2]
  · rw [List.append_assoc]
    exact Readings.mem_andThen.mpr ⟨_, again1 _, _, again2 more, rfl⟩

/-- An item read ahead of the rest: its bytes stand ahead. -/
theorem Spells.next {item : α → List Byte} {f : α → List Byte → Readings β} {V : α → β → List Byte → Prop}
    (h : Spells read fun v u => u = item v) (k : ∀ a, Spells (f a) (V a)) :
    Spells (fun l => (read l).andThen f) fun v u => ∃ a u', u = item a ++ u' ∧ V a v u' := by
  refine (h.andThen k).mono ?_
  rintro v _ ⟨a, _, u', rfl, rfl, writes⟩
  exact ⟨a, u', rfl, writes⟩

/-- A reader that only renames what another reads. -/
theorem Spells.map {item : α → List Byte} (h : Spells read fun v u => u = item v) (g : α → β) :
    Spells (fun l => (read l).andThen fun a l => .got (g a) l) fun v u => ∃ a, v = g a ∧ u = item a := by
  refine (h.andThen fun a => spells_got (g a)).mono ?_
  rintro _ _ ⟨a, _, _, rfl, rfl, rfl, rfl⟩
  exact ⟨a, rfl, List.append_nil _⟩

end

/-! ### Items (11 R188) -/

theorem spells_byte : Spells readByte fun b u => u = one b := by
  intro l x hx
  cases l with
  | nil => cases hx
  | cons b rest =>
    cases Readings.mem_got.mp hx
    exact ⟨[b], [b], rfl, rfl, rfl, fun _ => rfl, fun more => List.mem_singleton_self _⟩

theorem half_append (a b : Byte) : half (a ++ b : BitVec 16) = [a, b] :=
  congrArg₂ (fun x y => [x, y]) BitVec.extractLsb'_append_eq_left BitVec.extractLsb'_append_eq_right

theorem spells_half : Spells readHalf fun w u => u = half w := by
  intro l x hx
  match l, hx with
  | a :: b :: rest, hx =>
    cases Readings.mem_got.mp hx
    exact ⟨[a, b], [a, b], rfl, (half_append a b).symm, rfl, fun _ => rfl, fun more => List.mem_singleton_self _⟩

theorem spells_key : Spells readKey fun k u => u = wireKeyItem k := by
  intro l x hx
  match l, hx with
  | a :: b :: c :: rest, hx =>
    cases Readings.mem_got.mp hx
    exact ⟨[a, b, c], [a, b, c], rfl, congrArg (· ++ [c]) (half_append a b).symm, rfl, fun _ => rfl,
      fun more => List.mem_singleton_self _⟩

theorem spells_pos : Spells readPos fun p u => u = wirePosItem p := by
  intro l x hx
  match l, hx with
  | a :: b :: c :: d :: e :: rest, hx =>
    cases Readings.mem_got.mp hx
    exact ⟨[a, b, c, d, e], [a, b, c, d, e], rfl, rfl, rfl, fun _ => rfl, fun more => List.mem_singleton_self _⟩

theorem spells_text : Spells readText fun t u => u = textItem t := by
  intro l x hx
  cases l with
  | nil => cases hx
  | cons n rest =>
    rw [readText] at hx
    split at hx
    · cases hx
    · rename_i enough
      cases Readings.mem_got.mp hx
      have length : (rest.take n.toNat).length = n.toNat := by
        rw [List.length_take]
        omega
      refine ⟨n :: rest.take n.toNat, n :: rest.take n.toNat, ?_, ?_, rfl, fun _ => rfl, fun more => ?_⟩
      · simp
      · simp [textItem, length, b1]
      · rw [List.cons_append, readText, if_neg (by simp [length]), List.take_left' length, List.drop_left' length]
        exact List.mem_singleton_self _

section
variable {α : Type}

/-- What is read behind a byte is spelled with the byte's sound value ahead of it. -/
theorem SpelledBy.behind {read read' : List Byte → Readings α} {W W' : α → List Byte → Prop} {b mark : Byte}
    {l : List Byte} {y : Reading α} {sound : Bool} (h : SpelledBy read' W' l y) (writes : ∀ u, W' y.value u → W y.value (mark :: u))
    (same : sound = true → b = mark ∧ y.sound = true)
    (again : ∀ l more, { y with rest := more } ∈ read' l → ⟨y.value, sound, more⟩ ∈ read (b :: l)) :
    SpelledBy read W (b :: l) { y with sound } := by
  obtain ⟨head, u, split, written, length, exactly, again'⟩ := h
  refine ⟨b :: head, mark :: u, congrArg (b :: ·) split, writes u written, congrArg (· + 1) length, fun s => ?_,
    fun more => again _ more (again' more)⟩
  obtain ⟨rfl, s'⟩ := same s
  rw [exactly s']

/-- A presence or selector byte and what follows it: the bytes 0 and 1 write the two meanings. -/
theorem spells_choose {read zero one : List Byte → Readings α} {Z O : α → List Byte → Prop} (nil : read [] = [])
    (cons : ∀ b l, read (b :: l) = .choose b (zero l) (one l)) (hz : Spells zero Z) (ho : Spells one O) :
    Spells read fun v u => (∃ u', u = 0 :: u' ∧ Z v u') ∨ ∃ u', u = 1 :: u' ∧ O v u' := by
  intro l x hx
  cases l with
  | nil => rw [nil] at hx; cases hx
  | cons b rest =>
    rw [cons, Readings.choose] at hx
    split at hx
    · rename_i is_zero
      refine (hz rest x hx).behind (fun u w => .inl ⟨u, rfl, w⟩) (fun s => ⟨is_zero, s⟩) fun l more m => ?_
      rwa [cons, is_zero]
    · rename_i not_zero
      split at hx
      · rename_i is_one
        refine (ho rest x hx).behind (fun u w => .inr ⟨u, rfl, w⟩) (fun s => ⟨is_one, s⟩) fun l more m => ?_
        rwa [cons, is_one]
      · rename_i not_one
        obtain ⟨y, hy, rfl⟩ := List.mem_map.mp hx
        have both {l more} (m : { y with rest := more } ∈ zero l ++ one l) : ⟨y.value, false, more⟩ ∈ read (b :: l) := by
          rw [cons, Readings.choose, if_neg not_zero, if_neg not_one]
          exact List.mem_map.mpr ⟨_, m, rfl⟩
        rcases List.mem_append.mp hy with hy | hy
        · exact (hz rest y hy).behind (fun u w => .inl ⟨u, rfl, w⟩) (nomatch ·) fun l more m =>
            both (List.mem_append_left _ m)
        · exact (ho rest y hy).behind (fun u w => .inr ⟨u, rfl, w⟩) (nomatch ·) fun l more m =>
            both (List.mem_append_right _ m)

theorem spells_opt {read : List Byte → Readings α} {item : α → List Byte} (h : Spells read fun v u => u = item v) :
    Spells (readOpt read) fun v u => u = opt item v := by
  refine (spells_choose rfl (fun _ _ => rfl) (spells_got none) (h.map some)).mono ?_
  rintro _ _ (⟨_, rfl, rfl, rfl⟩ | ⟨_, rfl, a, rfl, rfl⟩)
  · rfl
  · rfl

/-- A selected value: the bytes of the value, or none, as the selection says (03 R56). -/
theorem spells_selected {read : List Byte → Readings α} {item : α → List Byte} (sel : Bool)
    (h : Spells read fun v u => u = item v) :
    Spells (readSelected sel read) fun v u => v.isSome = sel ∧ u = selected item v := by
  cases sel with
  | true =>
    refine Spells.mono (h.map some) ?_
    rintro _ _ ⟨a, rfl, rfl⟩
    exact ⟨rfl, rfl⟩
  | false =>
    refine Spells.mono (spells_got none) ?_
    rintro _ _ ⟨rfl, rfl⟩
    exact ⟨rfl, rfl⟩

end

theorem spells_keyOrAll : Spells readKeyOrAll fun w u => u = keyOrAllPayload w := by
  refine (spells_choose rfl (fun _ _ => rfl) (spells_key.map KeyOrAll.key) (spells_got KeyOrAll.all)).mono ?_
  rintro _ _ (⟨_, rfl, k, rfl, rfl⟩ | ⟨_, rfl, rfl, rfl⟩)
  · rfl
  · rfl

theorem spells_takeSelector : Spells readTakeSelector fun w u => u = selectorPayload w := by
  refine (spells_choose rfl (fun _ _ => rfl) (spells_half.map TakeSelector.number)
    (spells_got TakeSelector.oldestUncollected)).mono ?_
  rintro _ _ (⟨_, rfl, n, rfl, rfl⟩ | ⟨_, rfl, rfl, rfl⟩)
  · rfl
  · rfl

/-! ### The payloads of requests (11 R194) -/

theorem spells_mask : Spells readMask fun m u => u = maskPayload m := by
  intro l x hx
  match l, hx with
  | a :: b :: c :: d :: e :: f :: g :: h :: i :: j :: rest, hx =>
    cases Readings.mem_got.mp hx
    exact ⟨[a, b, c, d, e, f, g, h, i, j], _, rfl, rfl, rfl, fun _ => rfl, fun more => List.mem_singleton_self _⟩

theorem spells_tracking : Spells readTracking fun x u => u = trackingPayload x := by
  refine Spells.mono ((spells_opt spells_byte).next fun a => (spells_opt spells_byte).next fun b =>
    (spells_opt spells_byte).next fun c => (spells_opt spells_half).next fun d =>
    (spells_opt spells_half).next fun e => (spells_opt spells_byte).next fun f =>
    spells_got (TrackingItems.mk a b c d e f)) ?_
  rintro _ _ ⟨a, _, rfl, b, _, rfl, c, _, rfl, d, _, rfl, e, _, rfl, f, _, rfl, rfl, rfl⟩
  simp [trackingPayload]

theorem spells_channelItems : Spells readChannelItems fun x u => u = channelPayload x := by
  refine Spells.mono ((spells_opt spells_byte).next fun a => (spells_opt spells_half).next fun b =>
    (spells_opt spells_half).next fun c => (spells_opt spells_byte).next fun d =>
    (spells_opt spells_byte).next fun e => (spells_opt spells_byte).next fun f =>
    (spells_opt spells_byte).next fun g => (spells_opt spells_half).next fun h =>
    (spells_opt spells_byte).next fun i => (spells_opt spells_half).next fun j =>
    spells_got (ChannelItems.mk a b c d e f g h i j)) ?_
  rintro _ _ ⟨a, _, rfl, b, _, rfl, c, _, rfl, d, _, rfl, e, _, rfl, f, _, rfl, g, _, rfl, h, _, rfl, i, _, rfl,
    j, _, rfl, rfl, rfl⟩
  simp [channelPayload]

theorem spells_takeTiming : Spells readTakeTiming fun x u => u = takeTimingPayload x := by
  refine Spells.mono ((spells_opt spells_byte).next fun a => (spells_opt spells_byte).next fun b =>
    (spells_opt spells_half).next fun c => spells_got (TakeTimingItems.mk a b c)) ?_
  rintro _ _ ⟨a, _, rfl, b, _, rfl, c, _, rfl, rfl, rfl⟩
  simp [takeTimingPayload]

theorem spells_passTiming : Spells readPassTiming fun x u => u = passTimingPayload x := by
  refine Spells.mono ((spells_opt spells_half).next fun a => (spells_opt spells_half).next fun b =>
    (spells_opt spells_byte).next fun c => spells_got (PassTimingItems.mk a b c)) ?_
  rintro _ _ ⟨a, _, rfl, b, _, rfl, c, _, rfl, rfl, rfl⟩
  simp [passTimingPayload]

theorem spells_guard : Spells readGuard fun x u => u = guardPayload x := by
  refine Spells.mono ((spells_opt spells_byte).next fun a => (spells_opt spells_half).next fun b =>
    (spells_opt spells_pos).next fun c => (spells_opt spells_pos).next fun d => spells_got (GuardItems.mk a b c d)) ?_
  rintro _ _ ⟨a, _, rfl, b, _, rfl, c, _, rfl, d, _, rfl, rfl, rfl⟩
  simp [guardPayload]

theorem spells_cue : Spells readCue fun x u => u = cuePayload x := by
  refine Spells.mono (spells_half.next fun a => spells_pos.next fun b => spells_pos.next fun c =>
    spells_byte.next fun d => spells_byte.next fun e => spells_byte.next fun f => spells_byte.next fun g =>
    spells_half.next fun h => (spells_opt spells_text).next fun i => spells_got (CueItems.mk a b c d e f g h i)) ?_
  rintro _ _ ⟨a, _, rfl, b, _, rfl, c, _, rfl, d, _, rfl, e, _, rfl, f, _, rfl, g, _, rfl, h, _, rfl, i, _, rfl, rfl, rfl⟩
  simp [cuePayload, one]

theorem spells_pass : Spells readPass fun x u => u = passPayload x := by
  refine Spells.mono (spells_byte.next fun a => (spells_opt spells_key).next fun b =>
    (spells_opt spells_key).next fun c => (spells_opt spells_pos).next fun d => spells_byte.next fun e =>
    spells_byte.next fun f => spells_byte.next fun g => spells_got (PassItems.mk a b c d e f g)) ?_
  rintro _ _ ⟨a, _, rfl, b, _, rfl, c, _, rfl, d, _, rfl, e, _, rfl, f, _, rfl, g, _, rfl, rfl, rfl⟩
  simp [passPayload, one]

/-! ### UPDATE_CUE (03 R56) -/

theorem ofBool_getLsbD {w : Nat} (x : BitVec w) (k : Nat) : BitVec.ofBool (x.getLsbD k) = x.extractLsb' k 1 := by
  ext i hi
  obtain rfl : i = 0 := by omega
  simp

/-- The bits of a set from the k-th on are those from the next on, and the k-th. -/
theorem extractLsb'_append_ofBool {w : Nat} (x : BitVec w) (k n : Nat) :
    x.extractLsb' (k + 1) n ++ BitVec.ofBool (x.getLsbD k) = x.extractLsb' k (n + 1) := by
  rw [ofBool_getLsbD]
  exact BitVec.extractLsb'_append_extractLsb'_eq_extractLsb' rfl

/-- An edit whose fields are selected as a set says is sent with that very set. -/
theorem editSelectSet_of_isSome {s : Half} {e : CueEdit} (extra : e.extraFlags = s.extractLsb' 9 7)
    (tag : e.tag.isSome = s.getLsbD 0) (inPt : e.inPt.isSome = s.getLsbD 1) (outPt : e.outPt.isSome = s.getLsbD 2)
    (streamer : e.streamer.isSome = s.getLsbD 3) (beeps : e.beeps.isSome = s.getLsbD 4)
    (interval : e.interval.isSome = s.getLsbD 5) (punch : e.punch.isSome = s.getLsbD 6)
    (tracks : e.tracks.isSome = s.getLsbD 7) (text : e.text.isSome = s.getLsbD 8) : editSelectSet e = s := by
  simp only [editSelectSet, extra, tag, inPt, outPt, streamer, beeps, interval, punch, tracks, text]
  simp only [extractLsb'_append_ofBool]
  exact BitVec.extractLsb'_eq_self

theorem spells_edit : Spells readEdit fun e u => u = editPayload e := by
  refine Spells.mono (spells_half.andThen fun s => (spells_selected _ spells_half).andThen fun a =>
    (spells_selected _ spells_pos).andThen fun b => (spells_selected _ spells_pos).andThen fun c =>
    (spells_selected _ spells_byte).andThen fun d => (spells_selected _ spells_byte).andThen fun e =>
    (spells_selected _ spells_byte).andThen fun f => (spells_selected _ spells_byte).andThen fun g =>
    (spells_selected _ spells_half).andThen fun h => (spells_selected _ (spells_opt spells_text)).andThen fun i =>
    spells_got (CueEdit.mk (s.extractLsb' 9 7) a b c d e f g h i)) ?_
  rintro _ _ ⟨s, _, _, rfl, rfl, a, _, _, rfl, ⟨ha, rfl⟩, b, _, _, rfl, ⟨hb, rfl⟩, c, _, _, rfl, ⟨hc, rfl⟩, d, _, _, rfl,
    ⟨hd, rfl⟩, e, _, _, rfl, ⟨he, rfl⟩, f, _, _, rfl, ⟨hf, rfl⟩, g, _, _, rfl, ⟨hg, rfl⟩, h, _, _, rfl, ⟨hh, rfl⟩, i, _, _,
    rfl, ⟨hi, rfl⟩, rfl, rfl⟩
  rw [editPayload, editSelectSet_of_isSome rfl ha hb hc hd he hf hg hh hi]
  simp

end Sys2Proof.Machine
end

section
/-! Frames and the commands they spell (11 R188, R189, R194): a payload as it is sent reads back, and with a presence or selector
byte above 1 it is read in unsound ways alone (log 16). -/

namespace Sys2Proof.Machine

/-! ### Payloads as they are sent, and with one of their presence or selector bytes spoilt -/

/-- Readings that are all unsound, one of them a value with the bytes left behind it. -/
structure Spoils {α : Type} (p : Readings α) (a : α) (l : List Byte) : Prop where
  mem : ⟨a, false, l⟩ ∈ p
  unsound : ∀ x ∈ p, x.sound = false

/-- The bytes of `head`, `marked` and `tail` read as `v`; with the first byte of one of `marked`, a presence or selector byte,
above 1 they read as `v` too, but every reading is unsound. -/
structure Marked {α : Type} (read : List Byte → Readings α) (head : List Byte) (marked : List (List Byte))
    (tail : List Byte) (v : α) : Prop where
  sound : ∀ l, read (head ++ marked.flatten ++ tail ++ l) = .got v l
  spoilt : ∀ (n : Nat) (mark b : Byte) (item l : List Byte), marked[n]? = some (mark :: item) → 1 < b.toNat →
    Spoils (read (head ++ (marked.set n (b :: item)).flatten ++ tail ++ l)) v l

section
variable {α β : Type}

theorem Spoils.andThen {p : Readings α} {a : α} {l : List Byte} {f : α → List Byte → Readings β} {v : β} {l' : List Byte}
    (h : Spoils p a l) (next : f a l = .got v l') : Spoils (p.andThen f) v l' where
  mem := Readings.mem_andThen.mpr ⟨_, h.mem, ⟨v, true, l'⟩, by rw [next]; exact List.mem_singleton_self _, rfl⟩
  unsound x hx := by
    obtain ⟨y, hy, z, -, rfl⟩ := Readings.mem_andThen.mp hx
    rw [h.unsound y hy]
    rfl

theorem spoils_choose {b : Byte} (above : 1 < b.toNat) {zero one : Readings α} {a : α} {l : List Byte}
    (h : ⟨a, true, l⟩ ∈ zero ++ one) : Spoils (.choose b zero one) a l := by
  rw [Readings.choose_above above]
  exact ⟨List.mem_map.mpr ⟨_, h, rfl⟩, fun x hx => by obtain ⟨y, -, rfl⟩ := List.mem_map.mp hx; rfl⟩

variable {read : List Byte → Readings α} {head tail : List Byte} {marked : List (List Byte)} {a v : α}

theorem marked_got (h : ∀ l, read (tail ++ l) = .got v l) : Marked read [] [] tail v where
  sound := h
  spoilt n mark b item l hm := by simp at hm

/-- An item of no presence byte stands ahead. -/
theorem Marked.lead {f : α → List Byte → Readings β} {bytes : List Byte} {v : β}
    (h : ∀ l, read (bytes ++ l) = .got a l) (k : Marked (f a) head marked tail v) :
    Marked (fun l => (read l).andThen f) (bytes ++ head) marked tail v where
  sound l := by
    rw [List.append_assoc, List.append_assoc, List.append_assoc, h, Readings.got_andThen, ← k.sound l]
    simp only [List.append_assoc]
  spoilt n mark b item l hm above := by
    have := k.spoilt n mark b item l hm above
    simp only [List.append_assoc] at this ⊢
    rwa [h, Readings.got_andThen]

/-- An item with a presence byte stands ahead. -/
theorem Marked.field {f : α → List Byte → Readings β} {m : List Byte} {v : β} (h : Marked read [] [m] [] a)
    (k : Marked (f a) [] marked tail v) : Marked (fun l => (read l).andThen f) [] (m :: marked) tail v where
  sound l := by
    have first := h.sound (marked.flatten ++ tail ++ l)
    simp only [List.nil_append, List.append_nil, List.flatten_cons, List.flatten_nil, List.append_assoc] at first ⊢
    rw [first, Readings.got_andThen, ← k.sound l]
    simp
  spoilt n mark b item l hm above := by
    cases n with
    | zero =>
      have first := h.spoilt 0 mark b item (marked.flatten ++ tail ++ l) hm above
      have rest := k.sound l
      simp only [List.set_cons_zero, List.nil_append, List.append_nil, List.flatten_cons, List.flatten_nil,
        List.append_assoc] at first rest ⊢
      exact first.andThen rest
    | succ n =>
      have first := h.sound ((marked.set n (b :: item)).flatten ++ tail ++ l)
      have rest := k.spoilt n mark b item l hm above
      simp only [List.set_cons_succ, List.nil_append, List.append_nil, List.flatten_cons, List.flatten_nil,
        List.append_assoc] at first rest ⊢
      rwa [first, Readings.got_andThen]

/-- What is read on behind the last item leaves no bytes. -/
theorem Marked.andThen {f : α → List Byte → Readings β} {v : β} (h : Marked read head marked tail a)
    (next : ∀ l, f a l = .got v l) : Marked (fun l => (read l).andThen f) head marked tail v where
  sound l := by rw [h.sound, Readings.got_andThen, next]
  spoilt n mark b item l hm above := (h.spoilt n mark b item l hm above).andThen (next l)

/-- An item that begins with its presence or selector byte. -/
theorem marked_item {mark : Byte} {item : List Byte} (reads : ∀ l, read (mark :: (item ++ l)) = .got v l)
    (spoils : ∀ b l, 1 < b.toNat → Spoils (read (b :: (item ++ l))) v l) : Marked read [] [mark :: item] [] v where
  sound l := by simpa using reads l
  spoilt n mark' b item' l hm above := by
    obtain ⟨rfl, rfl, rfl⟩ : n = 0 ∧ mark = mark' ∧ item = item' := by
      cases n <;> simp_all
    simpa using spoils b l above

/-- A presence or selector byte of 0, with what follows it. -/
theorem marked_zero {zero one : List Byte → Readings α} {item : List Byte}
    (cons : ∀ b l, read (b :: l) = .choose b (zero l) (one l)) (h : ∀ l, zero (item ++ l) = .got v l) :
    Marked read [] [0 :: item] [] v := by
  refine marked_item (fun l => (cons 0 _).trans (h l)) fun b l above => ?_
  rw [cons, h]
  exact spoils_choose above (List.mem_append_left _ (List.mem_singleton_self _))

/-- A presence or selector byte of 1, with what follows it. -/
theorem marked_one {zero one : List Byte → Readings α} {item : List Byte}
    (cons : ∀ b l, read (b :: l) = .choose b (zero l) (one l)) (h : ∀ l, one (item ++ l) = .got v l) :
    Marked read [] [1 :: item] [] v := by
  refine marked_item (fun l => (cons 1 _).trans (h l)) fun b l above => ?_
  rw [cons, h]
  exact spoils_choose above (List.mem_append_right _ (List.mem_singleton_self _))

theorem marked_opt {item : α → List Byte} (v : Option α) (h : ∀ a, v = some a → ∀ l, read (item a ++ l) = .got a l) :
    Marked (readOpt read) [] [opt item v] [] v := by
  cases v with
  | none => exact marked_zero (fun _ _ => rfl) fun l => rfl
  | some a => exact marked_one (fun _ _ => rfl) fun l => by rw [h a rfl, Readings.got_andThen]

end

theorem marked_byte (v : Option Byte) : Marked (readOpt readByte) [] [opt one v] [] v :=
  marked_opt v fun a _ => readByte_one a

theorem marked_half (v : Option Half) : Marked (readOpt readHalf) [] [opt half v] [] v :=
  marked_opt v fun a _ => readHalf_half a

theorem marked_key (v : Option WireKey) : Marked (readOpt readKey) [] [opt wireKeyItem v] [] v :=
  marked_opt v fun a _ => readKey_item a

theorem marked_pos (v : Option WirePos) : Marked (readOpt readPos) [] [opt wirePosItem v] [] v :=
  marked_opt v fun a _ => readPos_item a

theorem marked_text {v : Option (List Byte)} (fits : textFits v = true) :
    Marked (readOpt readText) [] [opt textItem v] [] v :=
  marked_opt v fun a h l => readText_item a l (by simpa [textFits, h] using fits)

theorem marked_keyOrAll (w : KeyOrAll) : Marked readKeyOrAll [] [keyOrAllPayload w] [] w := by
  cases w with
  | key k => exact marked_zero (fun _ _ => rfl) fun l => by rw [readKey_item, Readings.got_andThen]
  | all => exact marked_one (fun _ _ => rfl) fun l => rfl

theorem marked_takeSelector (w : TakeSelector) : Marked readTakeSelector [] [selectorPayload w] [] w := by
  cases w with
  | number n => exact marked_zero (fun _ _ => rfl) fun l => by rw [readHalf_half, Readings.got_andThen]
  | oldestUncollected => exact marked_one (fun _ _ => rfl) fun l => rfl

/-! ### The payloads of requests (11 R194) -/

theorem marked_tracking (x : TrackingItems) :
    Marked readTracking []
      [opt one x.offset, opt one x.lockCount, opt one x.freewheelLimit, opt half x.bandLow, opt half x.bandHigh,
        opt one x.settleSpan] [] x :=
  (marked_byte _).field <| (marked_byte _).field <| (marked_byte _).field <| (marked_half _).field <|
    (marked_half _).field <| (marked_byte _).field <| marked_got fun _ => rfl

theorem marked_channelItems (x : ChannelItems) :
    Marked readChannelItems []
      [opt one x.enabled, opt half x.filterTag, opt half x.filterMask, opt one x.textLead, opt one x.lane,
        opt one x.colour, opt one x.toneMode, opt half x.pitch, opt one x.level, opt half x.beepLength] [] x :=
  (marked_byte _).field <| (marked_half _).field <| (marked_half _).field <| (marked_byte _).field <|
    (marked_byte _).field <| (marked_byte _).field <| (marked_byte _).field <| (marked_half _).field <|
    (marked_byte _).field <| (marked_half _).field <| marked_got fun _ => rfl

theorem marked_takeTiming (x : TakeTimingItems) :
    Marked readTakeTiming [] [opt one x.punchLead, opt one x.punchTail, opt half x.armWindow] [] x :=
  (marked_byte _).field <| (marked_byte _).field <| (marked_half _).field <| marked_got fun _ => rfl

theorem marked_passTiming (x : PassTimingItems) :
    Marked readPassTiming [] [opt half x.preroll, opt half x.postroll, opt one x.locateTimeout] [] x :=
  (marked_half _).field <| (marked_half _).field <| (marked_byte _).field <| marked_got fun _ => rfl

theorem marked_guard (x : GuardItems) :
    Marked readGuard []
      [opt one x.enabled, opt half x.tracks, opt wirePosItem x.base, opt wirePosItem x.limit] [] x :=
  (marked_byte _).field <| (marked_half _).field <| (marked_pos _).field <| (marked_pos _).field <|
    marked_got fun _ => rfl

theorem marked_pass (x : PassItems) :
    Marked readPass [x.mode] [opt wireKeyItem x.first, opt wireKeyItem x.last, opt wirePosItem x.target]
      [x.cycles, x.record, x.queue] x :=
  Marked.lead (bytes := one x.mode) (readByte_one x.mode) <| (marked_key _).field <| (marked_key _).field <|
    (marked_pos _).field <| marked_got fun _ => rfl

theorem marked_cue (x : CueItems) (fits : textFits x.text = true) :
    Marked readCue
      (half x.tag ++ (wirePosItem x.inPt ++ (wirePosItem x.outPt ++ (one x.streamer ++ (one x.beeps
        ++ (one x.interval ++ (one x.punch ++ (half x.tracks ++ []))))))))
      [opt textItem x.text] [] x :=
  .lead (readHalf_half _) <| .lead (readPos_item _) <| .lead (readPos_item _) <| .lead (readByte_one _) <|
    .lead (readByte_one _) <| .lead (readByte_one _) <| .lead (readByte_one _) <| .lead (readHalf_half _) <|
    (marked_text fits).field <| marked_got fun _ => rfl

theorem readTracking_payload (x : TrackingItems) (l : List Byte) :
    readTracking (trackingPayload x ++ l) = .got x l := by
  simpa [trackingPayload] using (marked_tracking x).sound l

theorem readChannelItems_payload (x : ChannelItems) (l : List Byte) :
    readChannelItems (channelPayload x ++ l) = .got x l := by
  simpa [channelPayload] using (marked_channelItems x).sound l

theorem readTakeTiming_payload (x : TakeTimingItems) (l : List Byte) :
    readTakeTiming (takeTimingPayload x ++ l) = .got x l := by
  simpa [takeTimingPayload] using (marked_takeTiming x).sound l

theorem readPassTiming_payload (x : PassTimingItems) (l : List Byte) :
    readPassTiming (passTimingPayload x ++ l) = .got x l := by
  simpa [passTimingPayload] using (marked_passTiming x).sound l

theorem readGuard_payload (x : GuardItems) (l : List Byte) : readGuard (guardPayload x ++ l) = .got x l := by
  simpa [guardPayload] using (marked_guard x).sound l

theorem readPass_payload (x : PassItems) (l : List Byte) : readPass (passPayload x ++ l) = .got x l := by
  simpa [passPayload] using (marked_pass x).sound l

theorem readCue_payload (x : CueItems) (fits : textFits x.text = true) (l : List Byte) :
    readCue (cuePayload x ++ l) = .got x l := by
  simpa [cuePayload, one] using (marked_cue x fits).sound l

/-! ### UPDATE_CUE (03 R56) -/

theorem getLsbD_append_ofBool_zero {w : Nat} (x : BitVec w) (b : Bool) : (x ++ BitVec.ofBool b).getLsbD 0 = b := by
  rw [BitVec.getLsbD_append, if_pos Nat.one_pos]
  simp

theorem getLsbD_append_ofBool_succ {w : Nat} (x : BitVec w) (b : Bool) (k : Nat) :
    (x ++ BitVec.ofBool b).getLsbD (k + 1) = x.getLsbD k := by
  simp [BitVec.getLsbD_append]

theorem extractLsb'_append_ofBool_succ {w : Nat} (x : BitVec w) (b : Bool) (k n : Nat) :
    (x ++ BitVec.ofBool b).extractLsb' (k + 1) n = x.extractLsb' k n := by
  rw [BitVec.extractLsb'_append_eq_of_le (Nat.le_add_left _ _)]
  rfl

/-- The field-select set names each field that has a value, and keeps the further flags (11 R188, 03 R56). -/
theorem editSelectSet_bits (e : CueEdit) :
    (editSelectSet e).extractLsb' 9 7 = e.extraFlags ∧ (editSelectSet e).getLsbD 0 = e.tag.isSome
      ∧ (editSelectSet e).getLsbD 1 = e.inPt.isSome ∧ (editSelectSet e).getLsbD 2 = e.outPt.isSome
      ∧ (editSelectSet e).getLsbD 3 = e.streamer.isSome ∧ (editSelectSet e).getLsbD 4 = e.beeps.isSome
      ∧ (editSelectSet e).getLsbD 5 = e.interval.isSome ∧ (editSelectSet e).getLsbD 6 = e.punch.isSome
      ∧ (editSelectSet e).getLsbD 7 = e.tracks.isSome ∧ (editSelectSet e).getLsbD 8 = e.text.isSome := by
  unfold editSelectSet
  simp only [extractLsb'_append_ofBool_succ, getLsbD_append_ofBool_zero, getLsbD_append_ofBool_succ,
    BitVec.extractLsb'_eq_self, and_self]

/-- A selected value reads back when its item does (03 R56). -/
theorem readSelected_selected {α : Type} {read : List Byte → Readings α} {item : α → List Byte} (v : Option α) {sel : Bool}
    (named : sel = v.isSome) (h : ∀ a, v = some a → ∀ l, read (item a ++ l) = .got a l) (l : List Byte) :
    readSelected sel read (selected item v ++ l) = .got v l := by
  subst named
  cases v with
  | none => rfl
  | some a => simp [readSelected, selected, h a rfl]

/-- The bytes of an UPDATE_CUE between its key and its text. -/
def editHead (e : CueEdit) : List Byte :=
  half (editSelectSet e) ++ (selected half e.tag ++ (selected wirePosItem e.inPt ++ (selected wirePosItem e.outPt
    ++ (selected one e.streamer ++ (selected one e.beeps ++ (selected one e.interval ++ (selected one e.punch
    ++ (selected half e.tracks ++ []))))))))

theorem editPayload_eq (e : CueEdit) : editPayload e = editHead e ++ selected (opt textItem) e.text := by
  simp [editPayload, editHead]

/-- An edit reads back when its text does. -/
theorem marked_editHead {e : CueEdit} {marked : List (List Byte)}
    (text : Marked (readSelected e.text.isSome (readOpt readText)) [] marked [] e.text) :
    Marked readEdit (editHead e) marked [] e := by
  obtain ⟨extra, tag, inPt, outPt, streamer, beeps, interval, punch, tracks, named⟩ := editSelectSet_bits e
  refine .lead (readHalf_half _) <| .lead (readSelected_selected e.tag tag fun a _ => readHalf_half a) <|
    .lead (readSelected_selected e.inPt inPt fun a _ => readPos_item a) <|
    .lead (readSelected_selected e.outPt outPt fun a _ => readPos_item a) <|
    .lead (readSelected_selected e.streamer streamer fun a _ => readByte_one a) <|
    .lead (readSelected_selected e.beeps beeps fun a _ => readByte_one a) <|
    .lead (readSelected_selected e.interval interval fun a _ => readByte_one a) <|
    .lead (readSelected_selected e.punch punch fun a _ => readByte_one a) <|
    .lead (readSelected_selected e.tracks tracks fun a _ => readHalf_half a) ?_
  rw [named, extra]
  exact text.andThen fun _ => rfl

theorem marked_edit {e : CueEdit} {text : Option (List Byte)} (named : e.text = some text)
    (fits : textFits text = true) : Marked readEdit (editHead e) [opt textItem text] [] e := by
  refine marked_editHead ?_
  rw [named]
  exact (marked_text fits).andThen (f := fun t l => .got (some t) l) fun _ => rfl

theorem readEdit_payload (e : CueEdit) (fits : textFits (e.text.getD none) = true) (l : List Byte) :
    readEdit (editPayload e ++ l) = .got e l := by
  rw [editPayload_eq]
  cases named : e.text with
  | none =>
    have plain : Marked readEdit (editHead e) [] [] e := by
      refine marked_editHead ?_
      rw [named]
      exact marked_got fun _ => rfl
    simpa [selected] using plain.sound l
  | some text =>
    rw [named] at fits
    simpa [selected] using (marked_edit named fits).sound l

/-! ### Frames as they are sent (11 R194) -/

theorem readByte_cons (b : Byte) (l : List Byte) : readByte (b :: l) = .got b l := rfl

section
variable (t : Byte) (l : List Byte)

theorem readRequest_setTracking :
    readRequest 0x08 t l =
      (readTracking l).andThen fun x l => .got (.setTracking t x) l := rfl

theorem readRequest_setSchedule :
    readRequest 0x09 t l =
      (readOpt readHalf l).andThen fun x l => .got (.setSchedule t x) l := rfl

theorem readRequest_setChannel :
    readRequest 0x0A t l =
      (readByte l).andThen fun c l => (readChannelItems l).andThen fun x l => .got (.setChannel t c x) l := rfl

theorem readRequest_setTakeTiming :
    readRequest 0x0B t l =
      (readTakeTiming l).andThen fun x l => .got (.setTakeTiming t x) l := rfl

theorem readRequest_setPassTiming :
    readRequest 0x0C t l =
      (readPassTiming l).andThen fun x l => .got (.setPassTiming t x) l := rfl

theorem readRequest_setGuard :
    readRequest 0x0D t l =
      (readByte l).andThen fun n l => (readGuard l).andThen fun x l => .got (.setGuard t n x) l := rfl

theorem readRequest_loadCue :
    readRequest 0x11 t l =
      (readKey l).andThen fun k l => (readCue l).andThen fun x l => .got (.loadCue t k x) l := rfl

theorem readRequest_dropCue : readRequest 0x12 t l = (readKey l).andThen fun k l => .got (.dropCue t k) l := rfl

theorem readRequest_updateCue :
    readRequest 0x16 t l =
      (readKey l).andThen fun k l => (readEdit l).andThen fun x l => .got (.updateCue t k x) l := rfl

theorem readRequest_readCue :
    readRequest 0x17 t l =
      (readByte l).andThen fun b l => (readKey l).andThen fun k l => .got (.readCue t b k) l := rfl

theorem readRequest_listCues :
    readRequest 0x18 t l =
      (readByte l).andThen fun b l => (readHalf l).andThen fun n l => .got (.listCues t b n) l := rfl

theorem readRequest_cueState : readRequest 0x19 t l = (readKey l).andThen fun k l => .got (.cueState t k) l := rfl

theorem readRequest_armTake :
    readRequest 0x20 t l =
      (readKey l).andThen fun k l => (readOpt readHalf l).andThen fun x l => .got (.armTake t k x) l := rfl

theorem readRequest_disarm : readRequest 0x21 t l = (readKeyOrAll l).andThen fun w l => .got (.disarm t w) l := rfl

theorem readRequest_abortTake :
    readRequest 0x22 t l =
      (readKeyOrAll l).andThen fun w l => .got (.abortTake t w) l := rfl

theorem readRequest_readTake :
    readRequest 0x23 t l =
      (readTakeSelector l).andThen fun w l => .got (.readTake t w) l := rfl

theorem readRequest_collectTakes :
    readRequest 0x24 t l =
      (readHalf l).andThen fun n l => .got (.collectTakes t n) l := rfl

theorem readRequest_clearSlots :
    readRequest 0x25 t l =
      (readKeyOrAll l).andThen fun w l => .got (.clearSlots t w) l := rfl

theorem readRequest_readSlots : readRequest 0x26 t l = (readKey l).andThen fun k l => .got (.readSlots t k) l := rfl

theorem readRequest_startPass : readRequest 0x30 t l = (readPass l).andThen fun x l => .got (.startPass t x) l := rfl

end

/-- A request's frame reads as the request, with the bytes behind it left. -/
theorem readRequest_frame {i : Instr} {f : Frame} (fits : i.wellFormed = true) (h : requestFrame i = some f)
    (spells : ∀ k t p, i ≠ .malformedRequest k t p) (l : List Byte) :
    readRequest f.kind f.tag (f.payload ++ l) = .got i l := by
  cases i with
  | malformedRequest k t p => exact absurd rfl (spells k t p)
  | identify t => cases h; rfl
  | getStatus t => cases h; rfl
  | setNotices t m => cases h; rfl
  | restart t => cases h; rfl
  | setTracking t x => cases h; simp only [readRequest_setTracking, readTracking_payload, Readings.got_andThen]
  | setSchedule t w => cases h; simp only [readRequest_setSchedule, readOpt_half, Readings.got_andThen]
  | setChannel t c x =>
    cases h
    simp only [readRequest_setChannel, List.cons_append, readByte_cons, readChannelItems_payload, Readings.got_andThen]
  | setTakeTiming t x => cases h; simp only [readRequest_setTakeTiming, readTakeTiming_payload, Readings.got_andThen]
  | setPassTiming t x => cases h; simp only [readRequest_setPassTiming, readPassTiming_payload, Readings.got_andThen]
  | setGuard t n x =>
    cases h
    simp only [readRequest_setGuard, List.cons_append, readByte_cons, readGuard_payload, Readings.got_andThen]
  | bankSetup t r => cases h; rfl
  | loadCue t k x =>
    cases h
    obtain ⟨fits, -⟩ := Bool.and_eq_true_iff.mp fits
    simp only [readRequest_loadCue, List.append_assoc, readKey_item, readCue_payload x fits, Readings.got_andThen]
  | dropCue t k => cases h; simp only [readRequest_dropCue, readKey_item, Readings.got_andThen]
  | clearBank t => cases h; rfl
  | switchBank t => cases h; rfl
  | cancelSwitch t => cases h; rfl
  | updateCue t k e =>
    cases h
    obtain ⟨fits, -⟩ := Bool.and_eq_true_iff.mp fits
    simp only [readRequest_updateCue, List.append_assoc, readKey_item, readEdit_payload e fits, Readings.got_andThen]
  | readCue t b k =>
    cases h
    simp only [readRequest_readCue, List.cons_append, readByte_cons, readKey_item, Readings.got_andThen]
  | listCues t b n =>
    cases h
    simp only [readRequest_listCues, List.cons_append, readByte_cons, readHalf_half, Readings.got_andThen]
  | cueState t k => cases h; simp only [readRequest_cueState, readKey_item, Readings.got_andThen]
  | armTake t k x =>
    cases h
    simp only [readRequest_armTake, List.append_assoc, readKey_item, readOpt_half, Readings.got_andThen]
  | disarm t w => cases h; simp only [readRequest_disarm, readKeyOrAll_payload, Readings.got_andThen]
  | abortTake t w => cases h; simp only [readRequest_abortTake, readKeyOrAll_payload, Readings.got_andThen]
  | readTake t w => cases h; simp only [readRequest_readTake, readTakeSelector_payload, Readings.got_andThen]
  | collectTakes t n => cases h; simp only [readRequest_collectTakes, readHalf_half, Readings.got_andThen]
  | clearSlots t w => cases h; simp only [readRequest_clearSlots, readKeyOrAll_payload, Readings.got_andThen]
  | readSlots t k => cases h; simp only [readRequest_readSlots, readKey_item, Readings.got_andThen]
  | startPass t x => cases h; simp only [readRequest_startPass, readPass_payload, Readings.got_andThen]
  | stopCycle t => cases h; rfl
  | abandonPass t => cases h; rfl
  | readFaults t => cases h; rfl
  | clearFault t n => cases h; rfl
  | clearOverflow t => cases h; rfl
  | _ => cases h

end Sys2Proof.Machine
end

section
/-! Which frames spell a request (11 R189, R194), and the cause of each that spells none (log 16). -/

namespace Sys2Proof.Machine

/-! ### What a frame's payload spells -/

section
variable {α β : Type} {k tag : Byte}

theorem spells_request_none {i : Instr} (frame : requestFrame i = some ⟨k, tag, []⟩) :
    Spells (Readings.got i) fun i u => requestFrame i = some ⟨k, tag, u⟩ := by
  refine (spells_got i).mono ?_
  rintro _ _ ⟨rfl, rfl⟩
  exact frame

theorem spells_request_one {read : List Byte → Readings α} {item : α → List Byte} (h : Spells read fun v u => u = item v)
    {g : α → Instr} (frame : ∀ a, requestFrame (g a) = some ⟨k, tag, item a⟩) :
    Spells (fun l => (read l).andThen fun a l => .got (g a) l) fun i u => requestFrame i = some ⟨k, tag, u⟩ := by
  refine (h.map g).mono ?_
  rintro _ _ ⟨a, rfl, rfl⟩
  exact frame a

theorem spells_request_two {read : List Byte → Readings α} {read' : List Byte → Readings β} {item : α → List Byte}
    {item' : β → List Byte} (h : Spells read fun v u => u = item v) (h' : Spells read' fun v u => u = item' v)
    {g : α → β → Instr} (frame : ∀ a b, requestFrame (g a b) = some ⟨k, tag, item a ++ item' b⟩) :
    Spells (fun l => (read l).andThen fun a l => (read' l).andThen fun b l => .got (g a b) l)
      fun i u => requestFrame i = some ⟨k, tag, u⟩ := by
  refine (h.andThen fun a => h'.map (g a)).mono ?_
  rintro _ _ ⟨a, _, _, rfl, rfl, b, rfl, rfl⟩
  exact frame a b

end

theorem readRequest_unknown {k : Byte} (unknown : k.toNat ∉ requestCodes) (tag : Byte) (l : List Byte) :
    readRequest k tag l = [] := by
  unfold readRequest
  split <;> simp_all [requestCodes]

/-- The readings of a frame of each request code spell requests that are sent in that frame (11 R194). -/
theorem spells_requestCodes (tag : Byte) : ∀ n ∈ requestCodes,
    Spells (readRequest (BitVec.ofNat 8 n) tag) fun i u => requestFrame i = some ⟨BitVec.ofNat 8 n, tag, u⟩ := by
  simp only [requestCodes, List.forall_mem_cons]
  exact ⟨
    spells_request_none (i := .identify tag) rfl,
    spells_request_none (i := .getStatus tag) rfl,
    spells_request_one spells_mask (g := .setNotices tag) fun _ => rfl,
    spells_request_none (i := .restart tag) rfl,
    spells_request_one spells_tracking (g := .setTracking tag) fun _ => rfl,
    spells_request_one (spells_opt spells_half) (g := .setSchedule tag) fun _ => rfl,
    spells_request_two spells_byte spells_channelItems (g := .setChannel tag) fun _ _ => rfl,
    spells_request_one spells_takeTiming (g := .setTakeTiming tag) fun _ => rfl,
    spells_request_one spells_passTiming (g := .setPassTiming tag) fun _ => rfl,
    spells_request_two spells_byte spells_guard (g := .setGuard tag) fun _ _ => rfl,
    spells_request_one spells_byte (g := .bankSetup tag) fun _ => rfl,
    spells_request_two spells_key spells_cue (g := .loadCue tag) fun _ _ => rfl,
    spells_request_one spells_key (g := .dropCue tag) fun _ => rfl,
    spells_request_none (i := .clearBank tag) rfl,
    spells_request_none (i := .switchBank tag) rfl,
    spells_request_none (i := .cancelSwitch tag) rfl,
    spells_request_two spells_key spells_edit (g := .updateCue tag) fun _ _ => rfl,
    spells_request_two spells_byte spells_key (g := .readCue tag) fun _ _ => rfl,
    spells_request_two spells_byte spells_half (g := .listCues tag) fun _ _ => rfl,
    spells_request_one spells_key (g := .cueState tag) fun _ => rfl,
    spells_request_two spells_key (spells_opt spells_half) (g := .armTake tag) fun _ _ => rfl,
    spells_request_one spells_keyOrAll (g := .disarm tag) fun _ => rfl,
    spells_request_one spells_keyOrAll (g := .abortTake tag) fun _ => rfl,
    spells_request_one spells_takeSelector (g := .readTake tag) fun _ => rfl,
    spells_request_one spells_half (g := .collectTakes tag) fun _ => rfl,
    spells_request_one spells_keyOrAll (g := .clearSlots tag) fun _ => rfl,
    spells_request_one spells_key (g := .readSlots tag) fun _ => rfl,
    spells_request_one spells_pass (g := .startPass tag) fun _ => rfl,
    spells_request_none (i := .stopCycle tag) rfl,
    spells_request_none (i := .abandonPass tag) rfl,
    spells_request_none (i := .readFaults tag) rfl,
    spells_request_one spells_byte (g := .clearFault tag) fun _ => rfl,
    spells_request_none (i := .clearOverflow tag) rfl,
    List.forall_mem_nil _⟩

theorem spells_request (k tag : Byte) :
    Spells (readRequest k tag) fun i u => requestFrame i = some ⟨k, tag, u⟩ := by
  by_cases known : k.toNat ∈ requestCodes
  · simpa using spells_requestCodes tag k.toNat known
  · intro l x hx
    rw [readRequest_unknown known] at hx
    cases hx

theorem mem_fullReadings {k tag : Byte} {p : List Byte} {x : Reading Instr} :
    x ∈ fullReadings k tag p ↔ x ∈ readRequest k tag p ∧ x.rest = [] := by
  simp [fullReadings]

/-- A sound reading of a whole payload is the request of the very frame. -/
theorem requestFrame_of_sound {k tag : Byte} {p : List Byte} {x : Reading Instr} (h : x ∈ fullReadings k tag p)
    (sound : x.sound = true) : requestFrame x.value = some ⟨k, tag, p⟩ := by
  obtain ⟨hx, whole⟩ := mem_fullReadings.mp h
  obtain ⟨head, u, split, frame, -, same, -⟩ := spells_request k tag p x hx
  rw [frame, split, whole, List.append_nil, same sound]

section
variable {i : Instr} {f : Frame} (fits : i.wellFormed = true) (h : requestFrame i = some f)
  (spells : ∀ k t p, i ≠ .malformedRequest k t p)
include fits h spells

theorem fullReadings_frame : fullReadings f.kind f.tag f.payload = .got i [] := by
  have := readRequest_frame fits h spells []
  rw [List.append_nil] at this
  rw [fullReadings, this]
  rfl

/-- A payload with further bytes is read by none of its ways (11 R189 step 2). -/
theorem fullReadings_longer (c : Byte) (more : List Byte) : fullReadings f.kind f.tag (f.payload ++ c :: more) = [] := by
  rw [fullReadings, readRequest_frame fits h spells]
  rfl

/-- A payload cut short is read by none of its ways: what reads it whole would leave bytes of the payload behind. -/
theorem fullReadings_shorter {p more : List Byte} {c : Byte} (cut : f.payload = p ++ c :: more) :
    fullReadings f.kind f.tag p = [] := by
  refine List.eq_nil_iff_forall_not_mem.mpr fun x hx => ?_
  obtain ⟨hx, whole⟩ := mem_fullReadings.mp hx
  obtain ⟨head, -, split, -, -, -, again⟩ := spells_request f.kind f.tag p x hx
  rw [whole, List.append_nil] at split
  subst split
  have left := again (c :: more)
  have reads := readRequest_frame fits h spells []
  rw [List.append_nil, cut] at reads
  rw [reads, Readings.mem_got] at left
  exact List.cons_ne_nil c more (congrArg Reading.rest left)

end

/-! ### The cause of a frame that spells no request (11 R189; log 16) -/

section
variable {k : Byte} {p : List Byte}

theorem malformedCause_unknown (unknown : k.toNat ∉ requestCodes) : malformedCause k p = some 4 := if_neg unknown

theorem malformedCause_length (known : k.toNat ∈ requestCodes) (h : fullReadings k 0 p = []) :
    malformedCause k p = some 5 := by
  rw [malformedCause, if_pos known, h]

theorem malformedCause_mark (known : k.toNat ∈ requestCodes) {x : Reading Instr} (h : x ∈ fullReadings k 0 p)
    (unsound : ∀ x ∈ fullReadings k 0 p, x.sound = false) : malformedCause k p = some 6 := by
  rw [malformedCause, if_pos known]
  split
  · rename_i empty
    rw [empty] at h
    cases h
  · exact if_neg (by simpa using unsound)

theorem malformedCause_sound (known : k.toNat ∈ requestCodes) {x : Reading Instr} (h : x ∈ fullReadings k 0 p)
    (sound : x.sound = true) : malformedCause k p = none := by
  rw [malformedCause, if_pos known]
  split
  · rename_i empty
    rw [empty] at h
    cases h
  · exact if_pos (List.any_eq_true.mpr ⟨x, h, sound⟩)

theorem requestCodes_of_mem {tag : Byte} {x : Reading Instr} (h : x ∈ readRequest k tag p) : k.toNat ∈ requestCodes := by
  by_contra unknown
  rw [readRequest_unknown unknown] at h
  cases h

/-- Whether a payload has a reading does not hang on the frame's tag. -/
theorem fullReadings_eq_nil_tag {tag : Byte} (h : fullReadings k tag p = []) : fullReadings k 0 p = [] := by
  have same := fullReadings_sound_tag k 0 tag p
  rwa [h, List.map_nil, List.map_eq_nil_iff] at same

/-- Whether a payload has a sound reading does not hang on the frame's tag. -/
theorem exists_sound_tag {tag : Byte} {x : Reading Instr} (h : x ∈ fullReadings k tag p) (sound : x.sound = true) :
    ∃ y ∈ fullReadings k 0 p, y.sound = true := by
  have mem : (x.sound, x.rest) ∈ (fullReadings k 0 p).map fun y => (y.sound, y.rest) := by
    rw [fullReadings_sound_tag k 0 tag p]
    exact List.mem_map_of_mem h
  obtain ⟨y, hy, same⟩ := List.mem_map.mp mem
  exact ⟨y, hy, by rw [(Prod.mk.inj same).1, sound]⟩

/-- A frame that has a sound reading is no malformed one, whatever its tag. -/
theorem malformedCause_eq_none {tag : Byte} {x : Reading Instr} (h : x ∈ fullReadings k tag p) (sound : x.sound = true) :
    malformedCause k p = none := by
  obtain ⟨y, hy, sound'⟩ := exists_sound_tag h sound
  exact malformedCause_sound (requestCodes_of_mem (mem_fullReadings.mp h).1) hy sound'

end

/-! ### Frames and commands (11 R189) -/

theorem frameCommand_cases (f : Frame) :
    (∃ x ∈ fullReadings f.kind f.tag f.payload, x.sound = true ∧ frameCommand f = x.value)
      ∨ ((∀ x ∈ fullReadings f.kind f.tag f.payload, x.sound ≠ true)
        ∧ frameCommand f = .malformedRequest f.kind f.tag f.payload) := by
  unfold frameCommand
  split
  · rename_i x found
    exact .inl ⟨x, List.mem_of_find?_eq_some found, List.find?_some found, rfl⟩
  · rename_i not_found
    exact .inr ⟨List.find?_eq_none.mp not_found, rfl⟩

/-- Settles O7: a request's frame has the one sound reading of the request, and a malformed frame none; and the command of a
frame is a sound reading, which is sent in that frame, or the frame itself. -/
theorem framesSpellTheirCommands : Obligations.FramesSpellTheirCommands := by
  refine ⟨fun i f fits h spoilt => ?_, fun f => ?_⟩
  · by_cases spells : ∀ k t p, i ≠ .malformedRequest k t p
    · have full := fullReadings_frame fits h spells
      obtain ⟨x, hx, -, command⟩ | ⟨unsound, -⟩ := frameCommand_cases f
      · rw [full, Readings.mem_got] at hx
        rw [command, hx]
      · exact absurd rfl (unsound ⟨i, true, []⟩ (by rw [full]; exact List.mem_singleton_self _))
    · push Not at spells
      obtain ⟨k, t, p, rfl⟩ := spells
      cases h
      obtain ⟨x, hx, sound, -⟩ | ⟨-, command⟩ := frameCommand_cases ⟨k, t, p⟩
      · have := spoilt k t p rfl
        rw [malformedCause_eq_none hx sound] at this
        cases this
      · exact command
  · obtain ⟨x, hx, sound, command⟩ | ⟨-, command⟩ := frameCommand_cases f
    · rw [command]
      exact requestFrame_of_sound hx sound
    · rw [command]
      rfl

end Sys2Proof.Machine
end

section
/-! MALFORMED_REQUEST (11 R189): the sizes that a payload can have, the payloads with a byte above 1 where a presence or selector
byte stands, and the reply with its cause (log 16). -/

namespace Sys2Proof.Machine

/-! ### The sizes of payloads (11 R188, R194) -/

/-- Whatever its presence and selector bytes, a payload of a kind that is read whole has one of certain sizes. -/
def TakesOnly (k : Byte) (sizes : Nat → Prop) : Prop :=
  k.toNat ∈ requestCodes ∧ ∀ p, ∀ x ∈ fullReadings k 0 p, sizes p.length

theorem TakesOnly.cause {k : Byte} {sizes : Nat → Prop} (h : TakesOnly k sizes) {p : List Byte} (no : ¬ sizes p.length) :
    malformedCause k p = some 5 := by
  obtain ⟨known, fit⟩ := h
  exact malformedCause_length known (List.eq_nil_iff_forall_not_mem.mpr fun x hx => no (fit p x hx))

theorem takesOnly_of_spells {k : Byte} {sizes : Nat → Prop} {W : Instr → List Byte → Prop} (known : k.toNat ∈ requestCodes)
    (h : Spells (readRequest k 0) W) (fit : ∀ i u, W i u → sizes u.length) : TakesOnly k sizes := by
  refine ⟨known, fun p x hx => ?_⟩
  obtain ⟨hx, whole⟩ := mem_fullReadings.mp hx
  obtain ⟨head, u, split, writes, length, -, -⟩ := h p x hx
  rw [split, whole, List.append_nil, length]
  exact fit _ u writes

theorem takesOnly_one {α : Type} {k : Byte} {sizes : Nat → Prop} {read : List Byte → Readings α} {item : α → List Byte}
    {g : α → Instr} (known : k.toNat ∈ requestCodes) (h : Spells read fun v u => u = item v)
    (reads : ∀ l, readRequest k 0 l = (read l).andThen fun a l => .got (g a) l) (fit : ∀ a, sizes (item a).length) :
    TakesOnly k sizes := by
  refine takesOnly_of_spells known (funext reads ▸ h.map g) ?_
  rintro _ _ ⟨a, -, rfl⟩
  exact fit a

theorem takesOnly_two {α β : Type} {k : Byte} {sizes : Nat → Prop} {read : List Byte → Readings α}
    {read' : List Byte → Readings β} {item : α → List Byte} {item' : β → List Byte} {g : α → β → Instr}
    (known : k.toNat ∈ requestCodes) (h : Spells read fun v u => u = item v) (h' : Spells read' fun v u => u = item' v)
    (reads : ∀ l, readRequest k 0 l = (read l).andThen fun a l => (read' l).andThen fun b l => .got (g a b) l)
    (fit : ∀ a b, sizes ((item a).length + (item' b).length)) : TakesOnly k sizes := by
  refine takesOnly_of_spells known (funext reads ▸ h.andThen fun a => h'.map (g a)) ?_
  rintro _ _ ⟨a, _, _, rfl, rfl, b, -, rfl⟩
  rw [List.length_append]
  exact fit a b

theorem opt_length {α : Type} {item : α → List Byte} {n : Nat} (size : ∀ a, (item a).length = n) (v : Option α) :
    (opt item v).length = 1 ∨ (opt item v).length = n + 1 := by
  cases v with
  | none => exact .inl rfl
  | some a => exact .inr (congrArg (· + 1) (size a))

theorem opt_length_mem {α : Type} {item : α → List Byte} {n : Nat} (size : ∀ a, (item a).length = n) (v : Option α) :
    1 ≤ (opt item v).length ∧ (opt item v).length ≤ n + 1 := by
  have := opt_length size v
  omega

theorem keyOrAllPayload_length (w : KeyOrAll) : (keyOrAllPayload w).length = 1 ∨ (keyOrAllPayload w).length = 4 := by
  cases w with
  | key k => exact .inr rfl
  | all => exact .inl rfl

theorem selectorPayload_length (w : TakeSelector) : (selectorPayload w).length = 1 ∨ (selectorPayload w).length = 3 := by
  cases w with
  | number n => exact .inr rfl
  | oldestUncollected => exact .inl rfl

theorem optByte_length (v : Option Byte) : 1 ≤ (opt one v).length ∧ (opt one v).length ≤ 2 :=
  opt_length_mem (n := 1) (fun _ => rfl) v

theorem optHalf_length (v : Option Half) : 1 ≤ (opt half v).length ∧ (opt half v).length ≤ 3 :=
  opt_length_mem (n := 2) (fun _ => rfl) v

theorem optKey_length (v : Option WireKey) : 1 ≤ (opt wireKeyItem v).length ∧ (opt wireKeyItem v).length ≤ 4 :=
  opt_length_mem (n := 3) (fun _ => rfl) v

theorem optPos_length (v : Option WirePos) : 1 ≤ (opt wirePosItem v).length ∧ (opt wirePosItem v).length ≤ 6 :=
  opt_length_mem (n := 5) (fun _ => rfl) v

theorem takesOnly_setTracking : TakesOnly 0x08 fun n => 6 ≤ n ∧ n ≤ 14 := by
  refine takesOnly_one (by decide) spells_tracking (readRequest_setTracking 0) fun x => ?_
  have := optByte_length x.offset
  have := optByte_length x.lockCount
  have := optByte_length x.freewheelLimit
  have := optHalf_length x.bandLow
  have := optHalf_length x.bandHigh
  have := optByte_length x.settleSpan
  simp only [trackingPayload, List.length_append]
  omega

theorem takesOnly_setSchedule : TakesOnly 0x09 fun n => n = 1 ∨ n = 3 :=
  takesOnly_one (by decide) (spells_opt spells_half) (readRequest_setSchedule 0) 
    (opt_length (n := 2) fun _ => rfl)

theorem takesOnly_setChannel : TakesOnly 0x0A fun n => 11 ≤ n ∧ n ≤ 25 := by
  refine takesOnly_two (by decide) spells_byte spells_channelItems (readRequest_setChannel 0) fun c x => ?_
  have := optByte_length x.enabled
  have := optHalf_length x.filterTag
  have := optHalf_length x.filterMask
  have := optByte_length x.textLead
  have := optByte_length x.lane
  have := optByte_length x.colour
  have := optByte_length x.toneMode
  have := optHalf_length x.pitch
  have := optByte_length x.level
  have := optHalf_length x.beepLength
  simp only [one, channelPayload, List.length_append, List.length_singleton]
  omega

theorem takesOnly_setTakeTiming : TakesOnly 0x0B fun n => 3 ≤ n ∧ n ≤ 7 := by
  refine takesOnly_one (by decide) spells_takeTiming (readRequest_setTakeTiming 0) fun x => ?_
  have := optByte_length x.punchLead
  have := optByte_length x.punchTail
  have := optHalf_length x.armWindow
  simp only [takeTimingPayload, List.length_append]
  omega

theorem takesOnly_setPassTiming : TakesOnly 0x0C fun n => 3 ≤ n ∧ n ≤ 8 := by
  refine takesOnly_one (by decide) spells_passTiming (readRequest_setPassTiming 0) fun x => ?_
  have := optHalf_length x.preroll
  have := optHalf_length x.postroll
  have := optByte_length x.locateTimeout
  simp only [passTimingPayload, List.length_append]
  omega

theorem takesOnly_setGuard : TakesOnly 0x0D fun n => 5 ≤ n ∧ n ≤ 18 := by
  refine takesOnly_two (by decide) spells_byte spells_guard (readRequest_setGuard 0) fun n x => ?_
  have := optByte_length x.enabled
  have := optHalf_length x.tracks
  have := optPos_length x.base
  have := optPos_length x.limit
  simp only [one, guardPayload, List.length_append, List.length_singleton]
  omega

theorem takesOnly_armTake : TakesOnly 0x20 fun n => n = 4 ∨ n = 6 := by
  refine takesOnly_two (by decide) spells_key (spells_opt spells_half) (readRequest_armTake 0) fun k x => ?_
  have key : (wireKeyItem k).length = 3 := rfl
  have := opt_length (item := half) (n := 2) (fun _ => rfl) x
  omega

theorem takesOnly_disarm : TakesOnly 0x21 fun n => n = 1 ∨ n = 4 :=
  takesOnly_one (by decide) spells_keyOrAll (readRequest_disarm 0) keyOrAllPayload_length

theorem takesOnly_abortTake : TakesOnly 0x22 fun n => n = 1 ∨ n = 4 :=
  takesOnly_one (by decide) spells_keyOrAll (readRequest_abortTake 0) keyOrAllPayload_length

theorem takesOnly_readTake : TakesOnly 0x23 fun n => n = 1 ∨ n = 3 :=
  takesOnly_one (by decide) spells_takeSelector (readRequest_readTake 0) selectorPayload_length

theorem takesOnly_clearSlots : TakesOnly 0x25 fun n => n = 1 ∨ n = 4 :=
  takesOnly_one (by decide) spells_keyOrAll (readRequest_clearSlots 0) keyOrAllPayload_length

theorem takesOnly_startPass : TakesOnly 0x30 fun n => 7 ≤ n ∧ n ≤ 18 := by
  refine takesOnly_one (by decide) spells_pass (readRequest_startPass 0) fun x => ?_
  have := optKey_length x.first
  have := optKey_length x.last
  have := optPos_length x.target
  simp only [passPayload, List.length_append, List.length_cons, List.length_nil]
  omega

/-- A payload shorter than its kind's shortest or longer than its longest (11 R189 step 2). -/
theorem malformedCause_out_of_bounds : ∀ x ∈
    [(0x08, 6, 14), (0x09, 1, 3), (0x0A, 11, 25), (0x0B, 3, 7), (0x0C, 3, 8), (0x0D, 5, 18), (0x20, 4, 6),
      (0x21, 1, 4), (0x22, 1, 4), (0x23, 1, 3), (0x25, 1, 4), (0x30, 7, 18)],
    ∀ p : List Byte, p.length < x.2.1 ∨ x.2.2 < p.length → malformedCause (BitVec.ofNat 8 x.1) p = some 5 := by
  simp only [List.forall_mem_cons]
  exact ⟨
    fun p out => takesOnly_setTracking.cause (by omega),
    fun p out => takesOnly_setSchedule.cause (by omega),
    fun p out => takesOnly_setChannel.cause (by omega),
    fun p out => takesOnly_setTakeTiming.cause (by omega),
    fun p out => takesOnly_setPassTiming.cause (by omega),
    fun p out => takesOnly_setGuard.cause (by omega),
    fun p out => takesOnly_armTake.cause (by omega),
    fun p out => takesOnly_disarm.cause (by omega),
    fun p out => takesOnly_abortTake.cause (by omega),
    fun p out => takesOnly_readTake.cause (by omega),
    fun p out => takesOnly_clearSlots.cause (by omega),
    fun p out => takesOnly_startPass.cause (by omega),
    List.forall_mem_nil _⟩

/-- A payload of a size between its kind's two (11 R189 step 2). -/
theorem malformedCause_between_sizes : ∀ x ∈
    [(0x09, 2), (0x20, 5), (0x21, 2), (0x21, 3), (0x22, 2), (0x22, 3), (0x23, 2), (0x25, 2), (0x25, 3)],
    ∀ p : List Byte, p.length = x.2 → malformedCause (BitVec.ofNat 8 x.1) p = some 5 := by
  simp only [List.forall_mem_cons]
  exact ⟨
    fun p size => takesOnly_setSchedule.cause (by omega),
    fun p size => takesOnly_armTake.cause (by omega),
    fun p size => takesOnly_disarm.cause (by omega),
    fun p size => takesOnly_disarm.cause (by omega),
    fun p size => takesOnly_abortTake.cause (by omega),
    fun p size => takesOnly_abortTake.cause (by omega),
    fun p size => takesOnly_readTake.cause (by omega),
    fun p size => takesOnly_clearSlots.cause (by omega),
    fun p size => takesOnly_clearSlots.cause (by omega),
    List.forall_mem_nil _⟩

/-! ### Presence and selector bytes above 1 (11 R188, R189; log 16) -/

/-- A presence or selector byte above 1 is the fault of a payload that is otherwise a request's. -/
theorem Marked.cause {k : Byte} {head tail : List Byte} {marked : List (List Byte)} {i : Instr}
    (h : Marked (readRequest k 0) head marked tail i) {n : Nat} {mark b : Byte} {item : List Byte}
    (hm : marked[n]? = some (mark :: item)) (above : 1 < b.toNat) :
    malformedCause k (head ++ (marked.set n (b :: item)).flatten ++ tail) = some 6 := by
  obtain ⟨mem, unsound⟩ := h.spoilt n mark b item [] hm above
  rw [List.append_nil] at mem unsound
  exact malformedCause_mark (requestCodes_of_mem mem) (mem_fullReadings.mpr ⟨mem, rfl⟩)
    fun x hx => unsound x (mem_fullReadings.mp hx).1

section
variable {α : Type} {read : List Byte → Readings α} {head tail : List Byte} {marked : List (List Byte)} {a : α}

theorem Marked.named (h : Marked read head marked tail a) (g : α → Instr) :
    Marked (fun l => (read l).andThen fun x l => .got (g x) l) head marked tail (g a) := h.andThen fun _ => rfl

theorem Marked.behindByte (h : Marked read head marked tail a) (g : Byte → α → Instr) (b : Byte) :
    Marked (fun l => (readByte l).andThen fun c l => (read l).andThen fun x l => .got (g c x) l) (b :: head) marked tail
      (g b a) := .lead (readByte_one b) (h.named (g b))

theorem Marked.behindKey (h : Marked read head marked tail a) (g : WireKey → α → Instr) (key : WireKey) :
    Marked (fun l => (readKey l).andThen fun k l => (read l).andThen fun x l => .got (g k x) l) (wireKeyItem key ++ head)
      marked tail (g key a) := .lead (readKey_item key) (h.named (g key))

end

theorem marked_loadCue (key : WireKey) (x : CueItems) (fits : textFits x.text = true) :
    Marked (readRequest 0x11 0)
      (wireKeyItem key ++ half x.tag ++ wirePosItem x.inPt ++ wirePosItem x.outPt
        ++ [x.streamer, x.beeps, x.interval, x.punch] ++ half x.tracks)
      [opt textItem x.text] [] (.loadCue 0 key x) := by
  have h : Marked (readRequest 0x11 0) _ _ _ _ := (marked_cue x fits).behindKey (.loadCue 0) key
  simpa [one] using h

theorem marked_updateCue (key : WireKey) {e : CueEdit} {text : Option (List Byte)} {head : List Byte}
    (named : e.text = some text) (fits : textFits text = true)
    (split : wireKeyItem key ++ editPayload e = head ++ opt textItem text) :
    Marked (readRequest 0x16 0) head [opt textItem text] [] (.updateCue 0 key e) := by
  have h := (marked_edit named fits).behindKey (.updateCue 0) key
  rw [editPayload_eq, named, ← List.append_assoc] at split
  rwa [List.append_cancel_right split] at h

theorem marked_armTake (key : WireKey) (x : Option Half) :
    Marked (readRequest 0x20 0) (wireKeyItem key) [opt half x] [] (.armTake 0 key x) := by
  have h : Marked (readRequest 0x20 0) _ _ _ _ := (marked_half x).behindKey (.armTake 0) key
  rwa [List.append_nil] at h

/-! ### The reply (11 R189) -/

/-- A malformed frame that is taken is answered with its cause and changes nothing else (11 R189). -/
theorem exec_malformedRequest {k tag : Byte} {p : List Byte} {cause : Nat} (h : malformedCause k p = some cause)
    {s : State} (c : s.canTake (.malformedRequest k tag p) = true) :
    exec (.malformedRequest k tag p) s =
      .next (s.taken.answered (replyKind k) tag [14, BitVec.ofNat 8 cause]) := by
  simp only [exec, execMalformedRequest, h]
  exact request_reads (f := ⟨k, tag, p⟩) (fun _ => [14, BitVec.ofNat 8 cause]) rfl c

/-- Settles O18: each clause names the cause of its frames, and the command answers a frame with its cause. -/
theorem malformedFrameIsAnswered : Obligations.MalformedFrameIsAnswered := by
  intro k tag answers spoilt answers_iff spoilt_iff
  have answered {p : List Byte} {cause : Nat} (h : malformedCause k p = some cause) :
      answers p (BitVec.ofNat 8 cause) := (answers_iff _ _).mpr fun s c => exec_malformedRequest h c
  have spoils {head tail : List Byte} {marked : List (List Byte)} {i : Instr}
      (h : Marked (readRequest k 0) head marked tail i) : spoilt head marked tail :=
    (spoilt_iff _ _ _).mpr fun n mark b item hm above => answered (h.cause hm above)
  have kind_eq {n : Nat} (hk : k.toNat = n) : k = BitVec.ofNat 8 n := by
    rw [← hk, BitVec.ofNat_toNat, BitVec.setWidth_eq]
  refine ⟨fun unknown p => answered (malformedCause_unknown unknown), fun i f fits h hk spells => ?_,
    fun x hx hk p out => ?_, fun x hx hk p size => ?_, ?_, ?_, ?_, ?_, ?_, ?_, ?_, ?_, ?_, ?_, ?_, ?_⟩
  · subst hk
    have reads : ⟨i, true, []⟩ ∈ fullReadings f.kind f.tag f.payload := by
      rw [fullReadings_frame fits h spells]
      exact List.mem_singleton_self _
    have known := requestCodes_of_mem (mem_fullReadings.mp reads).1
    refine ⟨fun c more => answered ?_, fun p more c cut => answered ?_, fun s => ?_⟩
    · exact malformedCause_length known (fullReadings_eq_nil_tag (fullReadings_longer fits h spells c more))
    · exact malformedCause_length known (fullReadings_eq_nil_tag (fullReadings_shorter fits h spells cut))
    · exact exec_malformedRequest_spelt (malformedCause_eq_none reads rfl) s
  · exact answered (kind_eq hk ▸ malformedCause_out_of_bounds x hx p out)
  · exact answered (kind_eq hk ▸ malformedCause_between_sizes x hx p size)
  · rintro rfl x
    exact spoils ((marked_tracking x).named (.setTracking 0))
  · rintro rfl w
    exact spoils ((marked_half w).named (.setSchedule 0))
  · rintro rfl ch x
    exact spoils ((marked_channelItems x).behindByte (.setChannel 0) ch)
  · rintro rfl x
    exact spoils ((marked_takeTiming x).named (.setTakeTiming 0))
  · rintro rfl x
    exact spoils ((marked_passTiming x).named (.setPassTiming 0))
  · rintro rfl n x
    exact spoils ((marked_guard x).behindByte (.setGuard 0) n)
  · rintro rfl key x fits
    exact spoils (marked_loadCue key x fits)
  · rintro rfl key e text head named fits split
    exact spoils (marked_updateCue key named fits split)
  · rintro rfl key x
    exact spoils (marked_armTake key x)
  · rintro (rfl | rfl | rfl) which
    · exact spoils ((marked_keyOrAll which).named (.disarm 0))
    · exact spoils ((marked_keyOrAll which).named (.abortTake 0))
    · exact spoils ((marked_keyOrAll which).named (.clearSlots 0))
  · rintro rfl which
    exact spoils ((marked_takeSelector which).named (.readTake 0))
  · rintro rfl x
    exact spoils ((marked_pass x).named (.startPass 0))

end Sys2Proof.Machine
end
